-- ==== Sys2Proof/Word.lean ====
section
/-!
DEFINITION. The words of the machine: bytes, 32-bit lane words, 64-bit scalars, and the 1,024-bit
vectors that hold a 128-byte line (R238) or a write signature (R386).
-/
namespace Sys2Proof

abbrev Byte := BitVec 8
abbrev Half := BitVec 16
abbrev Word := BitVec 32
abbrev DWord := BitVec 64
/-- A 128-byte line, byte i in bits [8i+7:8i] (R8), or a 1,024-bit signature (R386). -/
abbrev Line := BitVec 1024

end Sys2Proof
end

