-- ==== Sys2Proof/Syntax.lean ====
section
/-!
DEFINITION. The syntax: operand codes (R18), comparison conditions (R91), the data that outside
events carry, and the one inductive of instructions and events, one constructor per row of the
opcode table.
-/
namespace Sys2Proof

/-- An operand code of R18: a vector register v0-v175, a queue register q0-q15 (q8-q15 reserved), or
a scalar register s0-s63. Every 8-bit code is one of these. -/
inductive Reg where
  | v (i : Fin 176)
  | q (i : Fin 16)
  | s (i : Fin 64)
deriving DecidableEq, Repr

/-- The comparison conditions of R91 in the order of their codes 0 to 5. -/
inductive Cond where
  | eq | ne | lt | le | gt | ge
deriving DecidableEq, Repr

/-- What a request to another package or to the host does (R442, R450, R452). -/
inductive RemoteOp where
  | load | store | add | min | max | and | or | xor | xchg | cas | fadd
deriving DecidableEq, Repr

/-- Where a storage error or a self-test stands (R460, R463). A DRAM place (stack DRAM or edge memory) is a
physical address; an SRAM place names stack, slice and way with an address held there; a local-memory place a
core and a 128-byte block of its 512 KiB, and an L1 place the bank and the line held there; a register-file place
a core and partition, with the group and register hit (v r of lane l as 64 r + l, s i as 2^14 + i, predicate k as
2^15 + k); an accumulator place a core and absolute row; a parity place the TLB entry or handle entry discarded,
if it is one; a buffer place a line on its way to memory. -/
inductive EccPlace where
  | dram (pa : Nat)
  | sram (stack slice way pa : Nat)
  | localMem (core block : Nat)
  | l1Data (core bank line : Nat)
  | regFile (core partition group reg : Nat)
  | accStore (core row : Nat)
  | parity (core : Nat) (tlb handle line : Option Nat)
  | buffer (core line : Nat)
deriving DecidableEq, Repr

/-- A request of another package (R452): its source, operation, local address and size, its data (for a
compare-and-swap the compare value below the new one), and what an atomic takes from the requesting instruction:
MODE, draw, lane and PC. -/
structure Inbound where
  src : BitVec 12
  op : RemoteOp
  addr : Nat
  size : Nat
  data : BitVec 128
  mode : BitVec 24
  draw : Word
  lane : Nat
  pc : BitVec 64
deriving DecidableEq, Repr

/-- What of bring-up's training and self-tests succeeds: the edge dies and the ring, the stacks' memories, the host port (R473). -/
structure Training where
  ring : Bool
  memory : Bool
  port : Bool
deriving DecidableEq, Repr

/-- A firmware image: the header fields of R454 and the body. -/
structure FwImage where
  magic : BitVec 32
  kind : BitVec 32
  svn : BitVec 64
  length : BitVec 64
  digest : BitVec 512
  modulus : BitVec 4096
  exponent : BitVec 32
  reserved : BitVec 32
  signature : BitVec 4096
  body : List (BitVec 8)
deriving DecidableEq, Repr

/-- The instructions (rows of the opcode table with a word, in opcode order) and the events. -/
inductive Instr where
  | nop
  | exit
  | bra (off : BitVec 24)
  | brc (p : BitVec 3) (neg : Bool) (off : BitVec 20)
  | call (off : BitVec 24)
  | ret
  | jmpr (a : Reg)
  | regang
  | loop (k : BitVec 2) (cnt : BitVec 6) (len : BitVec 16)
  | leave (k : BitVec 2)
  | setm (imm : BitVec 24)
  | setp (imm : BitVec 8)
  | setlive (a : Reg)
  | trap (imm : BitVec 16)
  | waitt (imm : BitVec 8)
  | sysr (d : Reg) (imm : BitVec 16)
  | sysw (d : Reg) (imm : BitVec 16)
  | bar (imm : BitVec 8)
  | bara (imm : BitVec 8)
  | barw (imm : BitVec 8)
  | paltake (imm : BitVec 8)
  | paltry (pd : BitVec 3) (imm : BitVec 8)
  | palgive (imm : BitVec 8)
  | yield
  | spawn (d : Reg) (a : Reg) (b : Reg)
  | tloc (d : Reg)
  | fence
  | hswap (a : Reg)
  | srcfg (d : Reg) (imm : BitVec 8)
  | pin (a : Reg) (b : Reg)
  | unpin (a : Reg) (b : Reg)
  | tret
  | sadd (d : Reg) (a : Reg) (b : Reg)
  | ssub (d : Reg) (a : Reg) (b : Reg)
  | smul (d : Reg) (a : Reg) (b : Reg)
  | smulh (d : Reg) (a : Reg) (b : Reg)
  | sdiv (d : Reg) (a : Reg) (b : Reg)
  | sdivn (d : Reg) (a : Reg) (b : Reg)
  | srem (d : Reg) (a : Reg) (b : Reg)
  | sand (d : Reg) (a : Reg) (b : Reg)
  | sor (d : Reg) (a : Reg) (b : Reg)
  | sxor (d : Reg) (a : Reg) (b : Reg)
  | sshl (d : Reg) (a : Reg) (b : Reg)
  | sshr (d : Reg) (a : Reg) (b : Reg)
  | ssra (d : Reg) (a : Reg) (b : Reg)
  | smin (d : Reg) (a : Reg) (b : Reg)
  | smax (d : Reg) (a : Reg) (b : Reg)
  | scmp (pd : BitVec 3) (c : Cond) (a : Reg) (b : Reg)
  | saddi (d : Reg) (a : Reg) (imm : BitVec 8)
  | smovi (d : Reg) (imm : BitVec 16)
  | smovx (d : Reg) (imm : BitVec 32)
  | smovxh (d : Reg) (imm : BitVec 32)
  | sshli (d : Reg) (a : Reg) (imm : BitVec 8)
  | sshri (d : Reg) (a : Reg) (imm : BitVec 8)
  | ssrai (d : Reg) (a : Reg) (imm : BitVec 8)
  | sandi (d : Reg) (a : Reg) (imm : BitVec 8)
  | smadi (d : Reg) (a : Reg) (imm : BitVec 8)
  | spopc (d : Reg) (a : Reg)
  | sclz (d : Reg) (a : Reg)
  | rfal (d : Reg) (a : Reg)
  | smask (d : Reg) (pa : BitVec 3)
  | sid (d : Reg) (imm : BitVec 8)
  | ssel (d : Reg) (pk : BitVec 3) (a : Reg) (b : Reg)
  | vadd (d : Reg) (a : Reg) (b : Reg)
  | vsub (d : Reg) (a : Reg) (b : Reg)
  | vmul (d : Reg) (a : Reg) (b : Reg)
  | vmulh (d : Reg) (a : Reg) (b : Reg)
  | vmad (d : Reg) (a : Reg) (b : Reg)
  | vand (d : Reg) (a : Reg) (b : Reg)
  | vor (d : Reg) (a : Reg) (b : Reg)
  | vxor (d : Reg) (a : Reg) (b : Reg)
  | vshl (d : Reg) (a : Reg) (b : Reg)
  | vshr (d : Reg) (a : Reg) (b : Reg)
  | vsra (d : Reg) (a : Reg) (b : Reg)
  | vmin (d : Reg) (a : Reg) (b : Reg)
  | vmax (d : Reg) (a : Reg) (b : Reg)
  | vabsd (d : Reg) (a : Reg) (b : Reg)
  | vcmp (pd : BitVec 3) (c : Cond) (a : Reg) (b : Reg)
  | vsel (d : Reg) (pk : BitVec 3) (a : Reg) (b : Reg)
  | vaddi (d : Reg) (a : Reg) (imm : BitVec 8)
  | vmovi (d : Reg) (imm : BitVec 16)
  | vmovx (d : Reg) (imm : BitVec 32)
  | vshli (d : Reg) (a : Reg) (imm : BitVec 8)
  | vshri (d : Reg) (a : Reg) (imm : BitVec 8)
  | vsrai (d : Reg) (a : Reg) (imm : BitVec 8)
  | vpopc (d : Reg) (a : Reg)
  | vclz (d : Reg) (a : Reg)
  | vlane (d : Reg)
  | vmov (d : Reg) (a : Reg)
  | pand (pd : BitVec 3) (pa : BitVec 3) (pb : BitVec 3)
  | por (pd : BitVec 3) (pa : BitVec 3) (pb : BitVec 3)
  | pxor (pd : BitVec 3) (pa : BitVec 3) (pb : BitVec 3)
  | pnot (pd : BitVec 3) (pa : BitVec 3)
  | ptest (pd : BitVec 3) (pa : BitVec 3)
  | vpacks (d : Reg) (a : Reg) (b : Reg)
  | vfadd (d : Reg) (a : Reg) (b : Reg)
  | vfsub (d : Reg) (a : Reg) (b : Reg)
  | vfmul (d : Reg) (a : Reg) (b : Reg)
  | vfma (d : Reg) (a : Reg) (b : Reg)
  | vfms (d : Reg) (a : Reg) (b : Reg)
  | vfnma (d : Reg) (a : Reg) (b : Reg)
  | vfmin (d : Reg) (a : Reg) (b : Reg)
  | vfmax (d : Reg) (a : Reg) (b : Reg)
  | vfcmp (pd : BitVec 3) (c : Cond) (a : Reg) (b : Reg)
  | vfabs (d : Reg) (a : Reg)
  | vfneg (d : Reg) (a : Reg)
  | vfdiv (d : Reg) (a : Reg) (b : Reg)
  | vfsqrt (d : Reg) (a : Reg)
  | vfrcp (d : Reg) (a : Reg)
  | vfrsq (d : Reg) (a : Reg)
  | vfexp2 (d : Reg) (a : Reg)
  | vflog2 (d : Reg) (a : Reg)
  | vfsinp (d : Reg) (a : Reg)
  | vfcosp (d : Reg) (a : Reg)
  | vftanh (d : Reg) (a : Reg)
  | vfsigm (d : Reg) (a : Reg)
  | vcvt (d : Reg) (a : Reg) (imm : BitVec 8)
  | vcvti (d : Reg) (a : Reg) (imm : BitVec 8)
  | vfclass (d : Reg) (a : Reg)
  | vfrnd (d : Reg) (a : Reg)
  | vfscale (d : Reg) (a : Reg) (b : Reg)
  | vfdot2 (d : Reg) (a : Reg) (b : Reg)
  | vqnt (d : Reg) (a : Reg) (slot : BitVec 3)
  | vdqnt (d : Reg) (a : Reg) (slot : BitVec 3)
  | vtpack (d : Reg) (a : Reg)
  | vtunpk (d : Reg) (a : Reg) (slot : BitVec 3)
  | vshfl (d : Reg) (a : Reg) (b : Reg)
  | vsend (d : Reg) (a : Reg) (b : Reg)
  | vrot (d : Reg) (a : Reg) (b : Reg)
  | vbcl (d : Reg) (a : Reg) (imm : BitVec 8)
  | vred (d : Reg) (a : Reg) (imm : BitVec 8)
  | vscan (d : Reg) (a : Reg) (imm : BitVec 8)
  | vballot (d : Reg) (pa : BitVec 3)
  | vmatch (d : Reg) (a : Reg)
  | vcomp (d : Reg) (a : Reg)
  | efadd (d : Reg) (a : Reg) (b : Reg)
  | efsub (d : Reg) (a : Reg) (b : Reg)
  | efmul (d : Reg) (a : Reg) (b : Reg)
  | effma (d : Reg) (a : Reg) (b : Reg)
  | efdiv (d : Reg) (a : Reg) (b : Reg)
  | efsqrt (d : Reg) (a : Reg)
  | efcmp (pd : BitVec 3) (c : Cond) (a : Reg) (b : Reg)
  | efcvt (d : Reg) (a : Reg) (imm : BitVec 8)
  | efcvto (d : Reg) (a : Reg) (imm : BitVec 8)
  | efrnd (d : Reg) (a : Reg)
  | eflen (d : Reg) (a : Reg)
  | efneg (d : Reg) (a : Reg)
  | efabs (d : Reg) (a : Reg)
  | efld (d : Reg) (a : Reg) (b : Reg)
  | efst (d : Reg) (a : Reg) (b : Reg)
  | efldw (d : Reg) (a : Reg) (b : Reg)
  | ldg8 (d : Reg) (a : Reg) (b : Reg)
  | ldg16 (d : Reg) (a : Reg) (b : Reg)
  | ldg32 (d : Reg) (a : Reg) (b : Reg)
  | ldg64 (d : Reg) (a : Reg) (b : Reg)
  | ldg128 (d : Reg) (a : Reg) (b : Reg)
  | stg8 (d : Reg) (a : Reg) (b : Reg)
  | stg16 (d : Reg) (a : Reg) (b : Reg)
  | stg32 (d : Reg) (a : Reg) (b : Reg)
  | stg64 (d : Reg) (a : Reg) (b : Reg)
  | stg128 (d : Reg) (a : Reg) (b : Reg)
  | lds32 (d : Reg) (a : Reg) (imm : BitVec 8)
  | lds128 (d : Reg) (a : Reg) (imm : BitVec 8)
  | sts32 (d : Reg) (a : Reg) (imm : BitVec 8)
  | sts128 (d : Reg) (a : Reg) (imm : BitVec 8)
  | sld (d : Reg) (a : Reg) (imm : BitVec 8)
  | sst (d : Reg) (a : Reg) (imm : BitVec 8)
  | aadd (d : Reg) (a : Reg) (b : Reg)
  | amin (d : Reg) (a : Reg) (b : Reg)
  | amax (d : Reg) (a : Reg) (b : Reg)
  | aand (d : Reg) (a : Reg) (b : Reg)
  | aor (d : Reg) (a : Reg) (b : Reg)
  | axor (d : Reg) (a : Reg) (b : Reg)
  | axchg (d : Reg) (a : Reg) (b : Reg)
  | acas (d : Reg) (a : Reg) (b : Reg)
  | afadd (d : Reg) (a : Reg) (b : Reg)
  | saadd (d : Reg) (a : Reg)
  | cpy (tok : BitVec 3) (flags : BitVec 5) (a : Reg)
  | cpyt (tok : BitVec 3) (flags : BitVec 5) (a : Reg) (b : Reg)
  | pref (a : Reg) (b : Reg)
  | invl (a : Reg) (b : Reg)
  | sacas (d : Reg) (a : Reg)
  | mma (sa : BitVec 6) (sb : BitVec 6) (fa : BitVec 3) (fb : BitVec 3) (sc : BitVec 6)
  | mmar (sa : BitVec 6) (sb : BitVec 6) (fa : BitVec 3) (fb : BitVec 3) (sc : BitVec 6)
  | accz (a : Reg)
  | accld (a : Reg) (b : Reg)
  | accst (d : Reg) (a : Reg) (slot : BitVec 3)
  | accdr (d : Reg) (a : Reg) (b : Reg) (slot : BitVec 3)
  | accrd (d : Reg) (a : Reg)
  | accwr (d : Reg) (b : Reg)
  | mwait
  | mscl (a : Reg) (b : Reg)
  | glzcfg (a : Reg) (b : Reg)
  | glzjoin (a : Reg)
  | glzend
  | glzbar
  | glzcin (d : Reg)
  | glzleave
  | ill
-- Events of the part itself and of the outside world: the rows of the table that have no word.
  | handleEntryDrop (core : Nat)
  | srwaysPublish (core : Nat)
  | undefinedOpcode (op : BitVec 8)
  | copyRow (core idx : Nat)
  | matrixPassStart (core : Nat)
  | matrixOpComplete (core idx : Nat)
  | accdrMerge (core idx : Nat)
  | sfuResult (group lane : Nat)
  | glazeElementAccept (group : Nat)
  | glazeCarryArrive (launch rank : Nat)
  | glazeRoundComplete (launch rank : Nat)
  | glazeResultDeliver (group lane : Nat)
  | groupEnd (group : Nat)
  | teamAdmit (stack : Nat)
  | teamRestore (stack : Nat)
  | forcedSave (launch team : Nat)
  | forwardProgressSwap (core : Nat)
  | drainLimitSave (core launch : Nat)
  | wcbDrain (core line : Nat)
  | sliceRequest (stack slice idx : Nat)
  | edgeMemoryRequest (edge idx : Nat)
  | loadResponse (group idx : Nat)
  | signaturePublish (core : Nat)
  | governorPeriod (stack : Nat) (td tb : Int) (idle avail : Nat)
  | powerLimitPeriod (watts : Nat)
  | waitForWalk
  | knotBreakDeliver (seq : Nat)
  | occupancyReport (core : Nat)
  | waitReread (queue : Nat)
  | headStart
  | recordRead (queue : Nat)
  | recordReread (queue : Nat)
  | teamHandout
  | launchComplete (launch : Nat)
  | completionRecord (queue : Nat)
  | launchStop (launch : Nat)
  | qkick (queue : Nat) (value : BitVec 64)
  | qcfg (queue : Nat) (value : BitVec 64)
  | qctlCancel (queue : Nat)
  | qctlRenumber (queue : Nat)
  | lcmdDrain (launch : Nat)
  | lcmdResume (launch : Nat)
  | lcmdAbort (launch : Nat)
  | invcmdTlb (asid : BitVec 16) (all hnd : Bool)
  | invcmdHnd (asid : BitVec 16)
  | invalidationComplete
  | chead (queue : Nat) (value : BitVec 64)
  | controlRegisterWrite (offset : Nat) (value : BitVec 64)
  | mbAttest
  | mbCertificate
  | mbKeyLoad (slot : BitVec 6) (wrap : Bool)
  | mbKeyUnload (slot : BitVec 6)
  | mbRaiseSvn
  | hostHdmAccess (addr : Nat) (write : Option (BitVec 512))
  | hostWindowCompletion (id : Nat) (data : BitVec 128) (good : Bool)
  | hostRequestTimeout (id : Nat)
  | fabricInboundRequest (req : Inbound)
  | fabricResponse (id : Nat) (data : BitVec 128) (accepted : Bool)
  | fabricResponseTimeout (id : Nat)
  | portStateChange (port : BitVec 6) (up : Bool)
  | bringUp (images : List FwImage) (trained : Training)
  | functionLevelReset
  | eccError (place : EccPlace) (corrected : Bool)
  | selfTest (place : EccPlace) (passed : Bool)
  | wearPrediction (stack eol em : Nat)
  | segmentLoad (core : Nat)
  | travellerDeparture (group : Nat)
  | packetArrival (idx : Nat)
  | travellerAdmission (core : Nat)
  | spawnAllocate (launch : Nat)
  | segmentReplication (launch segment : Nat)
  | travellerProgressSwap (core : Nat)
deriving DecidableEq, Repr

end Sys2Proof
end

