-- ==== Sys2Proof/Config.lean ====
section
/-!
DEFINITION. What the part's implementation fixes and the manual leaves open. Every constant here is
opaque: nothing can evaluate it or prove a value of it, so a statement holds whatever it is.
-/
namespace Sys2Proof.Config

/-- A free 32-bit value, one for each count of State.free (log 3). -/
opaque freeWord : Nat → Word
/-- The device's RSASSA-PSS signature over a byte string (R457). -/
opaque pssSign : List (BitVec 8) → BitVec 4096
/-- RSA-OAEP unwrapping under the identity key (R456): 64 bytes of keys, or nothing. -/
opaque oaepUnwrap : List (BitVec 8) → Option (BitVec 512)
/-- The identity certificate, at most 2 KiB (R456). -/
opaque certificate : List (BitVec 8)
/-- The vendor key digest in fuses (R454). -/
opaque vendorDigest : BitVec 512
/-- The 64 KiB frames that hold the other bytes of the DRAM row of a physical address (R464): the manual does not lay out the
rows. -/
opaque rowFrames : Nat → List Nat
/-- The 128-bit serial number and the stepping of the part (R449, R457). -/
opaque serial : BitVec 128
opaque stepping : BitVec 16

end Sys2Proof.Config
end

