-- ==== Sys2Proof/Machine/Table.lean ====
section
/-!
DEFINITION. Sparse tables as plain data: a list of (key, value) pairs, kept sorted by key. A
table read with a default stands for a total function; `tput` keeps the canonical form in which
no entry equals the default, so that equal functions are equal lists.
-/
namespace Sys2Proof.Machine

abbrev Table (α : Type) := List (Nat × α)

/-- The value listed under a key. -/
def tfind {α : Type} : Table α → Nat → Option α
  | [], _ => none
  | (k, v) :: t, n => if k = n then some v else tfind t n

/-- The value under a key, or the default. -/
def tget {α : Type} (d : α) (t : Table α) (n : Nat) : α := (tfind t n).getD d

/-- Lists a value under a key, replacing what was there. -/
def tset {α : Type} : Table α → Nat → α → Table α
  | [], n, v => [(n, v)]
  | (k, w) :: t, n, v =>
    if n < k then (n, v) :: (k, w) :: t
    else if n = k then (n, v) :: t
    else (k, w) :: tset t n v

/-- Takes a key out of the list. -/
def tdel {α : Type} : Table α → Nat → Table α
  | [], _ => []
  | (k, w) :: t, n => if k = n then tdel t n else (k, w) :: tdel t n

/-- Writes a value in canonical form: writing the default takes the entry out. -/
def tput {α : Type} [DecidableEq α] (d : α) (t : Table α) (n : Nat) (v : α) : Table α :=
  if v = d then tdel t n else tset t n v

/-- The canonical form: keys strictly rising and no entry equal to the default. -/
def tcanon {α : Type} [DecidableEq α] (d : α) : Table α → Bool
  | [] => true
  | [(_, v)] => v != d
  | (k, v) :: (k', v') :: t => v != d && decide (k < k') && tcanon d ((k', v') :: t)

/-- Replaces the n-th item of a list, if there is one. -/
def lset {α : Type} : List α → Nat → α → List α
  | [], _, _ => []
  | _ :: t, 0, v => v :: t
  | x :: t, n + 1, v => x :: lset t n v

/-- Takes the n-th item out of a list. -/
def ldel {α : Type} : List α → Nat → List α
  | [], _ => []
  | _ :: t, 0 => t
  | x :: t, n + 1 => x :: ldel t n

end Sys2Proof.Machine
end

