-- ==== Sys2Proof/Machine/Crypto.lean ====
section
/-!
DEFINITION. The cryptographic functions that the manual names by their standards: SHA-512 (FIPS 180-4), the verification of
an RSASSA-PSS signature with MGF1 (RFC 8017) for firmware images (R454), and AES-256 in XTS mode (FIPS 197, IEEE 1619) for
the lines of encrypted pages (R458).
-/
namespace Sys2Proof.Machine

/-- The n bytes of a number, least significant first. -/
def numBytes (x : Nat) : Nat → List (BitVec 8)
  | 0 => []
  | n + 1 => BitVec.ofNat 8 x :: numBytes (x / 256) n

/-- The number that bytes give, least significant first. -/
def bytesNum (bs : List (BitVec 8)) : Nat := bs.foldr (fun b a => b.toNat + 256 * a) 0

/-- The number that bytes give, most significant first. -/
def bigNum (bs : List (BitVec 8)) : Nat := bytesNum bs.reverse

/-- Bytes xored pairwise. -/
def xorBytes (xs ys : List (BitVec 8)) : List (BitVec 8) := (xs.zip ys).map fun e => e.1 ^^^ e.2

/-! ## SHA-512 -/

/-- The largest x of n bits whose k-th power is at most a. -/
def rootOf (k a : Nat) : Nat → Nat → Nat
  | 0, x => x
  | n + 1, x => rootOf k a n (if (x + 2 ^ n) ^ k ≤ a then x + 2 ^ n else x)

/-- The first n primes from p on; fuel bounds the search. -/
def primesFrom (p n : Nat) : Nat → List Nat
  | 0 => []
  | fuel + 1 =>
    if n = 0 then []
    else if (List.range p).all fun d => d < 2 || p % d != 0 then p :: primesFrom (p + 1) (n - 1) fuel
    else primesFrom (p + 1) n fuel

/-- The first 64 bits of the fractional parts of the cube roots of the first 80 primes, and of the square roots of the first
8. -/
def shaK : List (BitVec 64) := (primesFrom 2 80 420).map fun p => BitVec.ofNat 64 (rootOf 3 (p * 2 ^ 192) 72 0)
def shaStart : List (BitVec 64) := (primesFrom 2 8 30).map fun p => BitVec.ofNat 64 (rootOf 2 (p * 2 ^ 128) 72 0)

def shaSigma (a b c : Nat) (shift : Bool) (x : BitVec 64) : BitVec 64 :=
  x.rotateRight a ^^^ x.rotateRight b ^^^ (if shift then x >>> c else x.rotateRight c)

/-- The message schedule, newest word first. -/
def shaSchedule : Nat → List (BitVec 64) → List (BitVec 64)
  | 0, w => w
  | n + 1, w =>
    let at_ (i : Nat) : BitVec 64 := w.getD (i - 1) 0
    shaSchedule n ((shaSigma 19 61 6 true (at_ 2) + at_ 7 + shaSigma 1 8 7 true (at_ 15) + at_ 16) :: w)

/-- One round, on the eight working words. -/
def shaRound (v : List (BitVec 64)) (kw : BitVec 64 × BitVec 64) : List (BitVec 64) :=
  match v with
  | [a, b, c, d, e, f, g, h] =>
    let t1 := h + shaSigma 14 18 41 false e + ((e &&& f) ^^^ (~~~e &&& g)) + kw.1 + kw.2
    let t2 := shaSigma 28 34 39 false a + ((a &&& b) ^^^ (a &&& c) ^^^ (b &&& c))
    [t1 + t2, a, b, c, d + t1, e, f, g]
  | _ => v

/-- The sixteen words of a block, the last one first. -/
def blockWords (bs : List (BitVec 8)) : List (BitVec 64) :=
  ((List.range 16).map fun i => BitVec.ofNat 64 (bigNum ((bs.drop (8 * i)).take 8))).reverse

/-- The hash words after n more blocks. -/
def shaBlocks : Nat → List (BitVec 64) → List (BitVec 8) → List (BitVec 64)
  | 0, v, _ => v
  | n + 1, v, bs =>
    let w := (shaSchedule 64 (blockWords (bs.take 128))).reverse
    let x := (shaK.zip w).foldl shaRound v
    shaBlocks n ((v.zip x).map fun e => e.1 + e.2) (bs.drop 128)

/-- The 64 bytes of SHA-512. -/
def shaBytes (bs : List (BitVec 8)) : List (BitVec 8) :=
  let n := bs.length
  let pad := (239 - n % 128) % 128
  let all := bs ++ 0x80 :: List.replicate pad 0 ++ (numBytes (8 * n) 16).reverse
  (shaBlocks (all.length / 128) shaStart all).flatMap fun w => (numBytes w.toNat 8).reverse

/-- SHA-512 as a field of 64 bytes holds it. -/
def sha512 (bs : List (BitVec 8)) : BitVec 512 := BitVec.ofNat 512 (bytesNum (shaBytes bs))

/-! ## RSASSA-PSS with SHA-512 and a salt of 64 bytes -/

/-- b to the power of the n low bits of e, modulo m. -/
def powMod (b e m : Nat) : Nat → Nat
  | 0 => 1 % m
  | n + 1 =>
    let x := powMod (b * b % m) (e / 2) m n
    if e % 2 = 1 then b * x % m else x

/-- n bytes of the mask of MGF1. -/
def mgf1 (seed : List (BitVec 8)) (n : Nat) : List (BitVec 8) :=
  ((List.range ((n + 63) / 64)).flatMap fun c => shaBytes (seed ++ (numBytes c 4).reverse)).take n

/-- The signature of a message verifies under a modulus and an exponent. The signature is a number of 512 bytes, the least
significant first like the modulus (log 98). -/
def pssVerify (modulus : BitVec 4096) (exponent : BitVec 32) (msg : List (BitVec 8)) (signature : BitVec 4096) : Bool :=
  let n := modulus.toNat
  let bits := n.log2
  let len := (bits + 7) / 8
  let em := (numBytes (powMod signature.toNat exponent.toNat n 32) len).reverse
  let top : BitVec 8 := BitVec.ofNat 8 (255 / 2 ^ (8 * len - bits))
  let masked := em.take (len - 65)
  let h := (em.drop (len - 65)).take 64
  let db := match xorBytes masked (mgf1 h (len - 65)) with | [] => [] | b :: t => (b &&& top) :: t
  let salt := db.drop (len - 129)
  decide (signature.toNat < n ∧ 130 ≤ len ∧ powMod signature.toNat exponent.toNat n 32 < 256 ^ len) &&
    em.getLast? == some 0xBC && (masked.headD 0 &&& ~~~top) == 0 &&
    db.take (len - 130) == List.replicate (len - 130) 0 && (db.drop (len - 130)).head? == some 1 &&
    shaBytes (List.replicate 8 0 ++ shaBytes msg ++ salt) == h

/-! ## AES-256 -/

/-- The product in the field of 256 elements, over n bits of y. -/
def gfMul (x y : BitVec 8) : Nat → BitVec 8
  | 0 => 0
  | n + 1 => (if y.getLsbD 0 then x else 0) ^^^ gfMul ((x <<< 1) ^^^ (if x.getLsbD 7 then 0x1B else 0)) (y >>> 1) n

def gf (x y : BitVec 8) : BitVec 8 := gfMul x y 8

/-- The inverse, x to the power 254; 0 for 0. -/
def gfInv (x : BitVec 8) : BitVec 8 :=
  let sq (y : BitVec 8) : BitVec 8 := gf y y
  let x2 := sq x
  let x4 := sq x2
  let x8 := sq x4
  let x16 := sq x8
  let x32 := sq x16
  let x64 := sq x32
  gf (gf (gf x2 x4) (gf x8 x16)) (gf (gf x32 x64) (sq x64))

def aesSub (x : BitVec 8) : BitVec 8 :=
  let b := gfInv x
  b ^^^ b.rotateLeft 1 ^^^ b.rotateLeft 2 ^^^ b.rotateLeft 3 ^^^ b.rotateLeft 4 ^^^ 0x63
def aesUnsub (x : BitVec 8) : BitVec 8 := gfInv (x.rotateLeft 1 ^^^ x.rotateLeft 3 ^^^ x.rotateLeft 6 ^^^ 0x05)

/-- The round constants' bytes. -/
def rcon : Nat → BitVec 8
  | 0 => 1
  | n + 1 => gf 2 (rcon n)

/-- The key schedule, four bytes a word, newest first; i is the number of the next word. -/
def aesExpand : Nat → Nat → List (List (BitVec 8)) → List (List (BitVec 8))
  | 0, _, w => w
  | n + 1, i, w =>
    let t := w.headD []
    let t := if i % 8 = 0 then xorBytes ((t.rotateLeft 1).map aesSub) [rcon (i / 8 - 1), 0, 0, 0]
      else if i % 8 = 4 then t.map aesSub else t
    aesExpand n (i + 1) (xorBytes (w.getD 7 []) t :: w)

/-- The fifteen round keys of a key of 32 bytes. -/
def aesKeys (key : List (BitVec 8)) : List (List (BitVec 8)) :=
  let first := ((List.range 8).map fun i => (key.drop (4 * i)).take 4).reverse
  let w := (aesExpand 52 8 first).reverse
  (List.range 15).map fun r => ((w.drop (4 * r)).take 4).flatten

/-- Byte i of the state moves from row i mod 4, `k` columns per row away. -/
def aesShift (k : Nat) (x : List (BitVec 8)) : List (BitVec 8) :=
  (List.range 16).map fun i => x.getD ((i + 4 * k * (i % 4)) % 16) 0

/-- Each column times the circulant matrix of a first row. -/
def aesMix (m : List (BitVec 8)) (x : List (BitVec 8)) : List (BitVec 8) :=
  (List.range 16).map fun i =>
    (List.range 4).foldl (fun a j => a ^^^ gf (m.getD ((j + 4 - i % 4) % 4) 0) (x.getD (i / 4 * 4 + j) 0)) 0

def aesEncrypt (keys : List (List (BitVec 8))) (x : List (BitVec 8)) : List (BitVec 8) :=
  let key (r : Nat) : List (BitVec 8) := keys.getD r []
  let sub (x : List (BitVec 8)) : List (BitVec 8) := aesShift 1 (x.map aesSub)
  let y := (List.range 13).foldl (fun x r => xorBytes (aesMix [2, 3, 1, 1] (sub x)) (key (r + 1))) (xorBytes x (key 0))
  xorBytes (sub y) (key 14)

def aesDecrypt (keys : List (List (BitVec 8))) (x : List (BitVec 8)) : List (BitVec 8) :=
  let key (r : Nat) : List (BitVec 8) := keys.getD r []
  let unsub (x : List (BitVec 8)) : List (BitVec 8) := (aesShift 3 x).map aesUnsub
  let y := (List.range 13).foldl (fun x r => aesMix [14, 11, 13, 9] (xorBytes (unsub x) (key (13 - r)))) (xorBytes x (key 14))
  xorBytes (unsub y) (key 0)

/-! ## XTS over one line (R458) -/

/-- The tweak of the next block. -/
def xtsNext (t : Nat) : Nat := if t < 2 ^ 127 then 2 * t else (2 * t - 2 ^ 128) ^^^ 0x87

/-- The blocks of a line, n of them, each run under its tweak. -/
def xtsBlocks (f : List (BitVec 8) → List (BitVec 8)) (t : Nat) : Nat → List (BitVec 8) → List (BitVec 8)
  | 0, _ => []
  | n + 1, x =>
    let w := numBytes t 16
    xorBytes (f (xorBytes (x.take 16) w)) w ++ xtsBlocks f (xtsNext t) n (x.drop 16)

/-- The data key and the tweak key of a pair: 32 bytes each, the data key first (R456). -/
def dataKey (k : BitVec 512) : List (List (BitVec 8)) := aesKeys (numBytes k.toNat 32)
def tweakKey (k : BitVec 512) : List (List (BitVec 8)) := aesKeys (numBytes (k.toNat / 2 ^ 256) 32)

/-- The first block's tweak: the line number under the tweak key. -/
def xtsTweak (k : BitVec 512) (line : Nat) : Nat := bytesNum (aesEncrypt (tweakKey k) (numBytes line 16))

/-- A line of 128 bytes encrypted under a key pair, and back. -/
def xtsEncrypt (k : BitVec 512) (line : Nat) (x : Line) : Line :=
  BitVec.ofNat 1024 (bytesNum (xtsBlocks (aesEncrypt (dataKey k)) (xtsTweak k line) 8 (numBytes x.toNat 128)))
def xtsDecrypt (k : BitVec 512) (line : Nat) (x : Line) : Line :=
  BitVec.ofNat 1024 (bytesNum (xtsBlocks (aesDecrypt (dataKey k)) (xtsTweak k line) 8 (numBytes x.toNat 128)))

end Sys2Proof.Machine
end

