-- ==== Sys2Proof/WellFormed.lean ====
section
/-!
DEFINITION. Well-formedness of an instruction: the limits R91 and R92 set on its immediates, and the
ranges of the numbers an event carries. A word that breaks one decodes to no instruction and raises
trap 0x02 (R92).
-/
namespace Sys2Proof

/-- The system register numbers that a block table of the manual assigns (R221, R254, R285, R319, R349,
R379, R429). -/
def assigned (n : Nat) : Bool :=
  decide (n ≤ 0x016) || decide (0x018 ≤ n ∧ n ≤ 0x021) || decide (0x028 ≤ n ∧ n ≤ 0x039) ||
  decide (0x100 ≤ n ∧ n ≤ 0x104) || n == 0x110 ||
  decide (0x200 ≤ n ∧ n ≤ 0x213) || n == 0x218 || n == 0x219 ||
  decide (0x300 ≤ n ∧ n ≤ 0x305)

/-- The opcodes R89 leaves undefined. -/
def undefinedOp (n : Nat) : Bool :=
  n == 0x3F || n == 0x7F || decide (0x89 ≤ n ∧ n ≤ 0x8F) || n == 0xBF || decide (0xCA ≤ n ∧ n ≤ 0xCF) ||
  decide (0xD6 ≤ n ∧ n ≤ 0xDF) || decide (0xE0 ≤ n ∧ n ≤ 0xEF) || decide (0xF1 ≤ n ∧ n ≤ 0xFF)

/-- A place of an error that the part has (R460). -/
def placeOk (p : EccPlace) : Bool :=
  match p with
  | .dram pa => decide (pa < 2 ^ 52)
  | .sram stack slice way pa => decide (stack < 8 ∧ slice < 16 ∧ way < 16 ∧ pa < 2 ^ 52)
  | .localMem core block => decide (core < 128 ∧ block < 4096)
  | .l1Data core bank line => decide (core < 128 ∧ bank < 8 ∧ line < 2 ^ 45)
  | .regFile core part _ reg => decide (core < 128 ∧ part < 4 ∧ reg < 2 ^ 16)
  | .accStore core row => decide (core < 128 ∧ row < 256)
  | .parity core _ _ _ => decide (core < 128)
  | .buffer core line => decide (core < 128 ∧ line < 2 ^ 45)

/-- An instruction or event within its limits. -/
def WellFormed (i : Instr) : Bool :=
  match i with
  | .nop => true
  | .exit => true
  | .bra _ => true
  | .brc _ _ _ => true
  | .call _ => true
  | .ret => true
  | .jmpr _ => true
  | .regang => true
  | .loop k _ len => k != 3 && len != 0
  | .leave k => k != 3
  | .setm _ => true
  | .setp _ => true
  | .setlive _ => true
  | .trap _ => true
  | .waitt _ => true
  | .sysr _ imm => assigned imm.toNat
  | .sysw _ imm => assigned imm.toNat
  | .bar imm => decide (imm ≤ 15)
  | .bara imm => decide (imm ≤ 15)
  | .barw imm => decide (imm ≤ 15)
  | .paltake imm => decide (1 ≤ imm ∧ imm ≤ 11)
  | .paltry _ imm => decide (1 ≤ imm ∧ imm ≤ 11)
  | .palgive imm => decide (1 ≤ imm ∧ imm ≤ 11)
  | .yield => true
  | .spawn _ _ _ => true
  | .tloc _ => true
  | .fence => true
  | .hswap _ => true
  | .srcfg _ imm => imm == 0 || imm == 4 || imm == 8 || imm == 12
  | .pin _ _ => true
  | .unpin _ _ => true
  | .tret => true
  | .sadd _ _ _ => true
  | .ssub _ _ _ => true
  | .smul _ _ _ => true
  | .smulh _ _ _ => true
  | .sdiv _ _ _ => true
  | .sdivn _ _ _ => true
  | .srem _ _ _ => true
  | .sand _ _ _ => true
  | .sor _ _ _ => true
  | .sxor _ _ _ => true
  | .sshl _ _ _ => true
  | .sshr _ _ _ => true
  | .ssra _ _ _ => true
  | .smin _ _ _ => true
  | .smax _ _ _ => true
  | .scmp _ _ _ _ => true
  | .saddi _ _ _ => true
  | .smovi _ _ => true
  | .smovx _ _ => true
  | .smovxh _ _ => true
  | .sshli _ _ imm => decide (imm ≤ 63)
  | .sshri _ _ imm => decide (imm ≤ 63)
  | .ssrai _ _ imm => decide (imm ≤ 63)
  | .sandi _ _ _ => true
  | .smadi _ _ _ => true
  | .spopc _ _ => true
  | .sclz _ _ => true
  | .rfal _ _ => true
  | .smask _ _ => true
  | .sid _ imm => decide (imm ≤ 7)
  | .ssel _ _ _ _ => true
  | .vadd _ _ _ => true
  | .vsub _ _ _ => true
  | .vmul _ _ _ => true
  | .vmulh _ _ _ => true
  | .vmad _ _ _ => true
  | .vand _ _ _ => true
  | .vor _ _ _ => true
  | .vxor _ _ _ => true
  | .vshl _ _ _ => true
  | .vshr _ _ _ => true
  | .vsra _ _ _ => true
  | .vmin _ _ _ => true
  | .vmax _ _ _ => true
  | .vabsd _ _ _ => true
  | .vcmp _ _ _ _ => true
  | .vsel _ _ _ _ => true
  | .vaddi _ _ _ => true
  | .vmovi _ _ => true
  | .vmovx _ _ => true
  | .vshli _ _ imm => decide (imm ≤ 31)
  | .vshri _ _ imm => decide (imm ≤ 31)
  | .vsrai _ _ imm => decide (imm ≤ 31)
  | .vpopc _ _ => true
  | .vclz _ _ => true
  | .vlane _ => true
  | .vmov _ _ => true
  | .pand _ _ _ => true
  | .por _ _ _ => true
  | .pxor _ _ _ => true
  | .pnot _ _ => true
  | .ptest _ _ => true
  | .vpacks _ _ _ => true
  | .vfadd _ _ _ => true
  | .vfsub _ _ _ => true
  | .vfmul _ _ _ => true
  | .vfma _ _ _ => true
  | .vfms _ _ _ => true
  | .vfnma _ _ _ => true
  | .vfmin _ _ _ => true
  | .vfmax _ _ _ => true
  | .vfcmp _ _ _ _ => true
  | .vfabs _ _ => true
  | .vfneg _ _ => true
  | .vfdiv _ _ _ => true
  | .vfsqrt _ _ => true
  | .vfrcp _ _ => true
  | .vfrsq _ _ => true
  | .vfexp2 _ _ => true
  | .vflog2 _ _ => true
  | .vfsinp _ _ => true
  | .vfcosp _ _ => true
  | .vftanh _ _ => true
  | .vfsigm _ _ => true
  | .vcvt _ _ imm => decide (imm ≤ 0xB)
  | .vcvti _ _ imm => decide (imm ≤ 0xB)
  | .vfclass _ _ => true
  | .vfrnd _ _ => true
  | .vfscale _ _ _ => true
  | .vfdot2 _ _ _ => true
  | .vqnt _ _ _ => true
  | .vdqnt _ _ _ => true
  | .vtpack _ _ => true
  | .vtunpk _ _ _ => true
  | .vshfl _ _ _ => true
  | .vsend _ _ _ => true
  | .vrot _ _ _ => true
  | .vbcl _ _ imm => decide (imm ≤ 63)
  | .vred _ _ imm => decide (imm ≤ 8)
  | .vscan _ _ imm => decide (imm.extractLsb' 0 4 ≤ 8) && decide (imm < 0x20)
  | .vballot _ _ => true
  | .vmatch _ _ => true
  | .vcomp _ _ => true
  | .efadd _ _ _ => true
  | .efsub _ _ _ => true
  | .efmul _ _ _ => true
  | .effma _ _ _ => true
  | .efdiv _ _ _ => true
  | .efsqrt _ _ => true
  | .efcmp _ _ _ _ => true
  | .efcvt _ _ imm => decide (imm ≤ 0xB)
  | .efcvto _ _ imm => decide (imm ≤ 0xB)
  | .efrnd _ _ => true
  | .eflen _ _ => true
  | .efneg _ _ => true
  | .efabs _ _ => true
  | .efld _ _ _ => true
  | .efst _ _ _ => true
  | .efldw _ _ _ => true
  | .ldg8 _ _ _ => true
  | .ldg16 _ _ _ => true
  | .ldg32 _ _ _ => true
  | .ldg64 _ _ _ => true
  | .ldg128 _ _ _ => true
  | .stg8 _ _ _ => true
  | .stg16 _ _ _ => true
  | .stg32 _ _ _ => true
  | .stg64 _ _ _ => true
  | .stg128 _ _ _ => true
  | .lds32 _ _ _ => true
  | .lds128 _ _ _ => true
  | .sts32 _ _ _ => true
  | .sts128 _ _ _ => true
  | .sld _ _ _ => true
  | .sst _ _ _ => true
  | .aadd _ _ _ => true
  | .amin _ _ _ => true
  | .amax _ _ _ => true
  | .aand _ _ _ => true
  | .aor _ _ _ => true
  | .axor _ _ _ => true
  | .axchg _ _ _ => true
  | .acas _ _ _ => true
  | .afadd _ _ _ => true
  | .saadd _ _ => true
  | .cpy _ flags _ => decide (flags < 16)
  | .cpyt _ flags _ _ => decide (flags < 4)
  | .pref _ _ => true
  | .invl _ _ => true
  | .sacas _ _ => true
  | .mma _ _ _ _ _ => true
  | .mmar _ _ _ _ _ => true
  | .accz _ => true
  | .accld _ _ => true
  | .accst _ _ _ => true
  | .accdr _ _ _ _ => true
  | .accrd _ _ => true
  | .accwr _ _ => true
  | .mwait => true
  | .mscl _ _ => true
  | .glzcfg _ _ => true
  | .glzjoin _ => true
  | .glzend => true
  | .glzbar => true
  | .glzcin _ => true
  | .glzleave => true
  | .ill => true
  | .handleEntryDrop core => decide (core < 128)
  | .srwaysPublish core => decide (core < 128)
  | .undefinedOpcode op => undefinedOp op.toNat
  | .copyRow core _ => decide (core < 128)
  | .matrixPassStart core => decide (core < 128)
  | .matrixOpComplete core _ => decide (core < 128)
  | .accdrMerge core _ => decide (core < 128)
  | .sfuResult _ lane => decide (lane < 64)
  | .glazeElementAccept _ => true
  | .glazeCarryArrive _ rank => decide (rank < 128)
  | .glazeRoundComplete _ rank => decide (rank < 128)
  | .glazeResultDeliver _ lane => decide (lane < 64)
  | .groupEnd _ => true
  | .teamAdmit stack => decide (stack < 8)
  | .teamRestore stack => decide (stack < 8)
  | .forcedSave _ _ => true
  | .forwardProgressSwap core => decide (core < 128)
  | .drainLimitSave core _ => decide (core < 128)
  | .wcbDrain core _ => decide (core < 128)
  | .sliceRequest stack slice _ => decide (stack < 8 ∧ slice < 16)
  | .edgeMemoryRequest edge _ => decide (edge < 2)
  | .loadResponse _ _ => true
  | .signaturePublish core => decide (core < 128)
  | .governorPeriod stack _ _ idle avail => decide (stack < 8 ∧ idle ≤ avail)
  | .powerLimitPeriod _ => true
  | .waitForWalk => true
  | .knotBreakDeliver _ => true
  | .occupancyReport core => decide (core < 128)
  | .waitReread queue => decide (queue < 1024)
  | .headStart => true
  | .recordRead queue => decide (queue < 1024)
  | .recordReread queue => decide (queue < 1024)
  | .teamHandout => true
  | .launchComplete _ => true
  | .completionRecord queue => decide (queue < 1024)
  | .launchStop _ => true
  | .qkick queue _ => decide (queue < 1024)
  | .qcfg queue _ => decide (queue < 1024)
  | .qctlCancel queue => decide (queue < 1024)
  | .qctlRenumber queue => decide (queue < 1024)
  | .lcmdDrain launch => decide (launch < 2 ^ 32)
  | .lcmdResume launch => decide (launch < 2 ^ 32)
  | .lcmdAbort launch => decide (launch < 2 ^ 32)
  | .invcmdTlb _ _ _ => true
  | .invcmdHnd _ => true
  | .invalidationComplete => true
  | .chead queue _ => decide (queue < 1024)
  | .controlRegisterWrite offset _ => decide (offset < 0x40000)
  | .mbAttest => true
  | .mbCertificate => true
  | .mbKeyLoad _ _ => true
  | .mbKeyUnload _ => true
  | .mbRaiseSvn => true
  | .hostHdmAccess addr _ => decide (addr < 2 ^ 43 ∧ addr % 64 = 0)
  | .hostWindowCompletion _ _ _ => true
  | .hostRequestTimeout _ => true
  | .fabricInboundRequest r => decide (r.addr < 2 ^ 52) && [1, 2, 4, 8, 16].contains r.size && r.addr % r.size == 0
  | .fabricResponse _ _ _ => true
  | .fabricResponseTimeout _ => true
  | .portStateChange _ _ => true
  | .bringUp _ _ => true
  | .functionLevelReset => true
  | .eccError place _ => placeOk place
  | .selfTest place _ => placeOk place
  | .wearPrediction stack eol em => decide (stack < 8 ∧ eol < 2 ^ 32 ∧ em < 2 ^ 64)
  | .segmentLoad core => decide (core < 128)
  | .travellerDeparture _ => true
  | .packetArrival _ => true
  | .travellerAdmission core => decide (core < 128)
  | .spawnAllocate _ => true
  | .segmentReplication _ _ => true
  | .travellerProgressSwap core => decide (core < 128)

/-- Takes an extension word: the six instructions of format X (R85, R91). -/
def Instr.words : Instr → Nat
  | .smovx _ _ | .smovxh _ _ | .ssel _ _ _ _ | .vsel _ _ _ _ | .vmovx _ _ | .accdr _ _ _ _ => 2
  | _ => 1

end Sys2Proof
end

