-- ==== Sys2Proof/Decode.lean ====
section
/-!
DEFINITION. Decoding of an instruction word and its extension word by the opcode map of R88 and the
patterns of R91, total on any bits, and the encoder written from the same tables.
-/
namespace Sys2Proof

/-- n bits of a word from bit lo up (R7). -/
def fld {k : Nat} (w : BitVec k) (lo n : Nat) : BitVec n := w.extractLsb' lo n

/-- The fields d, a and b of formats RRR and RI, and the 24-bit field of format J (R85). -/
def byteD (w : Word) : BitVec 8 := fld w 16 8
def byteA (w : Word) : BitVec 8 := fld w 8 8
def byteB (w : Word) : BitVec 8 := fld w 0 8
def low24 (w : Word) : BitVec 24 := fld w 0 24

/-- The operand code of R18 as a register. -/
def Reg.ofCode (c : BitVec 8) : Reg :=
  if h : c.toNat < 176 then .v ⟨c.toNat, h⟩
  else if h2 : c.toNat < 192 then .q ⟨c.toNat - 176, by omega⟩
  else .s ⟨c.toNat - 192, by have := c.isLt; omega⟩

/-- The operand code of a register (R18). -/
def Reg.code : Reg → BitVec 8
  | .v i => BitVec.ofNat 8 i.val
  | .q i => BitVec.ofNat 8 (176 + i.val)
  | .s i => BitVec.ofNat 8 (192 + i.val)

/-- The condition of a 3-bit code; codes 6 and 7 are reserved (R91). -/
def condOf (c : BitVec 3) : Option Cond :=
  match c.toNat with
  | 0 => some .eq | 1 => some .ne | 2 => some .lt | 3 => some .le | 4 => some .gt | 5 => some .ge
  | _ => none

/-- The code of a condition (R91). -/
def Cond.code : Cond → BitVec 3
  | .eq => 0 | .ne => 1 | .lt => 2 | .le => 3 | .gt => 4 | .ge => 5

/-- A reading that is valid only where every zero field of the pattern is zero (R92). -/
def guard' {α : Type} (b : Bool) (x : Option α) : Option α := if b then x else none

/-- What a word decodes to: an instruction, or the reserved-field trap 0x02 (R92). -/
inductive Decoded where
  | ok (i : Instr)
  | reserved
deriving DecidableEq, Repr

/-- Reads the fields of a word w with the word x after it, by the opcode map (R88, R89, R91). VBALLOT's predicate stands in
field a, as pattern SP has it and R168's pseudocode reads it; the word that R168 prints for `VBALLOT s4, p2` has it in field b,
and traps 0x02 here (DEDUCED, unsafe, log 90). -/
def parse (w x : Word) : Option Instr :=
  match (fld w 24 8).toNat with
  | 0x00 => guard' (byteD w == 0 && byteA w == 0 && byteB w == 0) (some .nop)
  | 0x01 => guard' (byteD w == 0 && byteA w == 0 && byteB w == 0) (some .exit)
  | 0x02 => some (.bra (low24 w))
  | 0x03 => some (.brc (fld w 21 3) (w.getLsbD 20) (fld w 0 20))
  | 0x04 => some (.call (low24 w))
  | 0x05 => guard' (byteD w == 0 && byteA w == 0 && byteB w == 0) (some .ret)
  | 0x06 => guard' (byteD w == 0 && byteB w == 0) (some (.jmpr (Reg.ofCode (byteA w))))
  | 0x07 => guard' (byteD w == 0 && byteA w == 0 && byteB w == 0) (some .regang)
  | 0x08 => some (.loop (fld w 22 2) (fld w 16 6) (fld w 0 16))
  | 0x09 => guard' (fld w 0 22 == 0) (some (.leave (fld w 22 2)))
  | 0x0A => some (.setm (low24 w))
  | 0x0B => guard' (byteD w == 0 && byteA w == 0) (some (.setp (byteB w)))
  | 0x0C => guard' (byteD w == 0 && byteB w == 0) (some (.setlive (Reg.ofCode (byteA w))))
  | 0x0D => guard' (byteD w == 0) (some (.trap (fld w 0 16)))
  | 0x0E => guard' (byteD w == 0 && byteA w == 0) (some (.waitt (byteB w)))
  | 0x0F => some (.sysr (Reg.ofCode (byteD w)) (fld w 0 16))
  | 0x10 => some (.sysw (Reg.ofCode (byteD w)) (fld w 0 16))
  | 0x11 => guard' (byteD w == 0 && byteA w == 0) (some (.bar (byteB w)))
  | 0x12 => guard' (byteD w == 0 && byteA w == 0) (some (.bara (byteB w)))
  | 0x13 => guard' (byteD w == 0 && byteA w == 0) (some (.barw (byteB w)))
  | 0x14 => guard' (byteD w == 0 && byteA w == 0) (some (.paltake (byteB w)))
  | 0x15 => guard' (fld w 19 5 == 0 && byteA w == 0) (some (.paltry (fld w 16 3) (byteB w)))
  | 0x16 => guard' (byteD w == 0 && byteA w == 0) (some (.palgive (byteB w)))
  | 0x17 => guard' (byteD w == 0 && byteA w == 0 && byteB w == 0) (some .yield)
  | 0x18 => some (.spawn (Reg.ofCode (byteD w)) (Reg.ofCode (byteA w)) (Reg.ofCode (byteB w)))
  | 0x19 => guard' (byteA w == 0 && byteB w == 0) (some (.tloc (Reg.ofCode (byteD w))))
  | 0x1A => guard' (byteD w == 0 && byteA w == 0 && byteB w == 0) (some .fence)
  | 0x1B => guard' (byteD w == 0 && byteB w == 0) (some (.hswap (Reg.ofCode (byteA w))))
  | 0x1C => guard' (byteA w == 0) (some (.srcfg (Reg.ofCode (byteD w)) (byteB w)))
  | 0x1D => guard' (byteD w == 0) (some (.pin (Reg.ofCode (byteA w)) (Reg.ofCode (byteB w))))
  | 0x1E => guard' (byteD w == 0) (some (.unpin (Reg.ofCode (byteA w)) (Reg.ofCode (byteB w))))
  | 0x1F => guard' (byteD w == 0 && byteA w == 0 && byteB w == 0) (some .tret)
  | 0x20 => some (.sadd (Reg.ofCode (byteD w)) (Reg.ofCode (byteA w)) (Reg.ofCode (byteB w)))
  | 0x21 => some (.ssub (Reg.ofCode (byteD w)) (Reg.ofCode (byteA w)) (Reg.ofCode (byteB w)))
  | 0x22 => some (.smul (Reg.ofCode (byteD w)) (Reg.ofCode (byteA w)) (Reg.ofCode (byteB w)))
  | 0x23 => some (.smulh (Reg.ofCode (byteD w)) (Reg.ofCode (byteA w)) (Reg.ofCode (byteB w)))
  | 0x24 => some (.sdiv (Reg.ofCode (byteD w)) (Reg.ofCode (byteA w)) (Reg.ofCode (byteB w)))
  | 0x25 => some (.sdivn (Reg.ofCode (byteD w)) (Reg.ofCode (byteA w)) (Reg.ofCode (byteB w)))
  | 0x26 => some (.srem (Reg.ofCode (byteD w)) (Reg.ofCode (byteA w)) (Reg.ofCode (byteB w)))
  | 0x27 => some (.sand (Reg.ofCode (byteD w)) (Reg.ofCode (byteA w)) (Reg.ofCode (byteB w)))
  | 0x28 => some (.sor (Reg.ofCode (byteD w)) (Reg.ofCode (byteA w)) (Reg.ofCode (byteB w)))
  | 0x29 => some (.sxor (Reg.ofCode (byteD w)) (Reg.ofCode (byteA w)) (Reg.ofCode (byteB w)))
  | 0x2A => some (.sshl (Reg.ofCode (byteD w)) (Reg.ofCode (byteA w)) (Reg.ofCode (byteB w)))
  | 0x2B => some (.sshr (Reg.ofCode (byteD w)) (Reg.ofCode (byteA w)) (Reg.ofCode (byteB w)))
  | 0x2C => some (.ssra (Reg.ofCode (byteD w)) (Reg.ofCode (byteA w)) (Reg.ofCode (byteB w)))
  | 0x2D => some (.smin (Reg.ofCode (byteD w)) (Reg.ofCode (byteA w)) (Reg.ofCode (byteB w)))
  | 0x2E => some (.smax (Reg.ofCode (byteD w)) (Reg.ofCode (byteA w)) (Reg.ofCode (byteB w)))
  | 0x2F => guard' (fld w 22 2 == 0) ((condOf (fld w 19 3)).bind fun c => some (.scmp (fld w 16 3) c (Reg.ofCode (byteA w)) (Reg.ofCode (byteB w))))
  | 0x30 => some (.saddi (Reg.ofCode (byteD w)) (Reg.ofCode (byteA w)) (byteB w))
  | 0x31 => some (.smovi (Reg.ofCode (byteD w)) (fld w 0 16))
  | 0x32 => guard' (byteA w == 0 && byteB w == 0) (some (.smovx (Reg.ofCode (byteD w)) (x)))
  | 0x33 => guard' (byteA w == 0 && byteB w == 0) (some (.smovxh (Reg.ofCode (byteD w)) (x)))
  | 0x34 => some (.sshli (Reg.ofCode (byteD w)) (Reg.ofCode (byteA w)) (byteB w))
  | 0x35 => some (.sshri (Reg.ofCode (byteD w)) (Reg.ofCode (byteA w)) (byteB w))
  | 0x36 => some (.ssrai (Reg.ofCode (byteD w)) (Reg.ofCode (byteA w)) (byteB w))
  | 0x37 => some (.sandi (Reg.ofCode (byteD w)) (Reg.ofCode (byteA w)) (byteB w))
  | 0x38 => some (.smadi (Reg.ofCode (byteD w)) (Reg.ofCode (byteA w)) (byteB w))
  | 0x39 => guard' (byteB w == 0) (some (.spopc (Reg.ofCode (byteD w)) (Reg.ofCode (byteA w))))
  | 0x3A => guard' (byteB w == 0) (some (.sclz (Reg.ofCode (byteD w)) (Reg.ofCode (byteA w))))
  | 0x3B => guard' (byteB w == 0) (some (.rfal (Reg.ofCode (byteD w)) (Reg.ofCode (byteA w))))
  | 0x3C => guard' (fld w 11 5 == 0 && byteB w == 0) (some (.smask (Reg.ofCode (byteD w)) (fld w 8 3)))
  | 0x3D => guard' (byteA w == 0) (some (.sid (Reg.ofCode (byteD w)) (byteB w)))
  | 0x3E => guard' (fld x 3 29 == 0) (some (.ssel (Reg.ofCode (byteD w)) (fld x 0 3) (Reg.ofCode (byteA w)) (Reg.ofCode (byteB w))))
  | 0x40 => some (.vadd (Reg.ofCode (byteD w)) (Reg.ofCode (byteA w)) (Reg.ofCode (byteB w)))
  | 0x41 => some (.vsub (Reg.ofCode (byteD w)) (Reg.ofCode (byteA w)) (Reg.ofCode (byteB w)))
  | 0x42 => some (.vmul (Reg.ofCode (byteD w)) (Reg.ofCode (byteA w)) (Reg.ofCode (byteB w)))
  | 0x43 => some (.vmulh (Reg.ofCode (byteD w)) (Reg.ofCode (byteA w)) (Reg.ofCode (byteB w)))
  | 0x44 => some (.vmad (Reg.ofCode (byteD w)) (Reg.ofCode (byteA w)) (Reg.ofCode (byteB w)))
  | 0x45 => some (.vand (Reg.ofCode (byteD w)) (Reg.ofCode (byteA w)) (Reg.ofCode (byteB w)))
  | 0x46 => some (.vor (Reg.ofCode (byteD w)) (Reg.ofCode (byteA w)) (Reg.ofCode (byteB w)))
  | 0x47 => some (.vxor (Reg.ofCode (byteD w)) (Reg.ofCode (byteA w)) (Reg.ofCode (byteB w)))
  | 0x48 => some (.vshl (Reg.ofCode (byteD w)) (Reg.ofCode (byteA w)) (Reg.ofCode (byteB w)))
  | 0x49 => some (.vshr (Reg.ofCode (byteD w)) (Reg.ofCode (byteA w)) (Reg.ofCode (byteB w)))
  | 0x4A => some (.vsra (Reg.ofCode (byteD w)) (Reg.ofCode (byteA w)) (Reg.ofCode (byteB w)))
  | 0x4B => some (.vmin (Reg.ofCode (byteD w)) (Reg.ofCode (byteA w)) (Reg.ofCode (byteB w)))
  | 0x4C => some (.vmax (Reg.ofCode (byteD w)) (Reg.ofCode (byteA w)) (Reg.ofCode (byteB w)))
  | 0x4D => some (.vabsd (Reg.ofCode (byteD w)) (Reg.ofCode (byteA w)) (Reg.ofCode (byteB w)))
  | 0x4E => guard' (fld w 22 2 == 0) ((condOf (fld w 19 3)).bind fun c => some (.vcmp (fld w 16 3) c (Reg.ofCode (byteA w)) (Reg.ofCode (byteB w))))
  | 0x4F => guard' (fld x 3 29 == 0) (some (.vsel (Reg.ofCode (byteD w)) (fld x 0 3) (Reg.ofCode (byteA w)) (Reg.ofCode (byteB w))))
  | 0x50 => some (.vaddi (Reg.ofCode (byteD w)) (Reg.ofCode (byteA w)) (byteB w))
  | 0x51 => some (.vmovi (Reg.ofCode (byteD w)) (fld w 0 16))
  | 0x52 => guard' (byteA w == 0 && byteB w == 0) (some (.vmovx (Reg.ofCode (byteD w)) (x)))
  | 0x53 => some (.vshli (Reg.ofCode (byteD w)) (Reg.ofCode (byteA w)) (byteB w))
  | 0x54 => some (.vshri (Reg.ofCode (byteD w)) (Reg.ofCode (byteA w)) (byteB w))
  | 0x55 => some (.vsrai (Reg.ofCode (byteD w)) (Reg.ofCode (byteA w)) (byteB w))
  | 0x56 => guard' (byteB w == 0) (some (.vpopc (Reg.ofCode (byteD w)) (Reg.ofCode (byteA w))))
  | 0x57 => guard' (byteB w == 0) (some (.vclz (Reg.ofCode (byteD w)) (Reg.ofCode (byteA w))))
  | 0x58 => guard' (byteA w == 0 && byteB w == 0) (some (.vlane (Reg.ofCode (byteD w))))
  | 0x59 => guard' (byteB w == 0) (some (.vmov (Reg.ofCode (byteD w)) (Reg.ofCode (byteA w))))
  | 0x5A => guard' (fld w 19 5 == 0 && fld w 11 5 == 0 && fld w 3 5 == 0) (some (.pand (fld w 16 3) (fld w 8 3) (fld w 0 3)))
  | 0x5B => guard' (fld w 19 5 == 0 && fld w 11 5 == 0 && fld w 3 5 == 0) (some (.por (fld w 16 3) (fld w 8 3) (fld w 0 3)))
  | 0x5C => guard' (fld w 19 5 == 0 && fld w 11 5 == 0 && fld w 3 5 == 0) (some (.pxor (fld w 16 3) (fld w 8 3) (fld w 0 3)))
  | 0x5D => guard' (fld w 19 5 == 0 && fld w 11 5 == 0 && byteB w == 0) (some (.pnot (fld w 16 3) (fld w 8 3)))
  | 0x5E => guard' (fld w 19 5 == 0 && fld w 11 5 == 0 && byteB w == 0) (some (.ptest (fld w 16 3) (fld w 8 3)))
  | 0x5F => some (.vpacks (Reg.ofCode (byteD w)) (Reg.ofCode (byteA w)) (Reg.ofCode (byteB w)))
  | 0x60 => some (.vfadd (Reg.ofCode (byteD w)) (Reg.ofCode (byteA w)) (Reg.ofCode (byteB w)))
  | 0x61 => some (.vfsub (Reg.ofCode (byteD w)) (Reg.ofCode (byteA w)) (Reg.ofCode (byteB w)))
  | 0x62 => some (.vfmul (Reg.ofCode (byteD w)) (Reg.ofCode (byteA w)) (Reg.ofCode (byteB w)))
  | 0x63 => some (.vfma (Reg.ofCode (byteD w)) (Reg.ofCode (byteA w)) (Reg.ofCode (byteB w)))
  | 0x64 => some (.vfms (Reg.ofCode (byteD w)) (Reg.ofCode (byteA w)) (Reg.ofCode (byteB w)))
  | 0x65 => some (.vfnma (Reg.ofCode (byteD w)) (Reg.ofCode (byteA w)) (Reg.ofCode (byteB w)))
  | 0x66 => some (.vfmin (Reg.ofCode (byteD w)) (Reg.ofCode (byteA w)) (Reg.ofCode (byteB w)))
  | 0x67 => some (.vfmax (Reg.ofCode (byteD w)) (Reg.ofCode (byteA w)) (Reg.ofCode (byteB w)))
  | 0x68 => guard' (fld w 22 2 == 0) ((condOf (fld w 19 3)).bind fun c => some (.vfcmp (fld w 16 3) c (Reg.ofCode (byteA w)) (Reg.ofCode (byteB w))))
  | 0x69 => guard' (byteB w == 0) (some (.vfabs (Reg.ofCode (byteD w)) (Reg.ofCode (byteA w))))
  | 0x6A => guard' (byteB w == 0) (some (.vfneg (Reg.ofCode (byteD w)) (Reg.ofCode (byteA w))))
  | 0x6B => some (.vfdiv (Reg.ofCode (byteD w)) (Reg.ofCode (byteA w)) (Reg.ofCode (byteB w)))
  | 0x6C => guard' (byteB w == 0) (some (.vfsqrt (Reg.ofCode (byteD w)) (Reg.ofCode (byteA w))))
  | 0x6D => guard' (byteB w == 0) (some (.vfrcp (Reg.ofCode (byteD w)) (Reg.ofCode (byteA w))))
  | 0x6E => guard' (byteB w == 0) (some (.vfrsq (Reg.ofCode (byteD w)) (Reg.ofCode (byteA w))))
  | 0x6F => guard' (byteB w == 0) (some (.vfexp2 (Reg.ofCode (byteD w)) (Reg.ofCode (byteA w))))
  | 0x70 => guard' (byteB w == 0) (some (.vflog2 (Reg.ofCode (byteD w)) (Reg.ofCode (byteA w))))
  | 0x71 => guard' (byteB w == 0) (some (.vfsinp (Reg.ofCode (byteD w)) (Reg.ofCode (byteA w))))
  | 0x72 => guard' (byteB w == 0) (some (.vfcosp (Reg.ofCode (byteD w)) (Reg.ofCode (byteA w))))
  | 0x73 => guard' (byteB w == 0) (some (.vftanh (Reg.ofCode (byteD w)) (Reg.ofCode (byteA w))))
  | 0x74 => guard' (byteB w == 0) (some (.vfsigm (Reg.ofCode (byteD w)) (Reg.ofCode (byteA w))))
  | 0x75 => some (.vcvt (Reg.ofCode (byteD w)) (Reg.ofCode (byteA w)) (byteB w))
  | 0x76 => some (.vcvti (Reg.ofCode (byteD w)) (Reg.ofCode (byteA w)) (byteB w))
  | 0x77 => guard' (byteB w == 0) (some (.vfclass (Reg.ofCode (byteD w)) (Reg.ofCode (byteA w))))
  | 0x78 => guard' (byteB w == 0) (some (.vfrnd (Reg.ofCode (byteD w)) (Reg.ofCode (byteA w))))
  | 0x79 => some (.vfscale (Reg.ofCode (byteD w)) (Reg.ofCode (byteA w)) (Reg.ofCode (byteB w)))
  | 0x7A => some (.vfdot2 (Reg.ofCode (byteD w)) (Reg.ofCode (byteA w)) (Reg.ofCode (byteB w)))
  | 0x7B => guard' (fld w 3 5 == 0) (some (.vqnt (Reg.ofCode (byteD w)) (Reg.ofCode (byteA w)) (fld w 0 3)))
  | 0x7C => guard' (fld w 3 5 == 0) (some (.vdqnt (Reg.ofCode (byteD w)) (Reg.ofCode (byteA w)) (fld w 0 3)))
  | 0x7D => guard' (byteB w == 0) (some (.vtpack (Reg.ofCode (byteD w)) (Reg.ofCode (byteA w))))
  | 0x7E => guard' (fld w 3 5 == 0) (some (.vtunpk (Reg.ofCode (byteD w)) (Reg.ofCode (byteA w)) (fld w 0 3)))
  | 0x80 => some (.vshfl (Reg.ofCode (byteD w)) (Reg.ofCode (byteA w)) (Reg.ofCode (byteB w)))
  | 0x81 => some (.vsend (Reg.ofCode (byteD w)) (Reg.ofCode (byteA w)) (Reg.ofCode (byteB w)))
  | 0x82 => some (.vrot (Reg.ofCode (byteD w)) (Reg.ofCode (byteA w)) (Reg.ofCode (byteB w)))
  | 0x83 => some (.vbcl (Reg.ofCode (byteD w)) (Reg.ofCode (byteA w)) (byteB w))
  | 0x84 => some (.vred (Reg.ofCode (byteD w)) (Reg.ofCode (byteA w)) (byteB w))
  | 0x85 => some (.vscan (Reg.ofCode (byteD w)) (Reg.ofCode (byteA w)) (byteB w))
  | 0x86 => guard' (fld w 11 5 == 0 && byteB w == 0) (some (.vballot (Reg.ofCode (byteD w)) (fld w 8 3)))
  | 0x87 => guard' (byteB w == 0) (some (.vmatch (Reg.ofCode (byteD w)) (Reg.ofCode (byteA w))))
  | 0x88 => guard' (byteB w == 0) (some (.vcomp (Reg.ofCode (byteD w)) (Reg.ofCode (byteA w))))
  | 0x90 => some (.efadd (Reg.ofCode (byteD w)) (Reg.ofCode (byteA w)) (Reg.ofCode (byteB w)))
  | 0x91 => some (.efsub (Reg.ofCode (byteD w)) (Reg.ofCode (byteA w)) (Reg.ofCode (byteB w)))
  | 0x92 => some (.efmul (Reg.ofCode (byteD w)) (Reg.ofCode (byteA w)) (Reg.ofCode (byteB w)))
  | 0x93 => some (.effma (Reg.ofCode (byteD w)) (Reg.ofCode (byteA w)) (Reg.ofCode (byteB w)))
  | 0x94 => some (.efdiv (Reg.ofCode (byteD w)) (Reg.ofCode (byteA w)) (Reg.ofCode (byteB w)))
  | 0x95 => guard' (byteB w == 0) (some (.efsqrt (Reg.ofCode (byteD w)) (Reg.ofCode (byteA w))))
  | 0x96 => guard' (fld w 22 2 == 0) ((condOf (fld w 19 3)).bind fun c => some (.efcmp (fld w 16 3) c (Reg.ofCode (byteA w)) (Reg.ofCode (byteB w))))
  | 0x97 => some (.efcvt (Reg.ofCode (byteD w)) (Reg.ofCode (byteA w)) (byteB w))
  | 0x98 => some (.efcvto (Reg.ofCode (byteD w)) (Reg.ofCode (byteA w)) (byteB w))
  | 0x99 => guard' (byteB w == 0) (some (.efrnd (Reg.ofCode (byteD w)) (Reg.ofCode (byteA w))))
  | 0x9A => guard' (byteB w == 0) (some (.eflen (Reg.ofCode (byteD w)) (Reg.ofCode (byteA w))))
  | 0x9B => guard' (byteB w == 0) (some (.efneg (Reg.ofCode (byteD w)) (Reg.ofCode (byteA w))))
  | 0x9C => guard' (byteB w == 0) (some (.efabs (Reg.ofCode (byteD w)) (Reg.ofCode (byteA w))))
  | 0x9D => some (.efld (Reg.ofCode (byteD w)) (Reg.ofCode (byteA w)) (Reg.ofCode (byteB w)))
  | 0x9E => some (.efst (Reg.ofCode (byteD w)) (Reg.ofCode (byteA w)) (Reg.ofCode (byteB w)))
  | 0x9F => some (.efldw (Reg.ofCode (byteD w)) (Reg.ofCode (byteA w)) (Reg.ofCode (byteB w)))
  | 0xA0 => some (.ldg8 (Reg.ofCode (byteD w)) (Reg.ofCode (byteA w)) (Reg.ofCode (byteB w)))
  | 0xA1 => some (.ldg16 (Reg.ofCode (byteD w)) (Reg.ofCode (byteA w)) (Reg.ofCode (byteB w)))
  | 0xA2 => some (.ldg32 (Reg.ofCode (byteD w)) (Reg.ofCode (byteA w)) (Reg.ofCode (byteB w)))
  | 0xA3 => some (.ldg64 (Reg.ofCode (byteD w)) (Reg.ofCode (byteA w)) (Reg.ofCode (byteB w)))
  | 0xA4 => some (.ldg128 (Reg.ofCode (byteD w)) (Reg.ofCode (byteA w)) (Reg.ofCode (byteB w)))
  | 0xA5 => some (.stg8 (Reg.ofCode (byteD w)) (Reg.ofCode (byteA w)) (Reg.ofCode (byteB w)))
  | 0xA6 => some (.stg16 (Reg.ofCode (byteD w)) (Reg.ofCode (byteA w)) (Reg.ofCode (byteB w)))
  | 0xA7 => some (.stg32 (Reg.ofCode (byteD w)) (Reg.ofCode (byteA w)) (Reg.ofCode (byteB w)))
  | 0xA8 => some (.stg64 (Reg.ofCode (byteD w)) (Reg.ofCode (byteA w)) (Reg.ofCode (byteB w)))
  | 0xA9 => some (.stg128 (Reg.ofCode (byteD w)) (Reg.ofCode (byteA w)) (Reg.ofCode (byteB w)))
  | 0xAA => some (.lds32 (Reg.ofCode (byteD w)) (Reg.ofCode (byteA w)) (byteB w))
  | 0xAB => some (.lds128 (Reg.ofCode (byteD w)) (Reg.ofCode (byteA w)) (byteB w))
  | 0xAC => some (.sts32 (Reg.ofCode (byteD w)) (Reg.ofCode (byteA w)) (byteB w))
  | 0xAD => some (.sts128 (Reg.ofCode (byteD w)) (Reg.ofCode (byteA w)) (byteB w))
  | 0xAE => some (.sld (Reg.ofCode (byteD w)) (Reg.ofCode (byteA w)) (byteB w))
  | 0xAF => some (.sst (Reg.ofCode (byteD w)) (Reg.ofCode (byteA w)) (byteB w))
  | 0xB0 => some (.aadd (Reg.ofCode (byteD w)) (Reg.ofCode (byteA w)) (Reg.ofCode (byteB w)))
  | 0xB1 => some (.amin (Reg.ofCode (byteD w)) (Reg.ofCode (byteA w)) (Reg.ofCode (byteB w)))
  | 0xB2 => some (.amax (Reg.ofCode (byteD w)) (Reg.ofCode (byteA w)) (Reg.ofCode (byteB w)))
  | 0xB3 => some (.aand (Reg.ofCode (byteD w)) (Reg.ofCode (byteA w)) (Reg.ofCode (byteB w)))
  | 0xB4 => some (.aor (Reg.ofCode (byteD w)) (Reg.ofCode (byteA w)) (Reg.ofCode (byteB w)))
  | 0xB5 => some (.axor (Reg.ofCode (byteD w)) (Reg.ofCode (byteA w)) (Reg.ofCode (byteB w)))
  | 0xB6 => some (.axchg (Reg.ofCode (byteD w)) (Reg.ofCode (byteA w)) (Reg.ofCode (byteB w)))
  | 0xB7 => some (.acas (Reg.ofCode (byteD w)) (Reg.ofCode (byteA w)) (Reg.ofCode (byteB w)))
  | 0xB8 => some (.afadd (Reg.ofCode (byteD w)) (Reg.ofCode (byteA w)) (Reg.ofCode (byteB w)))
  | 0xB9 => guard' (byteB w == 0) (some (.saadd (Reg.ofCode (byteD w)) (Reg.ofCode (byteA w))))
  | 0xBA => guard' (byteB w == 0) (some (.cpy (fld w 21 3) (fld w 16 5) (Reg.ofCode (byteA w))))
  | 0xBB => some (.cpyt (fld w 21 3) (fld w 16 5) (Reg.ofCode (byteA w)) (Reg.ofCode (byteB w)))
  | 0xBC => guard' (byteD w == 0) (some (.pref (Reg.ofCode (byteA w)) (Reg.ofCode (byteB w))))
  | 0xBD => guard' (byteD w == 0) (some (.invl (Reg.ofCode (byteA w)) (Reg.ofCode (byteB w))))
  | 0xBE => guard' (byteB w == 0) (some (.sacas (Reg.ofCode (byteD w)) (Reg.ofCode (byteA w))))
  | 0xC0 => some (.mma (fld w 18 6) (fld w 12 6) (fld w 9 3) (fld w 6 3) (fld w 0 6))
  | 0xC1 => some (.mmar (fld w 18 6) (fld w 12 6) (fld w 9 3) (fld w 6 3) (fld w 0 6))
  | 0xC2 => guard' (byteD w == 0 && byteB w == 0) (some (.accz (Reg.ofCode (byteA w))))
  | 0xC3 => guard' (byteD w == 0) (some (.accld (Reg.ofCode (byteA w)) (Reg.ofCode (byteB w))))
  | 0xC4 => guard' (fld w 3 5 == 0) (some (.accst (Reg.ofCode (byteD w)) (Reg.ofCode (byteA w)) (fld w 0 3)))
  | 0xC5 => guard' (fld x 3 29 == 0) (some (.accdr (Reg.ofCode (byteD w)) (Reg.ofCode (byteA w)) (Reg.ofCode (byteB w)) (fld x 0 3)))
  | 0xC6 => guard' (byteB w == 0) (some (.accrd (Reg.ofCode (byteD w)) (Reg.ofCode (byteA w))))
  | 0xC7 => guard' (byteA w == 0) (some (.accwr (Reg.ofCode (byteD w)) (Reg.ofCode (byteB w))))
  | 0xC8 => guard' (byteD w == 0 && byteA w == 0 && byteB w == 0) (some .mwait)
  | 0xC9 => guard' (byteD w == 0) (some (.mscl (Reg.ofCode (byteA w)) (Reg.ofCode (byteB w))))
  | 0xD0 => guard' (byteD w == 0) (some (.glzcfg (Reg.ofCode (byteA w)) (Reg.ofCode (byteB w))))
  | 0xD1 => guard' (byteD w == 0 && byteB w == 0) (some (.glzjoin (Reg.ofCode (byteA w))))
  | 0xD2 => guard' (byteD w == 0 && byteA w == 0 && byteB w == 0) (some .glzend)
  | 0xD3 => guard' (byteD w == 0 && byteA w == 0 && byteB w == 0) (some .glzbar)
  | 0xD4 => guard' (byteA w == 0 && byteB w == 0) (some (.glzcin (Reg.ofCode (byteD w))))
  | 0xD5 => guard' (byteD w == 0 && byteA w == 0 && byteB w == 0) (some .glzleave)
  | 0xF0 => some .ill
  | n => some (.undefinedOpcode (BitVec.ofNat 8 n))

/-- Decodes a word with the word after it: total, an undefined opcode giving its own event and a broken
pattern the reserved-field trap (R89, R90, R92, R94). -/
def decode (w x : Word) : Decoded :=
  match parse w x with
  | some i => if WellFormed i then .ok i else .reserved
  | none => .reserved

/-- The opcodes whose first word is followed by an extension word, for a word that decodes to nothing
(R83, R85). -/
def takesExtension (op : BitVec 8) : Bool :=
  op == 0x32 || op == 0x33 || op == 0x3E || op == 0x4F || op == 0x52 || op == 0xC5

/-- A word of format RRR or RI (R85). -/
def word (op d a b : BitVec 8) : Word := op ++ d ++ a ++ b
/-- A word of format I16 (R85). -/
def word16 (op d : BitVec 8) (imm : BitVec 16) : Word := op ++ d ++ imm

/-- The words of an instruction: the first, and the extension word or 0 (R85, R88, R91). An event has
none; an undefined opcode is given with zeros in the bits R90 ignores. -/
def encode (i : Instr) : Option (Word × Word) :=
  match i with
  | .nop => some (word 0x00#8 0#8 0#8 0#8, 0)
  | .exit => some (word 0x01#8 0#8 0#8 0#8, 0)
  | .bra off => some ((0x02#8 ++ (off) : Word), 0)
  | .brc p neg off => some ((0x03#8 ++ (p ++ BitVec.ofBool neg ++ off) : Word), 0)
  | .call off => some ((0x04#8 ++ (off) : Word), 0)
  | .ret => some (word 0x05#8 0#8 0#8 0#8, 0)
  | .jmpr a => some (word 0x06#8 0#8 a.code 0#8, 0)
  | .regang => some (word 0x07#8 0#8 0#8 0#8, 0)
  | .loop k cnt len => some ((0x08#8 ++ (k ++ cnt ++ len) : Word), 0)
  | .leave k => some ((0x09#8 ++ (k ++ 0#22) : Word), 0)
  | .setm imm => some ((0x0A#8 ++ (imm) : Word), 0)
  | .setp imm => some (word 0x0B#8 0#8 0#8 imm, 0)
  | .setlive a => some (word 0x0C#8 0#8 a.code 0#8, 0)
  | .trap imm => some (word16 0x0D#8 0#8 imm, 0)
  | .waitt imm => some (word 0x0E#8 0#8 0#8 imm, 0)
  | .sysr d imm => some (word16 0x0F#8 d.code imm, 0)
  | .sysw d imm => some (word16 0x10#8 d.code imm, 0)
  | .bar imm => some (word 0x11#8 0#8 0#8 imm, 0)
  | .bara imm => some (word 0x12#8 0#8 0#8 imm, 0)
  | .barw imm => some (word 0x13#8 0#8 0#8 imm, 0)
  | .paltake imm => some (word 0x14#8 0#8 0#8 imm, 0)
  | .paltry pd imm => some (word 0x15#8 (0#5 ++ pd) 0#8 imm, 0)
  | .palgive imm => some (word 0x16#8 0#8 0#8 imm, 0)
  | .yield => some (word 0x17#8 0#8 0#8 0#8, 0)
  | .spawn d a b => some (word 0x18#8 d.code a.code b.code, 0)
  | .tloc d => some (word 0x19#8 d.code 0#8 0#8, 0)
  | .fence => some (word 0x1A#8 0#8 0#8 0#8, 0)
  | .hswap a => some (word 0x1B#8 0#8 a.code 0#8, 0)
  | .srcfg d imm => some (word 0x1C#8 d.code 0#8 imm, 0)
  | .pin a b => some (word 0x1D#8 0#8 a.code b.code, 0)
  | .unpin a b => some (word 0x1E#8 0#8 a.code b.code, 0)
  | .tret => some (word 0x1F#8 0#8 0#8 0#8, 0)
  | .sadd d a b => some (word 0x20#8 d.code a.code b.code, 0)
  | .ssub d a b => some (word 0x21#8 d.code a.code b.code, 0)
  | .smul d a b => some (word 0x22#8 d.code a.code b.code, 0)
  | .smulh d a b => some (word 0x23#8 d.code a.code b.code, 0)
  | .sdiv d a b => some (word 0x24#8 d.code a.code b.code, 0)
  | .sdivn d a b => some (word 0x25#8 d.code a.code b.code, 0)
  | .srem d a b => some (word 0x26#8 d.code a.code b.code, 0)
  | .sand d a b => some (word 0x27#8 d.code a.code b.code, 0)
  | .sor d a b => some (word 0x28#8 d.code a.code b.code, 0)
  | .sxor d a b => some (word 0x29#8 d.code a.code b.code, 0)
  | .sshl d a b => some (word 0x2A#8 d.code a.code b.code, 0)
  | .sshr d a b => some (word 0x2B#8 d.code a.code b.code, 0)
  | .ssra d a b => some (word 0x2C#8 d.code a.code b.code, 0)
  | .smin d a b => some (word 0x2D#8 d.code a.code b.code, 0)
  | .smax d a b => some (word 0x2E#8 d.code a.code b.code, 0)
  | .scmp pd c a b => some (word 0x2F#8 (0#2 ++ c.code ++ pd) a.code b.code, 0)
  | .saddi d a imm => some (word 0x30#8 d.code a.code imm, 0)
  | .smovi d imm => some (word16 0x31#8 d.code imm, 0)
  | .smovx d imm => some (word 0x32#8 d.code 0#8 0#8, imm)
  | .smovxh d imm => some (word 0x33#8 d.code 0#8 0#8, imm)
  | .sshli d a imm => some (word 0x34#8 d.code a.code imm, 0)
  | .sshri d a imm => some (word 0x35#8 d.code a.code imm, 0)
  | .ssrai d a imm => some (word 0x36#8 d.code a.code imm, 0)
  | .sandi d a imm => some (word 0x37#8 d.code a.code imm, 0)
  | .smadi d a imm => some (word 0x38#8 d.code a.code imm, 0)
  | .spopc d a => some (word 0x39#8 d.code a.code 0#8, 0)
  | .sclz d a => some (word 0x3A#8 d.code a.code 0#8, 0)
  | .rfal d a => some (word 0x3B#8 d.code a.code 0#8, 0)
  | .smask d pa => some (word 0x3C#8 d.code (0#5 ++ pa) 0#8, 0)
  | .sid d imm => some (word 0x3D#8 d.code 0#8 imm, 0)
  | .ssel d pk a b => some (word 0x3E#8 d.code a.code b.code, (0#29 ++ pk))
  | .vadd d a b => some (word 0x40#8 d.code a.code b.code, 0)
  | .vsub d a b => some (word 0x41#8 d.code a.code b.code, 0)
  | .vmul d a b => some (word 0x42#8 d.code a.code b.code, 0)
  | .vmulh d a b => some (word 0x43#8 d.code a.code b.code, 0)
  | .vmad d a b => some (word 0x44#8 d.code a.code b.code, 0)
  | .vand d a b => some (word 0x45#8 d.code a.code b.code, 0)
  | .vor d a b => some (word 0x46#8 d.code a.code b.code, 0)
  | .vxor d a b => some (word 0x47#8 d.code a.code b.code, 0)
  | .vshl d a b => some (word 0x48#8 d.code a.code b.code, 0)
  | .vshr d a b => some (word 0x49#8 d.code a.code b.code, 0)
  | .vsra d a b => some (word 0x4A#8 d.code a.code b.code, 0)
  | .vmin d a b => some (word 0x4B#8 d.code a.code b.code, 0)
  | .vmax d a b => some (word 0x4C#8 d.code a.code b.code, 0)
  | .vabsd d a b => some (word 0x4D#8 d.code a.code b.code, 0)
  | .vcmp pd c a b => some (word 0x4E#8 (0#2 ++ c.code ++ pd) a.code b.code, 0)
  | .vsel d pk a b => some (word 0x4F#8 d.code a.code b.code, (0#29 ++ pk))
  | .vaddi d a imm => some (word 0x50#8 d.code a.code imm, 0)
  | .vmovi d imm => some (word16 0x51#8 d.code imm, 0)
  | .vmovx d imm => some (word 0x52#8 d.code 0#8 0#8, imm)
  | .vshli d a imm => some (word 0x53#8 d.code a.code imm, 0)
  | .vshri d a imm => some (word 0x54#8 d.code a.code imm, 0)
  | .vsrai d a imm => some (word 0x55#8 d.code a.code imm, 0)
  | .vpopc d a => some (word 0x56#8 d.code a.code 0#8, 0)
  | .vclz d a => some (word 0x57#8 d.code a.code 0#8, 0)
  | .vlane d => some (word 0x58#8 d.code 0#8 0#8, 0)
  | .vmov d a => some (word 0x59#8 d.code a.code 0#8, 0)
  | .pand pd pa pb => some (word 0x5A#8 (0#5 ++ pd) (0#5 ++ pa) (0#5 ++ pb), 0)
  | .por pd pa pb => some (word 0x5B#8 (0#5 ++ pd) (0#5 ++ pa) (0#5 ++ pb), 0)
  | .pxor pd pa pb => some (word 0x5C#8 (0#5 ++ pd) (0#5 ++ pa) (0#5 ++ pb), 0)
  | .pnot pd pa => some (word 0x5D#8 (0#5 ++ pd) (0#5 ++ pa) 0#8, 0)
  | .ptest pd pa => some (word 0x5E#8 (0#5 ++ pd) (0#5 ++ pa) 0#8, 0)
  | .vpacks d a b => some (word 0x5F#8 d.code a.code b.code, 0)
  | .vfadd d a b => some (word 0x60#8 d.code a.code b.code, 0)
  | .vfsub d a b => some (word 0x61#8 d.code a.code b.code, 0)
  | .vfmul d a b => some (word 0x62#8 d.code a.code b.code, 0)
  | .vfma d a b => some (word 0x63#8 d.code a.code b.code, 0)
  | .vfms d a b => some (word 0x64#8 d.code a.code b.code, 0)
  | .vfnma d a b => some (word 0x65#8 d.code a.code b.code, 0)
  | .vfmin d a b => some (word 0x66#8 d.code a.code b.code, 0)
  | .vfmax d a b => some (word 0x67#8 d.code a.code b.code, 0)
  | .vfcmp pd c a b => some (word 0x68#8 (0#2 ++ c.code ++ pd) a.code b.code, 0)
  | .vfabs d a => some (word 0x69#8 d.code a.code 0#8, 0)
  | .vfneg d a => some (word 0x6A#8 d.code a.code 0#8, 0)
  | .vfdiv d a b => some (word 0x6B#8 d.code a.code b.code, 0)
  | .vfsqrt d a => some (word 0x6C#8 d.code a.code 0#8, 0)
  | .vfrcp d a => some (word 0x6D#8 d.code a.code 0#8, 0)
  | .vfrsq d a => some (word 0x6E#8 d.code a.code 0#8, 0)
  | .vfexp2 d a => some (word 0x6F#8 d.code a.code 0#8, 0)
  | .vflog2 d a => some (word 0x70#8 d.code a.code 0#8, 0)
  | .vfsinp d a => some (word 0x71#8 d.code a.code 0#8, 0)
  | .vfcosp d a => some (word 0x72#8 d.code a.code 0#8, 0)
  | .vftanh d a => some (word 0x73#8 d.code a.code 0#8, 0)
  | .vfsigm d a => some (word 0x74#8 d.code a.code 0#8, 0)
  | .vcvt d a imm => some (word 0x75#8 d.code a.code imm, 0)
  | .vcvti d a imm => some (word 0x76#8 d.code a.code imm, 0)
  | .vfclass d a => some (word 0x77#8 d.code a.code 0#8, 0)
  | .vfrnd d a => some (word 0x78#8 d.code a.code 0#8, 0)
  | .vfscale d a b => some (word 0x79#8 d.code a.code b.code, 0)
  | .vfdot2 d a b => some (word 0x7A#8 d.code a.code b.code, 0)
  | .vqnt d a slot => some (word 0x7B#8 d.code a.code (0#5 ++ slot), 0)
  | .vdqnt d a slot => some (word 0x7C#8 d.code a.code (0#5 ++ slot), 0)
  | .vtpack d a => some (word 0x7D#8 d.code a.code 0#8, 0)
  | .vtunpk d a slot => some (word 0x7E#8 d.code a.code (0#5 ++ slot), 0)
  | .vshfl d a b => some (word 0x80#8 d.code a.code b.code, 0)
  | .vsend d a b => some (word 0x81#8 d.code a.code b.code, 0)
  | .vrot d a b => some (word 0x82#8 d.code a.code b.code, 0)
  | .vbcl d a imm => some (word 0x83#8 d.code a.code imm, 0)
  | .vred d a imm => some (word 0x84#8 d.code a.code imm, 0)
  | .vscan d a imm => some (word 0x85#8 d.code a.code imm, 0)
  | .vballot d pa => some (word 0x86#8 d.code (0#5 ++ pa) 0#8, 0)
  | .vmatch d a => some (word 0x87#8 d.code a.code 0#8, 0)
  | .vcomp d a => some (word 0x88#8 d.code a.code 0#8, 0)
  | .efadd d a b => some (word 0x90#8 d.code a.code b.code, 0)
  | .efsub d a b => some (word 0x91#8 d.code a.code b.code, 0)
  | .efmul d a b => some (word 0x92#8 d.code a.code b.code, 0)
  | .effma d a b => some (word 0x93#8 d.code a.code b.code, 0)
  | .efdiv d a b => some (word 0x94#8 d.code a.code b.code, 0)
  | .efsqrt d a => some (word 0x95#8 d.code a.code 0#8, 0)
  | .efcmp pd c a b => some (word 0x96#8 (0#2 ++ c.code ++ pd) a.code b.code, 0)
  | .efcvt d a imm => some (word 0x97#8 d.code a.code imm, 0)
  | .efcvto d a imm => some (word 0x98#8 d.code a.code imm, 0)
  | .efrnd d a => some (word 0x99#8 d.code a.code 0#8, 0)
  | .eflen d a => some (word 0x9A#8 d.code a.code 0#8, 0)
  | .efneg d a => some (word 0x9B#8 d.code a.code 0#8, 0)
  | .efabs d a => some (word 0x9C#8 d.code a.code 0#8, 0)
  | .efld d a b => some (word 0x9D#8 d.code a.code b.code, 0)
  | .efst d a b => some (word 0x9E#8 d.code a.code b.code, 0)
  | .efldw d a b => some (word 0x9F#8 d.code a.code b.code, 0)
  | .ldg8 d a b => some (word 0xA0#8 d.code a.code b.code, 0)
  | .ldg16 d a b => some (word 0xA1#8 d.code a.code b.code, 0)
  | .ldg32 d a b => some (word 0xA2#8 d.code a.code b.code, 0)
  | .ldg64 d a b => some (word 0xA3#8 d.code a.code b.code, 0)
  | .ldg128 d a b => some (word 0xA4#8 d.code a.code b.code, 0)
  | .stg8 d a b => some (word 0xA5#8 d.code a.code b.code, 0)
  | .stg16 d a b => some (word 0xA6#8 d.code a.code b.code, 0)
  | .stg32 d a b => some (word 0xA7#8 d.code a.code b.code, 0)
  | .stg64 d a b => some (word 0xA8#8 d.code a.code b.code, 0)
  | .stg128 d a b => some (word 0xA9#8 d.code a.code b.code, 0)
  | .lds32 d a imm => some (word 0xAA#8 d.code a.code imm, 0)
  | .lds128 d a imm => some (word 0xAB#8 d.code a.code imm, 0)
  | .sts32 d a imm => some (word 0xAC#8 d.code a.code imm, 0)
  | .sts128 d a imm => some (word 0xAD#8 d.code a.code imm, 0)
  | .sld d a imm => some (word 0xAE#8 d.code a.code imm, 0)
  | .sst d a imm => some (word 0xAF#8 d.code a.code imm, 0)
  | .aadd d a b => some (word 0xB0#8 d.code a.code b.code, 0)
  | .amin d a b => some (word 0xB1#8 d.code a.code b.code, 0)
  | .amax d a b => some (word 0xB2#8 d.code a.code b.code, 0)
  | .aand d a b => some (word 0xB3#8 d.code a.code b.code, 0)
  | .aor d a b => some (word 0xB4#8 d.code a.code b.code, 0)
  | .axor d a b => some (word 0xB5#8 d.code a.code b.code, 0)
  | .axchg d a b => some (word 0xB6#8 d.code a.code b.code, 0)
  | .acas d a b => some (word 0xB7#8 d.code a.code b.code, 0)
  | .afadd d a b => some (word 0xB8#8 d.code a.code b.code, 0)
  | .saadd d a => some (word 0xB9#8 d.code a.code 0#8, 0)
  | .cpy tok flags a => some (word 0xBA#8 (tok ++ flags) a.code 0#8, 0)
  | .cpyt tok flags a b => some (word 0xBB#8 (tok ++ flags) a.code b.code, 0)
  | .pref a b => some (word 0xBC#8 0#8 a.code b.code, 0)
  | .invl a b => some (word 0xBD#8 0#8 a.code b.code, 0)
  | .sacas d a => some (word 0xBE#8 d.code a.code 0#8, 0)
  | .mma sa sb fa fb sc => some ((0xC0#8 ++ (sa ++ sb ++ fa ++ fb ++ sc) : Word), 0)
  | .mmar sa sb fa fb sc => some ((0xC1#8 ++ (sa ++ sb ++ fa ++ fb ++ sc) : Word), 0)
  | .accz a => some (word 0xC2#8 0#8 a.code 0#8, 0)
  | .accld a b => some (word 0xC3#8 0#8 a.code b.code, 0)
  | .accst d a slot => some (word 0xC4#8 d.code a.code (0#5 ++ slot), 0)
  | .accdr d a b slot => some (word 0xC5#8 d.code a.code b.code, (0#29 ++ slot))
  | .accrd d a => some (word 0xC6#8 d.code a.code 0#8, 0)
  | .accwr d b => some (word 0xC7#8 d.code 0#8 b.code, 0)
  | .mwait => some (word 0xC8#8 0#8 0#8 0#8, 0)
  | .mscl a b => some (word 0xC9#8 0#8 a.code b.code, 0)
  | .glzcfg a b => some (word 0xD0#8 0#8 a.code b.code, 0)
  | .glzjoin a => some (word 0xD1#8 0#8 a.code 0#8, 0)
  | .glzend => some (word 0xD2#8 0#8 0#8 0#8, 0)
  | .glzbar => some (word 0xD3#8 0#8 0#8 0#8, 0)
  | .glzcin d => some (word 0xD4#8 d.code 0#8 0#8, 0)
  | .glzleave => some (word 0xD5#8 0#8 0#8 0#8, 0)
  | .ill => some (word 0xF0#8 0#8 0#8 0#8, 0)
  | .undefinedOpcode op => some (word op 0 0 0, 0)
  | .handleEntryDrop _ => none
  | .srwaysPublish _ => none
  | .copyRow _ _ => none
  | .matrixPassStart _ => none
  | .matrixOpComplete _ _ => none
  | .accdrMerge _ _ => none
  | .sfuResult _ _ => none
  | .glazeElementAccept _ => none
  | .glazeCarryArrive _ _ => none
  | .glazeRoundComplete _ _ => none
  | .glazeResultDeliver _ _ => none
  | .groupEnd _ => none
  | .teamAdmit _ => none
  | .teamRestore _ => none
  | .forcedSave _ _ => none
  | .forwardProgressSwap _ => none
  | .drainLimitSave _ _ => none
  | .wcbDrain _ _ => none
  | .sliceRequest _ _ _ => none
  | .edgeMemoryRequest _ _ => none
  | .loadResponse _ _ => none
  | .signaturePublish _ => none
  | .governorPeriod _ _ _ _ _ => none
  | .powerLimitPeriod _ => none
  | .waitForWalk => none
  | .knotBreakDeliver _ => none
  | .occupancyReport _ => none
  | .waitReread _ => none
  | .headStart => none
  | .recordRead _ => none
  | .recordReread _ => none
  | .teamHandout => none
  | .launchComplete _ => none
  | .completionRecord _ => none
  | .launchStop _ => none
  | .qkick _ _ => none
  | .qcfg _ _ => none
  | .qctlCancel _ => none
  | .qctlRenumber _ => none
  | .lcmdDrain _ => none
  | .lcmdResume _ => none
  | .lcmdAbort _ => none
  | .invcmdTlb _ _ _ => none
  | .invcmdHnd _ => none
  | .invalidationComplete => none
  | .chead _ _ => none
  | .controlRegisterWrite _ _ => none
  | .mbAttest => none
  | .mbCertificate => none
  | .mbKeyLoad _ _ => none
  | .mbKeyUnload _ => none
  | .mbRaiseSvn => none
  | .hostHdmAccess _ _ => none
  | .hostWindowCompletion _ _ _ => none
  | .hostRequestTimeout _ => none
  | .fabricInboundRequest _ => none
  | .fabricResponse _ _ _ => none
  | .fabricResponseTimeout _ => none
  | .portStateChange _ _ => none
  | .bringUp _ _ => none
  | .functionLevelReset => none
  | .eccError _ _ => none
  | .selfTest _ _ => none
  | .wearPrediction _ _ _ => none
  | .segmentLoad _ => none
  | .travellerDeparture _ => none
  | .packetArrival _ => none
  | .travellerAdmission _ => none
  | .spawnAllocate _ => none
  | .segmentReplication _ _ => none
  | .travellerProgressSwap _ => none

/-- The instruction read from the bits of a table row: bits 31:0 the first word, bits 63:32 the second
(R8, R85). -/
def decodeTableWord (_nbits w : Nat) : Option Instr :=
  match decode (BitVec.ofNat 32 w) (BitVec.ofNat 32 (w >>> 32)) with
  | .ok i => some i
  | .reserved => none

end Sys2Proof
end

