-- ==== Sys2Proof/Machine/Num.lean ====
section
/-!
DEFINITION. Exact numbers and the one rounding helper (R41-R57, R65-R70): formats, decoding, exact sums,
products, quotients and roots, rounding under the six modes, and packing.
-/
namespace Sys2Proof.Machine

/-! ## Integers (R41-R43) -/

/-- Wraps to w bits, read as signed or unsigned (R42). -/
def wrapInt (w : Nat) (signed : Bool) (x : Int) : Int :=
  let r := x % (2 ^ w : Int)
  if signed && decide ((2 ^ (w - 1) : Int) ≤ r) then r - 2 ^ w else r

def minInt (w : Nat) (signed : Bool) : Int := if signed then -(2 ^ (w - 1)) else 0
def maxInt (w : Nat) (signed : Bool) : Int := if signed then 2 ^ (w - 1) - 1 else 2 ^ w - 1

/-- Clamps to the bounds of the type (R42). -/
def satInt (w : Nat) (signed : Bool) (x : Int) : Int :=
  if x < minInt w signed then minInt w signed else if maxInt w signed < x then maxInt w signed else x

/-- The integer result of R42: clamped under MODE.sat, else wrapped. -/
def fit (sat : Bool) (w : Nat) (signed : Bool) (x : Int) : Int :=
  if sat then satInt w signed x else wrapInt w signed x

/-! ## Exact magnitudes and rounding (R49, R51) -/

/-- A signed exact value whose magnitude lies at m 2^e, or strictly between m 2^e and (m+1) 2^e when
`sticky`. A sticky value carries at least 34 bits below any grid it is rounded to. -/
structure Mag where
  neg : Bool := false
  m : Nat := 0
  e : Int := 0
  sticky : Bool := false
deriving DecidableEq, Repr, Inhabited

/-- Number of significant bits of a natural number. -/
def bits (n : Nat) : Nat := if n = 0 then 0 else n.log2 + 1

/-- The exponent of the leading bit of a magnitude. -/
def Mag.top (x : Mag) : Int := x.e + (bits x.m : Int) - 1

def Mag.ofInt (x : Int) : Mag := { neg := decide (x < 0), m := x.natAbs, e := 0 }

/-- The magnitude as a signed integer in units of 2^q, for q at or below the exponent. -/
def Mag.scaled (x : Mag) (q : Int) : Int :=
  let n : Int := ((x.m <<< (x.e - q).toNat : Nat) : Int)
  if x.neg then -n else n

/-- |num/den| 2^e to 400 bits, the rest in the sticky bit (den positive). -/
def Mag.ratio (neg : Bool) (num den : Nat) (e : Int) : Mag :=
  let sh := 400 + bits den - min (bits num) (400 + bits den)
  let n := num <<< sh
  { neg, m := n / den, e := e - (sh : Int), sticky := decide (n % den ≠ 0) }

/-- Integer square root, bit by bit from bit k - 1 down. -/
def isqrtFrom (n : Nat) : Nat → Nat → Nat
  | 0, r => r
  | k + 1, r => isqrtFrom n k (if (r + 2 ^ k) * (r + 2 ^ k) ≤ n then r + 2 ^ k else r)

/-- The largest r with r r at most n. -/
def isqrt (n : Nat) : Nat := isqrtFrom n (bits n / 2 + 1) 0

/-- The square root of m 2^e to at least 300 bits. -/
def Mag.sqrt (m : Nat) (e : Int) : Mag :=
  let (m, e) := if e % 2 = 0 then (m, e) else (m * 2, e - 1)
  let n := m <<< 640
  let r := isqrt n
  { neg := false, m := r, e := e / 2 - 320, sticky := decide (r * r ≠ n) }

/-- Rounds a magnitude to a multiple of 2^q under a mode of R49, with the drawn value of R51: the multiple. -/
def roundAt (mode : Nat) (draw : Nat) (q : Int) (x : Mag) : Nat :=
  if q ≤ x.e then x.m <<< (x.e - q).toNat
  else
    let sh := (q - x.e).toNat
    let t := x.m >>> sh
    let r := x.m % 2 ^ sh
    let half := 2 ^ (sh - 1)
    let inexact := decide (r ≠ 0) || x.sticky
    let above := decide (half < r) || (decide (r = half) && x.sticky)
    let up := match mode with
      | 0 => above || (decide (r = half) && t % 2 == 1)
      | 1 => false
      | 2 => x.neg && inexact
      | 3 => !x.neg && inexact
      | 4 => decide (half ≤ r)
      | 5 => decide (2 ^ 32 ≤ (r <<< 32) >>> sh + draw)
      | _ => false
    if up then t + 1 else t

/-- Rounds to an integer (R44, R155). -/
def roundInt (mode draw : Nat) (x : Mag) : Int :=
  let n : Int := (roundAt mode draw 0 x : Int)
  if x.neg then -n else n

/-- The mode points toward zero for this sign (R49). -/
def towardZero (mode : Nat) (neg : Bool) : Bool :=
  mode == 1 || (mode == 2 && !neg) || (mode == 3 && neg)

/-! ## Floating formats (R45, R56) -/

/-- A format: exponent and fraction widths, bias, the largest finite code, and its special codes. -/
structure Fmt where
  eb : Nat
  fb : Nat
  bias : Int
  maxCode : Nat
  hasInf : Bool
  hasNan : Bool
deriving DecidableEq, Repr

def f32 : Fmt := ⟨8, 23, 127, 0x7F7FFFFF, true, true⟩
def f16 : Fmt := ⟨5, 10, 15, 0x7BFF, true, true⟩
def bf16 : Fmt := ⟨8, 7, 127, 0x7F7F, true, true⟩
def e4m3 : Fmt := ⟨4, 3, 7, 0x7E, false, true⟩
def e5m2 : Fmt := ⟨5, 2, 15, 0x7B, true, true⟩
def e3m2 : Fmt := ⟨3, 2, 3, 0x1F, false, false⟩
def e2m3 : Fmt := ⟨2, 3, 1, 0x1F, false, false⟩
def e2m1 : Fmt := ⟨2, 1, 1, 0x7, false, false⟩

/-- A floating value: a NaN with its payload as fraction bits of a width, an infinity, or m 2^e. -/
inductive FVal where
  | nan (neg : Bool) (pay width : Nat)
  | inf (neg : Bool)
  | num (neg : Bool) (m : Nat) (e : Int)
deriving DecidableEq, Repr, Inhabited

def FVal.isNan : FVal → Bool | .nan _ _ _ => true | _ => false
def FVal.isInf : FVal → Bool | .inf _ => true | _ => false
def FVal.isZero : FVal → Bool | .num _ m _ => m == 0 | _ => false
def FVal.neg? : FVal → Bool | .nan s _ _ => s | .inf s => s | .num s _ _ => s
def FVal.negate : FVal → FVal
  | .nan s p w => .nan s p w | .inf s => .inf (!s) | .num s m e => .num (!s) m e
def FVal.mag : FVal → Mag
  | .num s m e => { neg := s, m, e }
  | .inf s => { neg := s } | .nan s _ _ => { neg := s }

/-- The value of a code of a format (R45, R56). -/
def Fmt.decode (f : Fmt) (c : Nat) : FVal :=
  let s := decide ((c >>> (f.eb + f.fb)) % 2 = 1)
  let e := (c >>> f.fb) % 2 ^ f.eb
  let m := c % 2 ^ f.fb
  if f.hasNan && !f.hasInf && e + 1 == 2 ^ f.eb && m + 1 == 2 ^ f.fb then .nan s m f.fb
  else if f.hasInf && e + 1 == 2 ^ f.eb then (if m = 0 then .inf s else .nan s m f.fb)
  else if e = 0 then .num s m (1 - f.bias - f.fb)
  else .num s (2 ^ f.fb + m) ((e : Int) - f.bias - f.fb)

/-- The sign bit of a code. -/
def Fmt.sign (f : Fmt) (neg : Bool) : Nat := if neg then 2 ^ (f.eb + f.fb) else 0

/-- A subnormal code becomes the zero of its sign under MODE.ftz (R48). -/
def Fmt.flush (f : Fmt) (ftz : Bool) (c : Nat) : Nat :=
  if ftz && (c >>> f.fb) % 2 ^ f.eb == 0 then f.sign (decide ((c >>> (f.eb + f.fb)) % 2 = 1)) else c

/-- Brings fraction bits of width w to width w' and sets the quiet bit (R54). -/
def nanPay (pay w w' : Nat) : Nat :=
  let p := if w ≤ w' then pay <<< (w' - w) else pay >>> (w - w')
  if w' = 0 then 0 else p ||| 2 ^ (w' - 1)

/-- The code of a NaN carried into a format (R54, R57). -/
def Fmt.nan (f : Fmt) (neg : Bool) (pay w : Nat) : Nat :=
  if f = e5m2 then f.sign neg + 0x7E
  else if f.hasInf then f.sign neg + ((2 ^ f.eb - 1) <<< f.fb) + nanPay pay w f.fb
  else if f.hasNan then f.sign neg + 2 ^ (f.eb + f.fb) - 1
  else 0

/-- The code of an infinity: the largest finite value where the format has none (R57). -/
def Fmt.inf (f : Fmt) (neg : Bool) : Nat :=
  f.sign neg + (if f.hasInf then (2 ^ f.eb - 1) <<< f.fb else f.maxCode)

/-- rnd(x, F) of R49 and R57: rounds an exact value to a format and packs it. -/
def Fmt.round (f : Fmt) (mode draw : Nat) (x : Mag) : Nat :=
  if x.m = 0 && !x.sticky then f.sign x.neg
  else
    let emin : Int := 1 - f.bias
    let q : Int := max (x.top - f.fb) (emin - f.fb)
    -- the largest finite value, and X one step past it, in units of their last place
    let maxQ : Int := (((f.maxCode >>> f.fb : Nat) : Int)) - f.bias - f.fb
    let xm := 2 ^ f.fb + f.maxCode % 2 ^ f.fb + 1
    let beyond := if maxQ ≤ x.e then decide (xm ≤ x.m <<< (x.e - maxQ).toNat)
      else decide (xm ≤ x.m >>> (maxQ - x.e).toNat)
    if beyond then f.sign x.neg + (if towardZero mode x.neg then f.maxCode else f.inf false)
    else
      let t := roundAt mode draw q x
      -- adding the significand to the exponent field carries into the next binade
      let c := if t < 2 ^ f.fb then t else ((q + f.fb + f.bias - 1).toNat <<< f.fb) + t
      f.sign x.neg + (if f.maxCode < c then f.inf false else c)

/-- The fold of the PC in a NaN payload (R53). -/
def phi (pc : DWord) : Nat := (pc.extractLsb' 2 16 ^^^ pc.extractLsb' 18 16).toNat

/-- The NaN of an invalid operation (R53). -/
def Fmt.invalid (f : Fmt) (lane : Nat) (pc : DWord) : Nat :=
  if f = f32 then 0x7FC00000 + (lane % 64) <<< 16 + phi pc
  else if f = f16 then 0x7E00 + (lane % 64) <<< 3 + phi pc % 8
  else if f = bf16 then 0x7FC0 + lane % 64
  else if f = e4m3 then 0x7F
  else if f = e5m2 then 0x7E
  else 0

/-! ## Exact results -/

/-- The exact result of an operation before rounding. -/
inductive Exact where
  | nan (neg : Bool) (pay width : Nat)
  | invalid
  | inf (neg : Bool)
  | fin (x : Mag)
deriving DecidableEq, Repr, Inhabited

def Exact.ofVal : FVal → Exact
  | .nan s p w => .nan s p w | .inf s => .inf s | .num s m e => .fin { neg := s, m, e }

/-- The first NaN among the operands (R54). -/
def firstNan : List FVal → Option Exact
  | [] => none
  | .nan s p w :: _ => some (.nan s p w)
  | _ :: t => firstNan t

/-- The sign of an exact zero sum of addends of the given signs (R47). -/
def zeroSign (mode : Nat) (signs : List Bool) : Bool :=
  (!signs.isEmpty && signs.all id) || (mode == 2 && signs.any id && signs.any (!·))

/-- The exact sum of finite values and infinities (R47). -/
def sumMags (mode : Nat) (xs : List Mag) : Mag :=
  let q := (xs.filter (·.m ≠ 0)).foldl (fun a x => min a x.e) 0x100000
  let s := xs.foldl (fun a x => if x.m = 0 then a else a + x.scaled q) (0 : Int)
  if s = 0 then { neg := zeroSign mode (xs.map (·.neg)) }
  else { neg := decide (s < 0), m := s.natAbs, e := q }

/-- The exact sum of values without NaNs, invalid where infinities of both signs meet (R46). -/
def sumExact (mode : Nat) (xs : List FVal) : Exact :=
  let infs := (xs.filter FVal.isInf).map FVal.neg?
  if infs.any id && infs.any (!·) then .invalid
  else match infs with
    | s :: _ => .inf s
    | [] => .fin (sumMags mode (xs.map FVal.mag))

/-- The exact product of two values without NaNs; none is the invalid 0 x infinity (R46). -/
def mulVal (x y : FVal) : Option FVal :=
  let s := xor x.neg? y.neg?
  if x.isInf || y.isInf then (if x.isZero || y.isZero then none else some (.inf s))
  else some (.num s (x.mag.m * y.mag.m) (x.mag.e + y.mag.e))

def addX (mode : Nat) (x y : FVal) : Exact := (firstNan [x, y]).getD (sumExact mode [x, y])

def mulX (x y : FVal) : Exact :=
  (firstNan [x, y]).getD (match mulVal x y with | none => .invalid | some v => .ofVal v)

/-- x y + z with one rounding (R47); NaNs in the order x, y, z (R54). -/
def fmaX (mode : Nat) (x y z : FVal) : Exact :=
  (firstNan [x, y, z]).getD (match mulVal x y with | none => .invalid | some p => sumExact mode [p, z])

/-- x / y (R46, R146). -/
def divX (x y : FVal) : Exact :=
  let s := xor x.neg? y.neg?
  (firstNan [x, y]).getD <|
    if x.isInf then (if y.isInf then .invalid else .inf s)
    else if y.isInf then .fin { neg := s }
    else if y.isZero then (if x.isZero then .invalid else .inf s)
    else if x.isZero then .fin { neg := s }
    else .fin (Mag.ratio s x.mag.m y.mag.m (x.mag.e - y.mag.e))

/-- Square root (R150, R172). -/
def sqrtX (x : FVal) : Exact :=
  match x with
  | .nan s p w => .nan s p w
  | .inf s => if s then .invalid else .inf false
  | .num s m e => if m = 0 then .fin { neg := s } else if s then .invalid else .fin (Mag.sqrt m e)

/-- 1/x (R150). -/
def rcpX (x : FVal) : Exact :=
  match x with
  | .nan s p w => .nan s p w
  | .inf s => .fin { neg := s }
  | .num s m e => if m = 0 then .inf s else .fin (Mag.ratio s 1 m (-e))

/-- 1/sqrt(x), rounded once from the exact value (R150): the root of 1/x taken from integers. -/
def rsqX (x : FVal) : Exact :=
  match x with
  | .nan s p w => .nan s p w
  | .inf s => if s then .invalid else .fin {}
  | .num s m e =>
    if m = 0 then .inf s
    else if s then .invalid
    else
      -- 1/sqrt(m 2^e) = sqrt(2^k / m) 2^((-e-k)/2), with -e-k even
      let k : Nat := if (e + 1000) % 2 = 0 then 1000 else 1001
      let n := 2 ^ k / m
      let r := isqrt n
      .fin { neg := false, m := r, e := (-e - (k : Int)) / 2, sticky := decide (r * r * m ≠ 2 ^ k) }

/-- Rounds an exact result to a format, with the lane and PC of an invalid operation (R49, R53, R54). -/
def Fmt.finish (f : Fmt) (mode draw : Nat) (ftz : Bool) (lane : Nat) (pc : DWord) : Exact → Nat
  | .nan s p w => f.nan s p w
  | .invalid => f.invalid lane pc
  | .inf s => f.inf s
  | .fin x => f.flush ftz (f.round mode draw x)

/-- Compares two values that are not NaN: -1, 0 or 1; both zeros are equal (R148). -/
def cmpVal (x y : FVal) : Int :=
  let key (v : FVal) : Int × Mag := match v with
    | .inf s => (if s then -1 else 1, {}) | v => (0, v.mag)
  let (a, p) := key x
  let (b, r) := key y
  if a ≠ b then (if a < b then -1 else 1)
  else if a ≠ 0 then 0
  else
    let q := min p.e r.e
    let u := p.scaled q
    let v := r.scaled q
    if u < v then -1 else if v < u then 1 else 0

/-! ## Elastic float (R35, R65-R68) -/

/-- n_P, the extension words of a result at precision P (R35). -/
def nP (p : Nat) : Nat := (p - 13 + 31) / 32

/-- The value of a header word and its extension words (R65). -/
def efDecode (header : Word) (ext : List Word) : FVal :=
  let s := header.getLsbD 31
  let e := (header.extractLsb' 15 16).toNat
  let w := 12 + 32 * ext.length
  let f := ext.foldl (fun a x => a * 2 ^ 32 + x.toNat) (header.extractLsb' 0 12).toNat
  if e = 0 then .num s 0 0
  else if e = 0xFFFF then (if f = 0 then .inf s else .nan s f w)
  else .num s (2 ^ w + f) ((e : Int) - 32767 - w)

/-- Splits a fraction of n extension words into the header's 12 bits and the words (R65). -/
def efWords (neg : Bool) (exp n frac : Nat) : List Word :=
  let head : Word := BitVec.ofNat 32 ((if neg then 2 ^ 31 else 0) + exp * 2 ^ 15 + n * 2 ^ 12 + frac / 2 ^ (32 * n))
  head :: (List.range n).map fun k => BitVec.ofNat 32 (frac / 2 ^ (32 * (n - 1 - k)))

/-- The significant bits of m without its trailing zeros: m xor (m - 1) holds one bit more than those. -/
def sigBits (m : Nat) : Nat := if m = 0 then 0 else bits m + 1 - bits (m ^^^ (m - 1))

/-- ef_round of R67 at precision p: the words of the window. -/
def efRound (p mode draw lane : Nat) (pc : DWord) : Exact → List Word
  | .nan s f w => efWords s 0xFFFF (nP p) (nanPay f w (12 + 32 * nP p))
  | .invalid =>
    BitVec.ofNat 32 (0xFFFF * 2 ^ 15 + nP p * 2 ^ 12 + 2 ^ 11 + (lane % 64) * 32 + phi pc % 32) ::
      List.replicate (nP p) 0
  | .inf s => efWords s 0xFFFF (nP p) 0
  | .fin x =>
    if x.m = 0 && !x.sticky then efWords x.neg 0 (nP p) 0
    else
      let q := x.top - ((p : Int) - 1)
      let t := roundAt mode draw q x
      let (t, q) := if t = 2 ^ p then (2 ^ (p - 1), q + 1) else (t, q)
      let e := q + (p : Int) - 1 + 32767
      let w := 12 + 32 * nP p
      if 0xFFFE < e then
        (if towardZero mode x.neg then efWords x.neg 0xFFFE (nP p) ((2 ^ (p - 1) - 1) <<< (w - (p - 1)))
          else efWords x.neg 0xFFFF (nP p) 0)
      else if e < 1 then efWords x.neg 0 (nP p) 0
      else efWords x.neg e.toNat (nP p) ((t - 2 ^ (p - 1)) <<< (w - (p - 1)))

/-- The detail of trap 0x06 when an exact result does not fit precision p: the smallest P that holds it, or
0xFF (R68). -/
def efExhausted (p : Nat) : Exact → Option Byte
  | .fin x =>
    if x.m = 0 && !x.sticky then none
    else
      let n := sigBits x.m
      let e := x.top + 32767
      if x.sticky ∨ 237 < n ∨ e < 1 ∨ 0xFFFE < e then some 0xFF
      else if p < n then some (BitVec.ofNat 8 n) else none
  | _ => none

end Sys2Proof.Machine
end

