-- ==== Sys2Proof/Machine/Special.lean ====
section
/-!
DEFINITION. The special functions by the procedures of R71-R78, on integers with 62 fraction bits (Q62).
The tables and coefficients are the values R72 names, each rounded to the nearest integer.
-/
namespace Sys2Proof.Machine

/-- 2^(j/64) in Q62 (R72). -/
def tabT : List Int :=
  [4611686018427387904, 4661903986662671290, 4712668792719003884, 4763986391269842979, 4815862801830788490, 4868304109465667592, 4921316465500308116, 4974906088244084429, 5029079263719320435, 5083842346398635251, 5139201759950318048, 5195163997991819502, 5251735624851448219, 5308923276338361494, 5366733660520940721, 5425173558513642752] ++
  [5484249825272419512, 5543969390398799154, 5604339258952723100, 5665366512274234280, 5727058308814112983, 5789421884973557729, 5852464555953009676, 5916193716610220111, 5980616842327661685, 6045741489889385141, 6111575298367424380, 6178125990017853852, 6245401371186603363, 6313409333225136570, 6382157853416100552, 6451654995909055045] ++
  [6521908912666391106, 6592927844419550153, 6664720121635655541, 6737294165494670078, 6810658488877194079, 6884821697363019841, 6959792490240559659, 7035579661527265796, 7112192101001162095, 7189638795243608238, 7267928828693418961, 7347071384712461870, 7427075746662858866, 7507951298995917514, 7589707528352920109, 7672354024677899536] ++
  [7755900482342532474, 7840356701283281883, 7925732588150922155, 8012038157472581778, 8099283532826439817, 8187478948029213993, 8276634748336579668, 8366761391656660532, 8457869449776733335, 8549969609603290562, 8643072674415606502, 8737189565132953757, 8832331321595618838, 8928509103859867100, 9025734193507008925, 9124017994966720698]

/-- 64/(64 + j) in Q62 (R72). -/
def tabRC : List Int :=
  [4611686018427387904, 4540737002759274244, 4471937957262921604, 4405192614617206356, 4340410370284600380, 4277505872164533708, 4216398645419326084, 4157012749004969378, 4099276460824344804, 4043121988758257888, 3988485205126389539, 3935305402391371011, 3883525068149379288, 3833089677653932803, 3783947502299395203, 3736049432650035770] ++
  [3689348814741910323, 3643801298510528714, 3599364697309180803, 3555998857582564167, 3513665537849438403, 3472328296227680304, 3431952385806428208, 3392504657233940527, 3353953467947191203, 3316268597520818268, 3279421168659475843, 3243383573399481603, 3208129404123400281, 3173633389025299203, 3139871331695242828, 3106820054519503430] ++
  [3074457345618258603, 3042761909065493050, 3011713318156661488, 2981291971508614403, 2951479051793528259, 2922256486924285405, 2893606913523066920, 2865513642517988601, 2837960626724546402, 2810932430279550722, 2784414199805215338, 2758391637190213326, 2732850973882896536, 2707778946599567210, 2683162774357752962, 2658990136750926359] ++
  [2635249153387078802, 2611928364419051556, 2589016712099586192, 2566503523298720225, 2544378492925455395, 2522631668199596802, 2501253433723329033, 2480234497305485932, 2459565876494606882, 2439238885779775420, 2419245124420924802, 2399576464872787202, 2380225041768974402, 2361183241434822607, 2342443691899625602, 2323999253380730912]

/-- -log2 of the rounded entry of tabRC, in Q62 (R72). -/
def tabL : List Int :=
  [0, 103153330606121625, 204731739545776358, 304782595603293869, 403351162126124448, 500480719981309593, 596212681665212875, 690586697319517456, 783640753332765647, 875411264141121920, 965933157783587319, 1055239955714717669, 1143363847331251473, 1230335759627285964, 1316185422355184003, 1400941429035756762] ++
  [1484631294131014399, 1567281506665531296, 1648917580557901400, 1729564101901571123, 1809244773414275253, 1887982456257138846, 1965799209408045219, 2042716326758930047, 2118754372093087486, 2193933212086227468, 2268272047463780046, 2341789442436693607, 2414503352528620721, 2486431150898841404, 2557589653257460680, 2627995141462265872] ++
  [2697663385880076775, 2766609666589412753, 2834848793495784858, 2902395125425853133, 2969262588262028796, 3035464692174811579, 3101014548006201223, 3165924882853879153, 3230208054902495131, 3293876067545289652, 3356940582836414350, 3419412934311659539, 3481304139212842423, 3542624910148834944, 3603385666224101885, 3663596543663664096] ++
  [3723267405961586382, 3782407853578403234, 3841027233211328249, 3899134646659635119, 3956738959306241175, 4013848808235260779, 4070472610004118118, 4126618568087710827, 4182294680011091175, 4237508744186174973, 4292268366467094717, 4346580966437978176, 4400453783446152532, 4453893882393043194, 4506908159294352029, 4559503346620458694]

/-- sin(pi j/128) in Q62 (R72). -/
def tabS : List Int :=
  [0, 113176440454146016, 226284707652502141, 339256669404298611, 452024275624069880, 564519599322481549, 676674877523008785, 788422552079819562, 899695310372275547, 1010426125851537790, 1120548298414853464, 1229995494583203681, 1338701787458110889, 1446601696433537347, 1553630226638953726, 1659722908089818799] ++
  [1764815834521887442, 1868845701885954606, 1971749846479847467, 2073466282694696471, 2173933740352748318, 2273091701614230011, 2370880437431032621, 2467241043525256456, 2562115475870945497, 2655446585657638225, 2747178153714674114, 2837254924375519865, 2925622638761716784, 3012228067466400296, 3097019042617704261, 3179944489302736311] ++
  [3260954456333195553, 3340000146334100615, 3417033945137503676, 3492009450463484836, 3564881499871150442, 3635606197962798751, 3704140942824866152, 3770444451689726907, 3834476785802888710, 3896199374480604983, 3955575038343412514, 4012568011711599423, 4067143964149113252, 4119270021142931949, 4168914783905441250, 4216048348287890265] ++
  [4260642322793532497, 4302669845679601858, 4342105601137822079, 4378925834543703005, 4413108366765438139, 4444632607523784314, 4473479567794875989, 4499631871248503178, 4523073764714963030, 4543791127674180203, 4561771480761380163, 4577003993284191887, 4589479489746651964, 4599190455376180266, 4606131040650197959, 4610297064819661174]

/-- cos(pi j/128) in Q62 (R72). -/
def tabC : List Int :=
  [4611686018427387904, 4610297064819661174, 4606131040650197959, 4599190455376180266, 4589479489746651964, 4577003993284191887, 4561771480761380163, 4543791127674180203, 4523073764714963030, 4499631871248503178, 4473479567794875989, 4444632607523784314, 4413108366765438139, 4378925834543703005, 4342105601137822079, 4302669845679601858] ++
  [4260642322793532497, 4216048348287890265, 4168914783905441250, 4119270021142931949, 4067143964149113252, 4012568011711599423, 3955575038343412514, 3896199374480604983, 3834476785802888710, 3770444451689726907, 3704140942824866152, 3635606197962798751, 3564881499871150442, 3492009450463484836, 3417033945137503676, 3340000146334100615] ++
  [3260954456333195553, 3179944489302736311, 3097019042617704261, 3012228067466400296, 2925622638761716784, 2837254924375519865, 2747178153714674114, 2655446585657638225, 2562115475870945497, 2467241043525256456, 2370880437431032621, 2273091701614230011, 2173933740352748318, 2073466282694696471, 1971749846479847467, 1868845701885954606] ++
  [1764815834521887442, 1659722908089818799, 1553630226638953726, 1446601696433537347, 1338701787458110889, 1229995494583203681, 1120548298414853464, 1010426125851537790, 899695310372275547, 788422552079819562, 676674877523008785, 564519599322481549, 452024275624069880, 339256669404298611, 226284707652502141, 113176440454146016]

/-- c_1 to c_4 (R72). -/
def coefC : List Int := [3196577161300663915, 1107849223398934356, 255967521894832113, 44355791529079737]

/-- d_1 to d_7 (R72). -/
def coefD : List Int := [6653256548922161246, -3326628274461080623, 2217752182974053749, -1663314137230540311, 1330651309784432249, -1108876091487026874, 950465221274594464]

/-- a_0 to a_3 (R72). -/
def coefA : List Int := [14488038916154245685, -23831868775004974059, 11760555847398657682, -2763619851208166269]

/-- b_0 to b_3 (R72). -/
def coefB : List Int := [4611686018427387904, -22757758311956604325, 18717505966217902901, -6157812642053351409]

/-- log2(e) in Q62 (R72). -/
def coefLE : Int := 6653256548922161246

/-- The product helper: floor(a b / 2^62). -/
def mulq (a b : Int) : Int := (a * b) / 2 ^ 62

/-- A polynomial by Horner's rule, highest coefficient last in the list. -/
def poly (cs : List Int) (t : Int) : Int :=
  match cs.reverse with
  | [] => 0
  | q :: rest => rest.foldl (fun q c => c + mulq q t) q

/-- The exponential core E(X): m and i (R73). -/
def expCore (x : Int) : Int × Int :=
  let i := x / 2 ^ 40
  let j := (x / 2 ^ 34) % 64
  let tq := (x % 2 ^ 34) * 2 ^ 22
  let q := mulq (poly coefC tq) tq
  let t := tabT.getD j.toNat 0
  (t + mulq t q, i)

/-- Clamps a finite magnitude to at most 200 in size (R74, R77, R78). -/
def clamp200 (x : Mag) : Mag :=
  if 0 < cmpVal (.num false x.m x.e) (.num false 200 0) then { neg := x.neg, m := 200, e := 0 } else x

/-- VFEXP2 (R74). -/
def exp2X (x : FVal) : Exact :=
  match x with
  | .nan s p w => .nan s p w
  | .inf s => if s then .fin {} else .inf false
  | .num s m e =>
    let c := clamp200 { neg := s, m, e }
    let (v, i) := expCore (roundInt 0 0 { c with e := c.e + 40 })
    .fin { m := v.toNat, e := i - 62 }

/-- VFLOG2 (R75). -/
def log2X (x : FVal) : Exact :=
  match x with
  | .nan s p w => .nan s p w
  | .inf s => if s then .invalid else .inf false
  | .num s m e =>
    if m = 0 then .inf true
    else if s then .invalid
    else
      let k := 24 - bits m
      let mm : Int := ((m <<< k : Nat) : Int)
      let e : Int := e - (k : Int) + 23
      let j := ((mm / 2 ^ 17) % 64).toNat
      let z := mm * tabRC.getD j 0 / 2 ^ 23 - 2 ^ 62
      let q := mulq (poly coefD z) z
      let total : Int := e * 2 ^ 62 + tabL.getD j 0 + q
      .fin { neg := decide (total < 0), m := total.natAbs, e := -62 }

/-- sin(pi x) and cos(pi x) on the main path of R76, in Q62, for a finite non-zero x with |x| at least 2^-28. -/
def sinCos (x : Mag) : Int × Int :=
  -- F = (x mod 2) 2^52, an exact integer
  let f : Int := if 0 ≤ x.e + 52 then (x.scaled (-52)) % 2 ^ 53 else ((x.scaled x.e) / 2 ^ (-52 - x.e).toNat) % 2 ^ 53
  let quad := f / 2 ^ 51
  let w := f % 2 ^ 51
  let j := (w / 2 ^ 45).toNat
  let tq := (w % 2 ^ 45) * 2 ^ 10
  let t2 := mulq tq tq
  let sp := mulq (poly coefA t2) tq
  let cp := poly coefB t2
  let s := tabS.getD j 0
  let c := tabC.getD j 0
  let sn := mulq s cp + mulq c sp
  let cs := mulq c cp - mulq s sp
  match quad.toNat with
  | 0 => (sn, cs) | 1 => (cs, -sn) | 2 => (-sn, -cs) | _ => (-cs, sn)

/-- Whether 0 < |x| < 2^-k. -/
def below (x : Mag) (k : Int) : Bool := x.m != 0 && decide (x.top < -k)

/-- VFSINP (R76). -/
def sinpX (x : FVal) : Exact :=
  match x with
  | .nan s p w => .nan s p w
  | .inf _ => .invalid
  | .num s m e =>
    if m = 0 then .fin { neg := s }
    else if below { m, e } 28 then .fin { neg := s, m := m * (coefA.getD 0 0).toNat, e := e - 62 }
    else
      let v := (sinCos { neg := s, m, e }).1
      .fin { neg := if v = 0 then s else decide (v < 0), m := v.natAbs, e := -62 }

/-- VFCOSP (R76). -/
def cospX (x : FVal) : Exact :=
  match x with
  | .nan s p w => .nan s p w
  | .inf _ => .invalid
  | .num s m e =>
    if m = 0 then .fin { m := 1 }
    else if below { m, e } 28 then .fin { m := 2 ^ 60 - 1, e := -60 }
    else
      let v := (sinCos { neg := s, m, e }).2
      .fin { neg := decide (v < 0), m := v.natAbs, e := -62 }

/-- VFSIGM (R77): one rounding of 1/(1 + m 2^(i-62)). -/
def sigmX (x : FVal) : Exact :=
  match x with
  | .nan s p w => .nan s p w
  | x =>
    let c : Mag := match x with | .inf s => { neg := s, m := 200 } | x => clamp200 x.mag
    let (v, i) := expCore (roundInt 0 0 { neg := !c.neg, m := c.m * coefLE.toNat, e := c.e - 22 })
    -- 1 / (1 + v 2^(i-62)) = 2^k / (2^k + v 2^(i-62+k))
    let k := (62 - i).toNat
    let d := if i ≤ 62 then 2 ^ k + v.toNat else 1 + v.toNat * 2 ^ (i - 62).toNat
    .fin (Mag.ratio false (2 ^ k) d 0)

/-- VFTANH (R78). -/
def tanhX (x : FVal) : Exact :=
  match x with
  | .nan s p w => .nan s p w
  | x =>
    let a : Mag := match x with | .inf s => { neg := s, m := 200 } | x => x.mag
    if a.m = 0 then .fin a
    else if below a 13 then
      -- x - x^3/3 = (3 m 2^(-2e) - m^3) 2^(3e) / 3
      let n := 3 * a.m * 2 ^ (-2 * a.e).toNat - a.m ^ 3
      .fin (Mag.ratio a.neg n 3 (3 * a.e))
    else
      let c := clamp200 a
      let (v, i) := expCore (roundInt 0 0 { m := 2 * c.m * coefLE.toNat, e := c.e - 22 })
      let k := (62 - i).toNat
      let u := v.toNat * 2 ^ (i - 62).toNat
      .fin (Mag.ratio a.neg (u - 2 ^ k) (u + 2 ^ k) 0)

/-- The one-source function of an SFUFN code (R207). -/
def sfuFunction (fn : Nat) (x : FVal) : Exact :=
  match fn with
  | 0 => exp2X x | 1 => log2X x | 2 => sinpX x | 3 => cospX x | 4 => tanhX x | 5 => sigmX x
  | 6 => sqrtX x | 7 => rcpX x | _ => rsqX x

end Sys2Proof.Machine
end

