-- ==== Sys2Proof/Machine/State.lean ====
section
/-!
DEFINITION. The state of the part as plain data: strands, groups, teams, cores, stacks, launches,
queues, the package's control registers, memory, and the input lists that say what happens next.
Every field's default value is its value at reset.
-/
namespace Sys2Proof.Machine

/-! ## Per-strand state (R14, R37, R38, R111, R122, R221) -/

/-- One parked path of a divergence stack: a lane mask and an address (R111). -/
structure DivEntry where
  mask : BitVec 4 := 0
  pc : DWord := 0
deriving DecidableEq, Repr, Inhabited

/-- One loop level: the count LC, the body start B and the word after the body E (R122). -/
structure LoopLevel where
  count : Word := 0
  start : DWord := 0
  stop : DWord := 0
deriving DecidableEq, Repr, Inhabited

/-- What a joined set that is not ready waits for (R190, R468). -/
inductive Wait where
  /-- Barrier `n` (R194). -/
  | barrier (n : Nat)
  /-- Queue registers with the entries each active lane needs of them, or room where they are pushed (R206). -/
  | queue (needs : List (Nat × Nat))
  /-- A pending palette claim (R199). -/
  | palette
  /-- Copy tokens named by a mask (R128, R249). -/
  | token (mask : BitVec 8)
  /-- The other strands of the group at a REGANG (R121). -/
  | regang
  /-- The matrix operations of the set (R274, R283). -/
  | matrix
  /-- Room among the engine's 64 strand operations (R270). -/
  | matrixRoom (need : Nat)
  /-- The core's glaze unit bound to another group (R299). -/
  | glzUnit
  /-- The end of the glaze round that was current, at a GLZBAR or a GLZLEAVE (R311). -/
  | glzRound (round : Nat) (leave : Bool)
  /-- A carry-in (R313). -/
  | glzCarry
  /-- Results or aggregates in q2 or q3, with whatever else the instruction needs of its queues (R305). -/
  | glzPop (needs : List (Nat × Nat))
  /-- Responses to outstanding loads and atomics (R382, R442, R452). -/
  | load
  /-- Acknowledgements of published signatures, handle drops or way counts (R387, R340, R329). -/
  | acks
  /-- The change of the scratchpad ways of a stack to reach every core (R329). -/
  | srcfg (stack : Nat)
  /-- Writes to the host or another package not yet acknowledged (R387). -/
  | remoteWrites
  /-- Earlier accesses of the set's strands, or a flight of its group (R236, R387). -/
  | performed
  /-- The group's copies and matrix operations (R340, R412). -/
  | engines
  /-- The copies, matrix work and packet of a departing traveller (R412). -/
  | departure
deriving DecidableEq, Repr

/-- One access of a lane as it was translated and checked at issue: its address, physical address and key (R234). -/
structure Access where
  lane : Nat := 0
  va : Nat := 0
  pa : Nat := 0
  key : Option Nat := none
deriving DecidableEq, Repr, Inhabited

/-- A memory access that has issued and waits for a release or for answers: the registers its group held and its
special-function selector at issue (R202, R223), and each lane's access with the data the lane brings. -/
structure Begun where
  held : Nat := 0
  fn : BitVec 4 := 0
  accs : List Access := []
  data : List Nat := []
  /-- EFLD and EFLDW: lanes whose headers fault, with cause, address and detail; and whether the words that the headers name
  are among the accesses by now (R177). -/
  bad : List (Nat × Byte × Nat × Byte) := []
  ext : Bool := false
deriving DecidableEq, Repr, Inhabited

/-- The state of one strand. -/
structure Strand where
  pc : DWord := 0
  mode : BitVec 24 := 0
  prec : Byte := 24
  live : DWord := 0
  lk : DWord := 0
  /-- Levels 0 to 2. -/
  loops : Table LoopLevel := []
  amask : BitVec 4 := 0xF
  /-- Top first. -/
  stack : List DivEntry := []
  handler : Bool := false
  tcause : Byte := 0
  tpc : DWord := 0
  taddr : DWord := 0
  tinfo : Word := 0
  ended : Bool := false
  /-- The joined set the strand belongs to: strands with equal numbers are joined (R15). -/
  jset : Nat := 0
  /-- Lanes parked at the REGANG being reconverged, and its address (R120). -/
  parked : BitVec 4 := 0
  parkPc : DWord := 0
  /-- The strand has reconverged and arrived at its REGANG (R121). -/
  arrived : Bool := false
  /-- Bit n: an arrival at barrier n is pending (R194, BARSTAT). -/
  barPend : BitVec 16 := 0
  /-- The barrier at which the waiting BAR has arrived already (R194). -/
  barMark : Option Nat := none
  /-- The release half of the instruction at the PC has been performed (R387). -/
  released : Bool := false
  /-- The next unused key when that release took its snapshot: the writes it waits for have earlier numbers (R387). -/
  snap : Nat := 0
  /-- The instruction at the PC has done what it waits for acknowledgement of (R329, R340, R388). -/
  issued : Bool := false
  wait : Option Wait := none
  /-- Sequence number of the wait in the wait-for table (R468). -/
  waitSeq : Nat := 0
  /-- The core's cycle, and the partition's count of issue cycles, at which the set became ready (R189). -/
  readyAt : Nat × Nat := (0, 0)
  /-- The memory access at the PC that has issued and is not complete (R202, R382). -/
  begun : Option Begun := none
deriving DecidableEq, Repr, Inhabited

/-! ## Per-group state (R40, R205, R215, R248, R284, R316, R386) -/

/-- A token (R248): state 0 done, 1 in progress, 2 faulted, 3 partial. -/
structure Token where
  state : BitVec 2 := 0
  cause : BitVec 6 := 0
  row : BitVec 24 := 0
  addr : DWord := 0
deriving DecidableEq, Repr, Inhabited

/-- An argument in the special-function unit, with what travels with it (R207). -/
structure SfuArg where
  value : Word := 0
  type : BitVec 4 := 0
  round : BitVec 3 := 0
  ftz : Bool := false
  fn : BitVec 4 := 0
  draws : List Word := []
  pc : DWord := 0
deriving DecidableEq, Repr, Inhabited

/-- An answer to one outstanding access of a group: the access's physical address, its data, and the
cause and detail of a failed one (R382, R442, R450, R452). -/
structure Resp where
  jset : Nat := 0
  lane : Nat := 0
  pa : Nat := 0
  data : BitVec 128 := 0
  fail : Option (Byte × Byte) := none
deriving DecidableEq, Repr, Inhabited

/-- A glaze configuration: the word of R300 and the initial value, with the address of its GLZCFG. -/
structure GlzCfg where
  code : BitVec 3 := 0
  agg : Bool := false
  noh : Bool := false
  wrap : Bool := false
  count : BitVec 16 := 0
  h0 : Word := 0
  pc : DWord := 0
deriving DecidableEq, Repr, Inhabited

/-- An element of a tile: its pair and the lane that supplied its b word (R303). -/
structure GlzElem where
  a : Word := 0
  b : Word := 0
  lane : Nat := 0
deriving DecidableEq, Repr, Inhabited

/-- The tile of the rank's current round, open or closed (R302). -/
structure GlzTile where
  cfg : GlzCfg := {}
  elems : List GlzElem := []
  /-- How many elements, from the first, have had their results stored. -/
  moved : Nat := 0
  closed : Bool := false
deriving DecidableEq, Repr, Inhabited

/-- The glaze state of a group that holds, or has left, a rank (R316, R320). -/
structure GlzRank where
  rank : Nat := 0
  joined : Bool := false
  left : Bool := false
  round : Nat := 0
  cfg : Option GlzCfg := none
  pend : Option GlzCfg := none
  /-- The current round's tile, if it has opened. -/
  tile : Option GlzTile := none
  /-- The carry-in of the current round, and whether its carry-out has been sent (R308, R309). -/
  cin : Option Word := none
  sent : Bool := false
  /-- A GLZLEAVE, or the end of the group, waits for the round to complete (R311, R312). -/
  leaving : Bool := false
  /-- The latest carry-in received (R313). -/
  carry : Option Word := none
  /-- Results and aggregates that have not yet entered q2 (false) or q3 (true), oldest first (R304). -/
  store : List (Bool × Nat × Word) := []
  /-- The lane that each aggregate not yet in q3 goes to, and the lanes with elements of its tile, oldest first (R305). -/
  owed : List (Nat × List Nat) := []
deriving DecidableEq, Repr, Inhabited

/-- What makes a group a traveller (R402, R413, R421). -/
structure Trav where
  id : Nat := 0
  hop : Nat := 0
  /-- Strand slot within the partition, 0 to 31. -/
  slot : Nat := 0
  /-- The target of a departure whose effects are under way (R412). -/
  leaving : Option DWord := none
deriving DecidableEq, Repr, Inhabited

/-- A group, or a traveller as a group of width 4. -/
structure Group where
  core : Nat := 0
  part : Nat := 0
  slot : Nat := 0
  launch : Nat := 0
  team : Nat := 0
  index : Nat := 0
  width : Nat := 32
  /-- H, the registers held (R22). -/
  held : Nat := 16
  /-- Register r of lane l under key 64 r + l; unlisted is 0. -/
  v : Table Word := []
  s : Table DWord := []
  /-- Predicate k as a mask of lanes. -/
  p : Table DWord := []
  srg : Table Word := []
  /-- Registers that hold an uncorrected error: v r of lane l as 64 r + l, s i as 2^14 + i, predicate k of lane l as
  2^15 + 64 k + l (R462). -/
  bad : List Nat := []
  strands : List Strand := []
  /-- q0 and q1 in the order the unit takes them, with their lanes (R301). -/
  q0 : List (Nat × Word) := []
  q1 : List (Nat × Word) := []
  /-- q2, q3, q5 and q7: the FIFO of queue q and lane l under key 64 q + l. A lane's q7 is followed by the words that wait for it in
  the partner's q6 (R205, R208, log 15). -/
  fifo : Table (List Word) := []
  /-- q4 and the arguments in flight, by lane. -/
  sfu : Table (List SfuArg) := []
  sfufn : BitVec 4 := 0
  tokens : Table Token := []
  scl : Table Word := []
  wsig1 : Line := 0
  wsig2 : Line := 0
  wsig3 : Line := 0
  glz : GlzRank := {}
  resp : List Resp := []
  trav : Option Trav := none
  /-- A restored group whose units have not been granted yet (R203). -/
  restoring : Bool := false
  /-- The cycle of its core in which the group last issued, YIELD left out, or since which it has been there (R217, log 86). -/
  lastIssue : Nat := 0
  /-- The address of the EXIT that ended the last strand (R312). -/
  endPc : DWord := 0
  /-- A forced save is under way: the group issues no more (R216, R425). -/
  saving : Bool := false
deriving DecidableEq, Repr, Inhabited

/-! ## Teams and placement (R182, R193, R225, R255, R380) -/

/-- PLACEINFO's fields (R380). -/
structure Place where
  home : Nat := 0
  stack : Nat := 0
  fall : Bool := false
  owned : Nat := 0
  saves : Nat := 0
deriving DecidableEq, Repr, Inhabited

/-- A resident team. -/
structure Team where
  launch : Nat := 0
  index : Nat := 0
  core : Nat := 0
  /-- The team spans the pair whose lower core is `core` (R292). -/
  pair : Bool := false
  slot : Nat := 0
  /-- Team slot on the upper core of a pair. -/
  slotUp : Nat := 0
  base : Nat := 0
  size : Nat := 0
  accFirst : Nat := 0
  /-- First row on the upper core of a pair. -/
  accFirstUp : Nat := 0
  accRows : Nat := 0
  place : Place := {}
deriving DecidableEq, Repr, Inhabited

/-- A saved team: its groups, its scratchpad bytes and accumulator words by relative address
(R215, R371). -/
structure SavedTeam where
  team : Team := {}
  groups : List (Nat × Group) := []
  bytes : Table Byte := []
  /-- Poisoned 128-byte blocks, from the allocation's base (R461). -/
  poison : List Nat := []
  /-- Key tags of its 128-byte blocks, from the allocation's base (R458). -/
  keys : Table Nat := []
  acc : Table Word := []
  accUp : Table Word := []
deriving DecidableEq, Repr, Inhabited

/-- A team in a stack dispatcher's queue: not yet admitted, or saved (R342). -/
structure Offer where
  launch : Nat := 0
  team : Nat := 0
  place : Place := {}
  saved : Bool := false
deriving DecidableEq, Repr, Inhabited

/-! ## Travel mode (R407-R427) -/

/-- A travel packet, or the saved whole context of a traveller sent as an arrival (R413, R425). -/
structure Packet where
  launch : Nat := 0
  id : Nat := 0
  target : Nat := 0
  segment : Nat := 0
  live : DWord := 0
  mode : BitVec 24 := 0
  prec : Byte := 0
  pred : Word := 0
  lk : Word := 0
  fn : BitVec 4 := 0
  hop : Nat := 0
  scalars : List DWord := []
  loops : List (Nat × Word × Word × Word) := []
  regs : List (Nat × List Word) := []
  /-- The whole context in place of the packet's fields (R425). -/
  whole : Option Group := none
  /-- The holder core it is under way to, and the core that sent it, none for the dispatcher (R414). -/
  core : Nat := 0
  sender : Option Nat := none
  /-- The traveller's group key while it has one. -/
  key : Nat := 0
deriving DecidableEq, Repr, Inhabited

/-- The segment that a holder's instruction store holds, as memory stood when it was pinned (R97, R407, log 11): the failure of its
page's check for fetches, the lines that did not answer, and its lines by number; an unlisted line is zero. -/
structure Pinned where
  fault : Option (Byte × Byte) := none
  lost : Table (Byte × Byte) := []
  lines : Table Line := []
deriving DecidableEq, Repr, Inhabited

/-- A holder core's residency (R407, R415). -/
structure Holder where
  launch : Nat := 0
  segment : Nat := 0
  code : Pinned := {}
  slot : Nat := 0
  /-- The group slots that its carrier groups take, for each partition (R407, R408). -/
  carriers : List (List Nat) := []
  base : Nat := 0
  size : Nat := 0
  accFirst : Nat := 0
  accRows : Nat := 0
  /-- Arrivals in admission order; true marks one held in its spill slot (R415, R416). -/
  arrivals : List (Bool × Packet) := []
  admitting : Bool := true
  loaded : Bool := false
  spilled : BitVec 32 := 0
  forwarded : DWord := 0
  /-- Consecutive reports above 48, and arrivals in the last 100 reports (R422). -/
  hot : Nat := 0
  recent : List Nat := []
  arrivedNow : Nat := 0
  /-- Cycle at which a traveller of the launch last issued an instruction other than YIELD, and whether the count from there has
  had its swap (R427). -/
  lastBusy : Nat := 0
  swapped : Bool := false
deriving DecidableEq, Repr, Inhabited

/-- A saved resident allocation of a holder (R424). -/
structure SavedHolder where
  core : Nat := 0
  segment : Nat := 0
  bytes : Table Byte := []
  /-- Poisoned 128-byte blocks and key tags of blocks, from the allocation's base (R458, R461). -/
  poison : List Nat := []
  keys : Table Nat := []
  acc : Table Word := []
deriving DecidableEq, Repr, Inhabited

/-! ## Engines of a core (R247-R252, R266-R281) -/

/-- A page-table leaf as a translation holds it (R376, R378). -/
structure Leaf where
  wr : Bool := false
  x : Bool := false
  tensor : Bool := false
  enc : Bool := false
  key : Nat := 0
  /-- Base of the page in physical memory and its size. -/
  base : Nat := 0
  size : Nat := 65536
deriving DecidableEq, Repr, Inhabited

/-- A TLB entry: the page of an ASID from `va` on (R378). -/
structure TlbEntry where
  asid : Nat := 0
  va : Nat := 0
  leaf : Leaf := {}
deriving DecidableEq, Repr, Inhabited

/-- A handle-table entry (R336). -/
structure Handle where
  front : Nat := 0
  under : Nat := 0
  n0 : Nat := 0
  n1 : Nat := 0
  n2 : Nat := 0
  shape0 : Nat := 0
  shape1 : Nat := 0
  ebytes : Nat := 0
  slice0 : Nat := 0
  flags : Nat := 0
  /-- No reserved bit of the entry is set. -/
  clean : Bool := true
deriving DecidableEq, Repr, Inhabited

/-- A side of a copy: a global address, or a place in the local memory of a core belonging to a
launch's team (R228, R247). -/
inductive Side where
  | glob (va : Int)
  | loc (core : Nat) (team : Nat) (base : Nat) (size : Nat) (off : Int)
deriving DecidableEq, Repr

/-- A copy in progress (R249-R253). -/
structure Copy where
  group : Nat := 0
  tok : Nat := 0
  src : Side := .glob 0
  dsts : List Side := []
  /-- Targets found missing at issue (R250). -/
  missing : Nat := 0
  /-- The destination counts lost rows: multicast, or a remote allocation (R250, R290). -/
  lossy : Bool := false
  lost : Nat := 0
  rowbytes : Nat := 0
  rows : Nat := 0
  row : Nat := 0
  sstride : Int := 0
  dstride : Int := 0
  /-- Tiles through a handle: backing base, tile pitch D, origin and counts (R253, R338). -/
  tile : Option (Nat × Nat × Handle × List Nat × List Nat) := none
  /-- A tile copy from scratchpad to the tensor. -/
  toTensor : Bool := false
  launch : Nat := 0
  team : Nat := 0
  /-- The row under way has been written, but for the acknowledgements of what left the package; the writes it lost, and the
  lines it signs for once it is performed (R382, R386). -/
  sent : Bool := false
  gone : Nat := 0
  signs : List Nat := []
  /-- Lines written to global memory, dropped from the issuing core's L1 at completion (R251). -/
  wrote : List Nat := []
deriving DecidableEq, Repr, Inhabited

/-- What a matrix strand operation does (R270). -/
inductive MatKind where
  | mma | zero | load | store | drain | write
deriving DecidableEq, Repr

/-- A matrix strand operation issued and not completed, with what it captured at issue (R265-R283). -/
structure MatOp where
  kind : MatKind := .zero
  id : Nat := 0
  group : Nat := 0
  /-- The strands whose order it takes part in (R271), and the cycle it reached the engine (R269). -/
  strands : List Nat := []
  arrived : Nat := 0
  launch : Nat := 0
  team : Nat := 0
  pc : DWord := 0
  /-- First absolute row and first column, rows and columns of the region. -/
  row : Nat := 0
  col : Nat := 0
  rows : Nat := 16
  cols : Nat := 16
  /-- Format slot words and per-tensor scales of A and B, or of a store. -/
  fa : Half := 0
  fb : Half := 0
  ta : Word := 0x3F800000
  tb : Word := 0x3F800000
  /-- Local byte addresses: core, offset and stride of A (or of the store or load) and of B. -/
  aCore : Nat := 0
  aOff : Nat := 0
  aStride : Nat := 0
  bCore : Nat := 0
  bOff : Nat := 0
  bStride : Nat := 0
  /-- Bases of the allocations the sides lie in (R267). -/
  aBase : Nat := 0
  bBase : Nat := 0
  /-- ACCDR: the tile's physical address when it drains to a tensor, and the merge word (R280, R281). -/
  tilePa : Option Nat := none
  tileSlice : Nat := 0
  tileKey : Option Nat := none
  merge : Option Nat := none
  mergeKey : Option Nat := none
  mergeVa : DWord := 0
  mergeMax : Word := 0
  mode : BitVec 24 := 0
  /-- The release before the merge has been made, and the next unused key at its snapshot (R281, R387). -/
  released : Bool := false
  snap : Nat := 0
  /-- ACCWR: the elements written, by 16 i + j. -/
  words : Table Word := []
  /-- The number of the slot that B is named through; and what its pass read of B, row by row, once it has started (R269). -/
  fbSlot : Nat := 0
  bRows : Option (List (List Byte)) := none
  /-- The drain has been written and its merge is still to come (R281). -/
  drained : Bool := false
deriving DecidableEq, Repr, Inhabited

/-- A palette claim pending in a partition (R198). -/
structure Claim where
  part : Nat := 0
  group : Nat := 0
  jset : Nat := 0
  units : Nat := 0
deriving DecidableEq, Repr, Inhabited

/-- A byte in a write-combining buffer: the loads of one group see it, or those of every group of the core (R237,
R382). -/
structure Buffered where
  pa : Nat := 0
  byte : Byte := 0
  group : Option Nat := none
deriving DecidableEq, Repr, Inhabited

/-- A core (R181, R221, R224, R238, R386, R348). -/
structure Core where
  cycle : DWord := 0
  /-- Issue cycles of each partition (R189). -/
  issues : Table Nat := []
  /-- L1 lines by line number, and their order of filling. -/
  l1 : Table Line := []
  l1order : List Nat := []
  /-- Lines of the L1 that hold poison, and 128-byte blocks of local memory that do (R461). -/
  l1poison : List Nat := []
  /-- The key index an L1 line is tagged with (R458). -/
  l1key : Table Nat := []
  /-- The write-combining buffer: bytes in the order they were stored (R238). -/
  wcb : List Buffered := []
  /-- Lines of the buffer spoiled by an uncorrected error (R460). -/
  wcbPoison : List Nat := []
  /-- Buffered lines that one store instruction covered whole (R461). -/
  wcbWhole : List Nat := []
  /-- The key of a buffered line that was stored through an encrypted page (R458). -/
  wcbKey : Table Nat := []
  psig : Line := 0
  tlb : List TlbEntry := []
  /-- Cached handle entries under asid x 4096 + handle (R337). -/
  handles : Table Handle := []
  encerr : Word := 0
  mcdrop : Word := 0
  /-- Local memory by offset (R224). -/
  mem : Table Byte := []
  memPoison : List Nat := []
  /-- The key index a 128-byte block of local memory is tagged with, where a copy brought it from an encrypted page (R458). -/
  memKey : Table Nat := []
  /-- The accumulator store under key 256 row + column (R255). -/
  acc : Table Word := []
  mats : List MatOp := []
  copies : List Copy := []
  /-- Scratchpad ways of each stack as this core holds them (R330). -/
  ways : Table Nat := []
  throt : Nat := 0
  throtPrev : Nat := 0
  throtCount : BitVec 24 := 0
  claims : List Claim := []
  /-- The group the glaze unit is bound to (R298). -/
  glz : Option Nat := none
  /-- Cycles since a group of the core last issued other than YIELD, and the launches whose N that count has reached and for
  which a team has been chosen (R217). -/
  idle : Nat := 0
  swapped : List Nat := []
  /-- Cycle at which the drain of a launch reached this core (R218). -/
  drains : Table DWord := []
  holder : Option Holder := none
  /-- Occupancies heard from holder cores (R414). -/
  heard : Table Nat := []
  /-- Banks and partitions retired, in force, and those whose retirement waits for what is resident there (R464). -/
  banksOut : List Nat := []
  partsOut : List Nat := []
  banksDue : List Nat := []
  partsDue : List Nat := []
deriving DecidableEq, Repr, Inhabited

/-! ## Stacks (R321-R349) -/

/-- A line held in the SRAM tier: its line number, whether dirty, when last used, the launch that
pinned it, and the key it is tagged with (R324, R332, R458). -/
structure TierLine where
  line : Nat := 0
  dirty : Bool := false
  used : Nat := 0
  pin : Option Nat := none
  key : Option Nat := none
deriving DecidableEq, Repr, Inhabited

/-- A write waiting in a slice's or an edge die's queue (R325, R448). -/
structure SliceReq where
  line : Nat := 0
  cells : List Host.Cell := []
  poison : Bool := false
  /-- One store instruction covered the line: the write clears its poison (R461). -/
  whole : Bool := false
  key : Option Nat := none
deriving DecidableEq, Repr, Inhabited

/-- A change of scratchpad ways in progress (R329): the group that makes it, the way-blocks lo to hi - 1 that a shrink is to
discard, and the count it returns. -/
structure Repart where
  group : Nat := 0
  lo : Nat := 0
  hi : Nat := 0
  count : Nat := 0
deriving DecidableEq, Repr, Inhabited

/-- A stack (R321-R349). -/
structure Stack where
  /-- Scratchpad ways per slice w, and changes of it (R326, R347). -/
  ways : Nat := 0
  epoch : BitVec 24 := 0
  bias : Int := 0
  /-- The state the governor chose, and for each state the last periods in a row, at most 8, in which it was safe with
  3 °C more (R346). -/
  gov : Nat := 0
  calm : Table Nat := []
  /-- The throttle state in force: the higher of the governor's and the power floor (R472). -/
  throt : Nat := 0
  td : Int := 0
  tb : Int := 0
  bound : Nat := 0
  periods : DWord := 0
  /-- Tier lines under key (slice x 8192 + set) x 16 + way. -/
  tier : Table TierLine := []
  clock : Nat := 0
  waysOut : List (Nat × Nat) := []
  /-- The SRCFG in progress, and the group and joined set of each that waits for its turn, in the order they issued (R329). -/
  repart : Option Repart := none
  repartQueue : List (Nat × Nat) := []
  /-- Requests queued at each slice, and the cycles its queue was full. -/
  queue : Table (List SliceReq) := []
  full : Table (BitVec 24) := []
  bypass : DWord := 0
  pinfail : DWord := 0
  srwb : DWord := 0
  /-- The dispatcher's queue in arrival order (R342). -/
  offers : List Offer := []
  wearCyc : DWord := 0
  wearHot : DWord := 0
  wearEm : DWord := 0
  wearEol : DWord := 0
  /-- Governor periods at the last prediction of the end of life (R471, R474). -/
  wearDay : Option Nat := none
  /-- The low point a rise of Td counts from, and whether the rise under way has been counted (R471). -/
  tdLow : Int := 0
  risen : Bool := false
deriving DecidableEq, Repr, Inhabited

/-! ## Launches and queues (R353-R380, R443-R446) -/

/-- The fields of a launch record (R357). -/
structure Rec where
  entry : DWord := 0
  arg : DWord := 0
  teamsX : Nat := 0
  teamsY : Nat := 0
  groups : Nat := 0
  widthCode : Nat := 0
  flags : Byte := 0
  base : Nat := 0
  ceil : Nat := 0
  scratch : Nat := 0
  priority : Nat := 0
  mode : BitVec 24 := 0
  prec : Byte := 0
  accRows : Nat := 0
  res2a : Nat := 0
  progress : Nat := 0
  slots : List Half := []
  fbase : Nat := 0
  fstride : Nat := 0
  fcount : Nat := 0
  res54 : Nat := 0
  asid : Nat := 0
  res5a : Nat := 0
  drainLimit : Nat := 0
  waits : List (Nat × DWord) := []
  semAddr : Nat := 0
  semValue : DWord := 0
  segmap : Nat := 0
  budget : Nat := 0
  resbc : Nat := 0
  pool : Nat := 0
  chainId : Nat := 0
  chainLen : Nat := 0
  rescc : Nat := 0
  seq : DWord := 0
  handler : DWord := 0
  save : Nat := 0
  fault : Nat := 0
  resf0 : Nat := 0
deriving DecidableEq, Repr, Inhabited

/-- A fault record's fields (R373). -/
structure FaultRec where
  kind : Byte := 0
  cause : Byte := 0
  detail : Half := 0
  count : Word := 0
  launch : Nat := 0
  team : Nat := 0
  group : Nat := 0
  strand : Nat := 0
  core : Nat := 0
  tinfo : Word := 0
  tpc : DWord := 0
  taddr : DWord := 0
  seq : DWord := 0
deriving DecidableEq, Repr, Inhabited

/-- A rank of a glaze chain (R298, R309). -/
inductive RankAt where
  | never | core (c : Nat) | saved | left
deriving DecidableEq, Repr

/-- A glaze chain (R297, R308-R310). -/
structure Chain where
  map : Table RankAt := []
  /-- Carries under way to a rank: delivered or held in its carry slot. -/
  slots : Table Word := []
  /-- The chain's round and the ranks that have sent their carry-out in it. -/
  round : Nat := 0
  sent : List Nat := []
  /-- Final carry of the previous round. -/
  final : Option Word := none
  /-- Ranks the completion of the current reverse pass has not reached. -/
  toldNot : List Nat := []
  /-- Rank 0's last configuration after it has left (R310). -/
  first : Option GlzCfg := none
deriving DecidableEq, Repr, Inhabited

/-- A request of SPAWN waiting for the dispatcher to allocate ids (R410, R420). -/
structure SpawnReq where
  launch : Nat := 0
  packets : List Packet := []
deriving DecidableEq, Repr, Inhabited

/-- A started launch (R360, R366, R369). -/
structure Launch where
  queue : Nat := 0
  /-- The queue's priority when the record was consumed (R355, R379). -/
  priority : Nat := 0
  lrec : Rec := {}
  /-- Next linear team index never handed out, and teams returned unplaced by a drain. -/
  next : Nat := 0
  unplaced : List Nat := []
  ended : Nat := 0
  draining : Bool := false
  /-- The launch's LSTATE: 0, 1 draining, 2 drained, 3 resumed, 4 stopping, 6 ended in a drain (R370). -/
  lst : Nat := 0
  /-- Every team has ended and the semaphore is written; its completion record is to come (R366, R446). -/
  finished : Bool := false
  /-- The first stopping cause and the record it leads to (R367, R368). -/
  stop : Option FaultRec := none
  chain : Chain := {}
  /-- Travel: ids alive and holders saved by a drain (R409, R424). -/
  alive : List Nat := []
  spawns : List SpawnReq := []
  savedHolders : List SavedHolder := []
  /-- Travellers in their spill slots after a drain or a forced save (R425). -/
  spilled : List Packet := []
deriving DecidableEq, Repr, Inhabited

/-- A consumed record that has not started: which waits have been seen satisfied (R359). -/
structure Head where
  lrec : Rec := {}
  priority : Nat := 0
  seq : DWord := 0
  seen : List Nat := []
deriving DecidableEq, Repr, Inhabited

/-- An ending waiting for its completion record (R445, R446). -/
structure Ending where
  status : Byte := 0
  launch : Nat := 0
  seq : DWord := 0
  fault : FaultRec := {}
deriving DecidableEq, Repr, Inhabited

/-- A command queue (R353, R443). -/
structure Queue where
  base : DWord := 0
  size : Nat := 0
  priority : Nat := 0
  enable : Bool := false
  kicked : DWord := 0
  cons : DWord := 0
  done : DWord := 0
  /-- Sequence numbers ended but not yet covered by `done`. -/
  doneAhead : List DWord := []
  stopped : Option Byte := none
  head : Option Head := none
  /-- Copies of a mismatching record read so far (R444). -/
  reread : Nat := 0
  cbase : DWord := 0
  csize : Nat := 0
  cint : Bool := false
  chead : DWord := 0
  ctail : DWord := 0
  endings : List Ending := []
deriving DecidableEq, Repr, Inhabited

/-! ## The package -/

/-- An ASID-table entry (R374). -/
structure Asid where
  root : Nat := 0
  handles : Nat := 0
  place : Nat := 0
  p0 : Nat := 0
  np : Nat := 0
  flags : Nat := 0
deriving DecidableEq, Repr, Inhabited

/-- A message to one core that it acknowledges (R387, R340, R330). -/
inductive Msg where
  | signature (core : Nat) (sig : Line)
  | drop (core asid handle : Nat)
  | ways (core stack w : Nat)
deriving DecidableEq, Repr

/-- A published message with the joined set that waits for its acknowledgement. -/
structure Posted where
  group : Nat := 0
  jset : Nat := 0
  msg : Msg := .signature 0 0
deriving DecidableEq, Repr

/-- A request to the host or to another package that has not been answered (R442, R450). -/
structure Remote where
  id : Nat := 0
  group : Nat := 0
  jset : Nat := 0
  lane : Nat := 0
  launch : Nat := 0
  asid : Nat := 0
  op : RemoteOp := .load
  pa : Nat := 0
  va : DWord := 0
  size : Nat := 0
  data : BitVec 128 := 0
  /-- The outbound window, or none for the host; its port, and how often the window's port set had changed (R450). -/
  window : Option Nat := none
  port : Nat := 0
  epoch : Nat := 0
  /-- The package that the window leads to, and the address there (R450). -/
  pkg : Nat := 0
  target : Nat := 0
  /-- Whose request it is, as a fault record names it (R373). -/
  team : Nat := 0
  index : Nat := 0
  strand : Nat := 0
  core : Nat := 0
deriving DecidableEq, Repr

/-- The registers that receive the value of a flight: an s register, or words of v registers of its lane from one on, of the
registers that the group held at issue (R202). -/
inductive FlyDst where
  | s (i : Nat) | v (i words held : Nat)
deriving DecidableEq, Repr, Inhabited

/-- An access that is not performed yet while its strands go on: what it does, the registers that receive its value, its operands,
how its type and MODE have it computed, and its instruction (R236, log 92). The lanes of one vector atomic share a number, which is
0 for any other access. -/
structure Flight where
  op : RemoteOp := .load
  dst : FlyDst := .s 0
  y : DWord := 0
  z : DWord := 0
  signed : Bool := false
  round : Nat := 0
  draw : Nat := 0
  ftz : Bool := false
  unit : Nat := 0
  strand : Nat := 0
  pc : DWord := 0
  va : DWord := 0
deriving DecidableEq, Repr

/-- An outstanding access of a lane, which LOAD_RESPONSE performs (R382): a load the set waits for, or a flight. -/
structure Load where
  group : Nat := 0
  jset : Nat := 0
  lane : Nat := 0
  pa : Nat := 0
  size : Nat := 0
  fresh : Bool := false
  key : Option Nat := none
  fly : Option Flight := none
deriving DecidableEq, Repr, Inhabited

/-- A knot break under way to its core (R469, R470). -/
structure Break where
  seq : Nat := 0
  group : Nat := 0
  jset : Nat := 0
  members : List Nat := []
deriving DecidableEq, Repr, Inhabited

/-- An outbound fabric window (R449, R451). -/
structure OutWindow where
  base : DWord := 0
  cfg : DWord := 0
  ports : DWord := 0
  refused : Word := 0
  epoch : Nat := 0
deriving DecidableEq, Repr, Inhabited

/-- An inbound aperture (R449, R451). -/
structure InWindow where
  base : DWord := 0
  cfg : DWord := 0
deriving DecidableEq, Repr, Inhabited

/-- The control-space registers that have no home elsewhere (R353, R449, R474), and what the
management core keeps (R456, R464, R471). -/
structure Ctl where
  asidbase : DWord := 0
  invaddr : DWord := 0
  invpages : DWord := 0
  /-- The invalidation under way: ASID, all, tlb, hnd (R378). -/
  inv : Option (Nat × Bool × Bool × Bool) := none
  invdone : Word := 0
  lstateId : Word := 0
  lstate : Nat := 0
  devid : DWord := 0x0B08
  boot : Nat := 0
  bootImage : Nat := 0
  bootWhy : Nat := 0
  fabid : DWord := 0
  portup : DWord := 0
  hosterr : DWord := 0
  outw : Table OutWindow := []
  inw : Table InWindow := []
  /-- The key slot whose unloading waits for accesses under it: the mailbox is busy while one does (R456, R459). -/
  mbslot : Option Nat := none
  mbresult : Byte := 0
  mbdata : Table Byte := []
  keys : Table (BitVec 512) := []
  /-- The fused security version, a thermometer: its value is the number of fuses blown, from bit 0 up (R454). -/
  fusedSvn : DWord := 0
  /-- The images accepted at bring-up, in order (R454, R456). -/
  images : List FwImage := []
  hevbase : DWord := 0
  hevsize : Nat := 0
  hevint : Bool := false
  heven : Bool := false
  hevhead : DWord := 0
  hevtail : DWord := 0
  hevlost : DWord := 0
  knots : Word := 0
  abandoned : Word := 0
  /-- Retired frames; ways, banks and partitions are kept with their stack or core. -/
  framesOut : List Nat := []
  watts : Nat := 0
  floor : Nat := 0
  /-- Consecutive periods below 1,500 W. -/
  cool : Nat := 0
  /-- Corrected errors of the last 24 hours, each with the governor period of its stack in which it came (R464). -/
  errors : List (EccPlace × Nat) := []
  /-- Places whose error has not been tested yet (R463). -/
  tests : List EccPlace := []
  /-- A function-level reset waits for its launches to stop (R473). -/
  resetting : Bool := false
  lastId : Nat := 0
  /-- Round robin among queues: the last queue that started, by priority; among launches, the last served. -/
  rrQueue : Table Nat := []
  rrLaunch : Table Nat := []
  /-- The launch and team for which no stack had room when its hand-out paused (R365). -/
  paused : Option (Nat × Nat) := none
  breaks : List Break := []
  waitSeq : Nat := 0
  /-- MSI-X vectors raised, oldest first (R440). -/
  msix : List Nat := []
  /-- The last 64 bytes a host read returned and whether they were poisoned (R441, R461). -/
  hdmData : BitVec 512 := 0
  hdmPoison : Bool := false
  /-- The answer to the last inbound fabric request: accepted, and its data; and whether its line was poisoned (R452,
R461). -/
  inbound : Option (Bool × BitVec 128) := none
  inboundPoison : Bool := false
deriving DecidableEq, Repr

/-- A change of what lies outside the package, as the device's own accesses find it (log 21): bytes of memory behind its
windows, and lines at which such accesses fail from now on, with whether the other package refuses them or gives no answer. -/
structure Outer where
  cells : List Host.Cell := []
  down : Table Bool := []
deriving DecidableEq, Repr, Inhabited

/-- The joined set that issues (R190): its group and number. -/
structure Cur where
  group : Nat := 0
  jset : Nat := 0
deriving DecidableEq, Repr, Inhabited

/-- The state of the machine. -/
structure State where
  /-- Physical memory: stack DRAM, aperture and edge memory; an unlisted byte reads as 0. -/
  mem : List Host.Cell := []
  /-- Bytes written by the step under way, newest last; empty between steps. -/
  bus : List Host.Cell := []
  /-- 128-byte lines of memory that hold poison (R461). -/
  poison : List Nat := []
  /-- Lines that DRAM or edge memory holds encrypted, with the key index: `mem` lists their plaintext (R458). -/
  sealed : Table Nat := []
  /-- Writes queued at the edge dies (R448). -/
  edge : Table (List SliceReq) := []
  cores : Table Core := []
  stackTab : Table Stack := []
  groups : Table Group := []
  /-- Resident teams under key launch x 2^32 + linear team index; saved teams. -/
  teams : Table Team := []
  saved : List SavedTeam := []
  launches : Table Launch := []
  queues : Table Queue := []
  asids : Table Asid := []
  ctl : Ctl := {}
  msgs : List Posted := []
  remotes : List Remote := []
  loads : List Load := []
  packets : List Packet := []
  /-- The next unused key of a group, a request, a joined set. -/
  nextKey : Nat := 1
  /-- How many free values have been taken (log 3). -/
  free : Nat := 0
  cur : Cur := {}
  /-- What happens next: events in the order they happen (log 1). -/
  agenda : List Instr := []
  /-- Which partition (core x 4 + partition) issues next, when no event stands first (log 1). -/
  turns : List Nat := []
  /-- Cycles that pass before the next issue, beyond the one of the issue itself (log 1). -/
  stalls : List Nat := []
  /-- Whether the next load or publication is left to an event of its own (log 1). -/
  lags : List Bool := []
  /-- Lines behind the windows at which the device's own accesses fail, with whether they are refused (R442, R450, R452). -/
  down : Table Bool := []
  /-- How the outside changes, before each step in turn (log 21). -/
  outer : List Outer := []
deriving DecidableEq, Repr

/-- Why the machine stops with a fault. -/
inductive Fault where
  /-- Raised by the step alone, for an agenda entry that is an instruction word and not an event, or an event
  whose numbers lie outside their ranges. Safe: the model stops where the hardware has no such step. -/
  | agendaNotEvent
deriving DecidableEq, Repr

/-- Why an instruction is refused. -/
inductive Refusal where
  /-- The instruction has no meaning in the model yet. Safe. -/
  | notModelled (mnemonic : String)
deriving DecidableEq, Repr

/-- The part after device reset: nothing runs, every queue is disabled, BOOTSTAT is 0 until bring-up ends
(R353, R449, R473). -/
def State.reset : State := {}

end Sys2Proof.Machine
end

