-- ==== Sys2Proof/Machine/Ops.lean ====
section
/-!
DEFINITION. The named operations over the state that every meaning is built from: access to cores, groups
and strands, physical memory and its home slices, L1 and write buffer, translation and access checks,
release and acquire, control flow and reconvergence, waits, and taking and returning from a trap.
-/
namespace Sys2Proof.Machine

/-! ## Access to the parts of the state -/

def State.grp (s : State) (k : Nat) : Group := tget {} s.groups k
def State.setGrp (s : State) (k : Nat) (g : Group) : State := { s with groups := tset s.groups k g }
def State.core (s : State) (c : Nat) : Core := tget {} s.cores c
def State.setCore (s : State) (c : Nat) (x : Core) : State := { s with cores := tset s.cores c x }
def State.stack (s : State) (k : Nat) : Stack := tget {} s.stackTab k
def State.setStack (s : State) (k : Nat) (x : Stack) : State := { s with stackTab := tset s.stackTab k x }
def State.launch (s : State) (i : Nat) : Launch := tget {} s.launches i
def State.setLaunch (s : State) (i : Nat) (x : Launch) : State := { s with launches := tset s.launches i x }
def State.queue (s : State) (q : Nat) : Queue := tget {} s.queues q
def State.setQueue (s : State) (q : Nat) (x : Queue) : State := { s with queues := tset s.queues q x }
def teamKey (launch team : Nat) : Nat := launch * 2 ^ 32 + team
def State.team (s : State) (launch team : Nat) : Team := tget {} s.teams (teamKey launch team)
def State.setTeam (s : State) (t : Team) : State := { s with teams := tset s.teams (teamKey t.launch t.index) t }

def State.onCore (s : State) (c : Nat) (f : Core → Core) : State := s.setCore c (f (s.core c))
def State.onGrp (s : State) (k : Nat) (f : Group → Group) : State := s.setGrp k (f (s.grp k))
def State.onStack (s : State) (k : Nat) (f : Stack → Stack) : State := s.setStack k (f (s.stack k))
def State.onLaunch (s : State) (i : Nat) (f : Launch → Launch) : State := s.setLaunch i (f (s.launch i))
def State.onQueue (s : State) (q : Nat) (f : Queue → Queue) : State := s.setQueue q (f (s.queue q))
def State.mapCores (s : State) (f : Core → Core) : State := { s with cores := s.cores.map fun c => (c.1, f c.2) }
def State.mapStacks (s : State) (f : Stack → Stack) : State := { s with stackTab := s.stackTab.map fun k => (k.1, f k.2) }
def State.onCtl (s : State) (f : Ctl → Ctl) : State := { s with ctl := f s.ctl }

/-- Stack, cluster and core of a core identifier (R2). -/
def stackOf (core : Nat) : Nat := core / 16
def clusterBase (core : Nat) : Nat := core / 4 * 4

/-! ## Groups, strands and lanes (R13, R16, R22) -/

def Group.strand (g : Group) (k : Nat) : Strand := g.strands.getD k { ended := true }
def Group.setStrand (g : Group) (k : Nat) (x : Strand) : Group := { g with strands := lset g.strands k x }
def Group.onStrand (g : Group) (k : Nat) (f : Strand → Strand) : Group := g.setStrand k (f (g.strand k))

/-- Register r of lane l (R40: unlisted registers read as zero). -/
def Group.vr (g : Group) (r l : Nat) : Word := tget 0 g.v (64 * r + l)
def Group.putV (g : Group) (r l : Nat) (x : Word) : Group :=
  { g with v := tput 0 g.v (64 * r + l) x, bad := g.bad.filter (· != 64 * r + l) }
def Group.sr (g : Group) (i : Nat) : DWord := tget 0 g.s i
def Group.putS (g : Group) (i : Nat) (x : DWord) : Group :=
  { g with s := tput 0 g.s i x, bad := g.bad.filter (· != 2 ^ 14 + i) }
def Group.pr (g : Group) (k l : Nat) : Bool := (tget 0 g.p k).getLsbD l
/-- Sets predicate k of one lane. -/
def Group.putP (g : Group) (k l : Nat) (b : Bool) : Group :=
  let m := tget 0 g.p k
  { g with p := tput 0 g.p k (if b then m ||| ((1 : DWord) <<< l) else m &&& ~~~((1 : DWord) <<< l)),
           bad := g.bad.filter (· != 2 ^ 15 + 64 * k + l) }
def Group.scale (g : Group) (k : Nat) : Word := tget 0x3F800000 g.scl k
def Group.token (g : Group) (k : Nat) : Token := tget {} g.tokens k
def Group.setToken (g : Group) (k : Nat) (t : Token) : Group := { g with tokens := tset g.tokens k t }
def Group.queued (g : Group) (q l : Nat) : List Word := tget [] g.fifo (64 * q + l)
def Group.setQueued (g : Group) (q l : Nat) (x : List Word) : Group :=
  { g with fifo := tput [] g.fifo (64 * q + l) x }
def Group.args (g : Group) (l : Nat) : List SfuArg := tget [] g.sfu l

def Strand.loop (x : Strand) (k : Nat) : LoopLevel := tget {} x.loops k
def Strand.setLoop (x : Strand) (k : Nat) (v : LoopLevel) : Strand := { x with loops := tput {} x.loops k v }

/-- The lanes of a strand that have not ended: running, on its stack, or parked at a REGANG (R28, R111, R115). -/
def Strand.present (x : Strand) : BitVec 4 := x.stack.foldl (fun m e => m ||| e.mask) (x.amask ||| x.parked)

/-- The lanes of a group: 0 to W - 1, W being at most 64 (R13). -/
def Group.laneNos (g : Group) : List Nat := List.range (min g.width 64)

/-- The strands of a joined set that have not ended, in increasing number (R15). -/
def Group.members (g : Group) (j : Nat) : List Nat :=
  (List.range g.strands.length).filter fun k => (g.strand k).jset == j && !(g.strand k).ended

/-- The joined sets of a group, by their lowest strand. -/
def Group.sets (g : Group) : List Nat :=
  (List.range g.strands.length).foldl
    (fun a k => if (g.strand k).ended || a.contains (g.strand k).jset then a else a ++ [(g.strand k).jset]) []

def Group.live (g : Group) : Bool := g.strands.any (!·.ended)

/-! ## The issuing joined set -/

/-- Key and group of the issuing set. -/
def State.gk (s : State) : Nat := s.cur.group
def State.g (s : State) : Group := s.grp s.cur.group
/-- Its strands, and the lowest of them, whose registers stand for the set (R29). -/
def State.ks (s : State) : List Nat := s.g.members s.cur.jset
def State.leadK (s : State) : Nat := s.ks.headD 0
def State.lead (s : State) : Strand := s.g.strand s.leadK
def State.pc (s : State) : DWord := s.lead.pc
def State.mode (s : State) : BitVec 24 := s.lead.mode
def State.prec (s : State) : Nat := s.lead.prec.toNat
def State.lau (s : State) : Launch := s.launch s.g.launch
def State.tm (s : State) : Team := s.team s.g.launch s.g.team
def State.onG (s : State) (f : Group → Group) : State := s.onGrp s.cur.group f

/-- Changes every strand of a joined set. -/
def Group.onSet (g : Group) (j : Nat) (f : Strand → Strand) : Group :=
  { g with strands := g.strands.map fun x => if x.jset == j && !x.ended then f x else x }
def State.onSet (s : State) (f : Strand → Strand) : State := s.onG fun g => g.onSet s.cur.jset f

/-! Fields of MODE (R30). -/
def mGuard (m : BitVec 24) : Bool := m.getLsbD 3
def mGuardP (m : BitVec 24) : Nat := (fld m 0 3).toNat
def mNeg (m : BitVec 24) : Bool := m.getLsbD 4
def mType (m : BitVec 24) : Nat := (fld m 5 4).toNat
def mRound (m : BitVec 24) : Nat := (fld m 9 3).toNat
def mSat (m : BitVec 24) : Bool := m.getLsbD 12
def mExact (m : BitVec 24) : Bool := m.getLsbD 13
def mScope (m : BitVec 24) : Nat := (fld m 14 3).toNat
def mOrder (m : BitVec 24) : Nat := (fld m 17 2).toNat
def mFtz (m : BitVec 24) : Bool := m.getLsbD 19
def mAcquire (m : BitVec 24) : Bool := m.getLsbD 17
def mRelease (m : BitVec 24) : Bool := m.getLsbD 18

/-- The reserved values of R31. -/
def modeReserved (m : BitVec 24) : Bool :=
  fld m 20 4 != 0 || decide (12 ≤ mType m) || decide (6 ≤ mRound m) || decide (5 ≤ mScope m)

/-- A lane of the issuing set whose strand's active mask has its bit (R162). -/
def State.running (s : State) (l : Nat) : Bool :=
  s.ks.contains (l / 4) && (s.g.strand (l / 4)).amask.getLsbD (l % 4)

/-- active(l) of R16. -/
def State.active (s : State) (l : Nat) : Bool :=
  let m := (s.g.strand (l / 4)).mode
  s.running l && (!mGuard m || xor (s.g.pr (mGuardP m) l) (mNeg m))

def State.lanes (s : State) : List Nat := s.g.laneNos.filter s.active
def State.setLanes (s : State) : List Nat :=
  s.g.laneNos.filter fun l => s.ks.contains (l / 4) && (s.g.strand (l / 4)).present.getLsbD (l % 4)

/-- The launch has the travel, glaze, or SRAM and governor flag (R357). -/
def Launch.travel (x : Launch) : Bool := x.lrec.flags.getLsbD 0
def Launch.pairs (x : Launch) : Bool := x.lrec.flags.getLsbD 1
def Launch.glaze (x : Launch) : Bool := x.lrec.flags.getLsbD 2
def Launch.capable (x : Launch) : Bool := x.lrec.flags.getLsbD 3
def Rec.width (r : Rec) : Nat := if r.flags.getLsbD 0 then 4 else 16 * 2 ^ r.widthCode

/-! ## Stochastic draws (R50, R51) -/

/-- One step of a lane's generator (R50). -/
def srgStep (x : Word) : Word :=
  let x := x ^^^ (x <<< 13)
  let x := x ^^^ (x >>> 17)
  x ^^^ (x <<< 5)

/-- n draws of a generator, in order. -/
def srgDraws (x : Word) : Nat → List Word
  | 0 => []
  | n + 1 => srgStep x :: srgDraws (srgStep x) n

def Group.gen (g : Group) (l : Nat) : Word := tget 0 g.srg l

/-- The generator's start: seq xor (x * 0x9E3779B1) xor (y * 0x85EBCA77), with 0 replaced by 1 (R50, R417). -/
def srgSeed (seq : Word) (x y : Nat) : Word :=
  let v := seq ^^^ (BitVec.ofNat 32 (x * 0x9E3779B1)) ^^^ (BitVec.ofNat 32 (y * 0x85EBCA77))
  if v = 0 then 1 else v

/-- Advances a lane's generator by n draws. -/
def Group.drawn (g : Group) (l n : Nat) : Group :=
  match (srgDraws (g.gen l) n).getLast? with
  | none => g
  | some x => { g with srg := tset g.srg l x }

/-! ## Physical memory (R8, R321, R327, R438) -/

/-- What a physical address names (R438). -/
inductive Node where
  | stack (n : Nat) | edge (e : Nat) | host | fabric (w : Nat) | none
deriving DecidableEq, Repr

def nodeOf (pa : Nat) : Node :=
  if 2 ^ 52 ≤ pa then .none
  else if 2 ^ 51 ≤ pa then .fabric (pa / 2 ^ 46 % 32)
  else if pa / 2 ^ 48 = 1 then .host
  else if pa < 2 ^ 43 ∧ 8 ≤ pa / 2 ^ 36 % 16 ∧ pa / 2 ^ 36 % 16 ≤ 9 then .edge (pa / 2 ^ 36 % 16 - 8)
  else if pa < 2 ^ 40 ∧ pa / 2 ^ 36 < 8 then .stack (pa / 2 ^ 36)
  else .none

/-- The way-block of an aperture address, from the top of its stack's range (R321, R327). -/
def wayBlock (pa : Nat) : Option Nat :=
  if 2 ^ 36 - 0xC000000 ≤ pa % 2 ^ 36 then some ((2 ^ 36 - 1 - pa % 2 ^ 36) / 2 ^ 24) else none

/-- The home slice of an ordinary DRAM or aperture address (R323, R327). -/
def sliceOf (pa : Nat) : Nat :=
  match wayBlock pa with
  | some _ => pa % 2 ^ 24 / 128 % 16
  | none =>
    let n (lo : Nat) := pa / 2 ^ lo % 16
    n 7 ^^^ n 11 ^^^ n 15 ^^^ n 19 ^^^ n 23 ^^^ n 27 ^^^ n 31

/-- The set of a DRAM line in its slice (R323). -/
def setOf (pa : Nat) : Nat := pa / 2 ^ 11 % 8192

/-- The latest value listed for a key in a list of writes, newest last. -/
def lastOf (k : Nat) : List Host.Cell → Option Byte
  | [] => none
  | (a, b) :: t => match lastOf k t with
    | some x => some x
    | none => if a = k then some b else none

/-- A byte of memory as the step under way leaves it; an unlisted byte reads as 0 (log 2). -/
def State.peek (s : State) (pa : Nat) : Byte := (lastOf pa s.bus).getD (tget 0 s.mem pa)

/-- Writes a byte of memory. -/
def State.poke (s : State) (pa : Nat) (b : Byte) : State := { s with bus := s.bus ++ [(pa, b)] }

/-- Applies the writes of a step to memory in canonical form. -/
def applyBus (mem : List Host.Cell) (bus : List Host.Cell) : List Host.Cell :=
  bus.foldl (fun m c => tput 0 m c.1 c.2) mem

/-- Ends a step: memory changes by the step's own writes and in no other way. -/
def commit (s0 s1 : State) : State := { s1 with mem := applyBus s0.mem s1.bus, bus := [] }

/-- The requests queued where an address is performed: its home slice, or its edge die (R325, R448). -/
def State.queuedAt (s : State) (pa : Nat) : List SliceReq :=
  match nodeOf pa with
  | .stack n => tget [] (s.stack n).queue (sliceOf pa)
  | .edge e => tget [] s.edge e
  | _ => []

/-- A byte as the performing point gives it: writes queued before are performed first (R325, R383). -/
def State.home (s : State) (pa : Nat) : Byte :=
  let q := (s.queuedAt pa).filter (·.line == pa / 128)
  match lastOf pa (q.flatMap (·.cells)) with
  | some b => b
  | none => s.peek pa

/-- n bytes from an address up, little-endian (R8). -/
def bytesLE (f : Nat → Byte) (a : Nat) : Nat → Nat
  | 0 => 0
  | n + 1 => (f a).toNat + 256 * bytesLE f (a + 1) n

/-- Byte i of a 128-byte line. -/
def lineByte (x : Line) (i : Nat) : Byte := fld x (8 * i) 8

/-- A line packed from a byte function. -/
def packLine (f : Nat → Byte) (line : Nat) : Line := BitVec.ofNat 1024 (bytesLE f (line * 128) 128)

/-- The AES-XTS key pair of a slot (R458). -/
def State.keyPair (s : State) (k : Nat) : BitVec 512 := (tfind s.ctl.keys k).getD 0

/-- A line as DRAM or edge memory holds it (R458). -/
def State.lineRaw (s : State) (line : Nat) : Line :=
  let x := packLine s.home line
  match tfind s.sealed line with
  | some k => xtsEncrypt (s.keyPair k) line x
  | none => x

/-- A line as an access under a key, or under none, reads it (R458). -/
def State.lineUnder (s : State) (line : Nat) (key : Option Nat) : Line :=
  if tfind s.sealed line = key then packLine s.home line
  else match key with
    | some k => xtsDecrypt (s.keyPair k) line (s.lineRaw line)
    | none => s.lineRaw line

/-- A byte read at home under a key. -/
def State.homeK (s : State) (key : Option Nat) (pa : Nat) : Byte :=
  if tfind s.sealed (pa / 128) = key then s.home pa else lineByte (s.lineUnder (pa / 128) key) (pa % 128)

/-- n bytes at home, unencrypted, as the device itself reads them. Its own reads of stack DRAM (instruction fetches, walks,
entries of handles and ASIDs, the dispatchers' reads) neither use nor allocate lines of the tier: R324 names stores, atomics
and copies, and lists no such read (DESIGN CHOICE, unsafe, log 105). -/
def State.homeN (s : State) (pa n : Nat) : Nat := bytesLE (s.homeK none) pa n

/-- The cells of an n-byte little-endian value. -/
def cellsLE (a : Nat) (x : Nat) : Nat → List Host.Cell
  | 0 => []
  | n + 1 => (a, BitVec.ofNat 8 x) :: cellsLE (a + 1) (x / 256) n

def State.pokes (s : State) (cs : List Host.Cell) : State := { s with bus := s.bus ++ cs }

/-- The poison of a line where it is performed (R461). -/
def State.poisoned (s : State) (line : Nat) : Bool :=
  (s.queuedAt (line * 128)).foldl (fun p r => if r.line != line then p else if r.poison then true else p && !r.whole)
    (s.poison.contains line)

/-! ## The SRAM tier (R323, R324, R333) -/

def tierKey (slice set way : Nat) : Nat := (slice * 8192 + set) * 16 + way

/-- Ways of each slice that are scratchpad still, those that a shrink under way has yet to discard among them (R329). -/
def Stack.padWays (k : Stack) : Nat := match k.repart with | some r => max k.ways r.hi | none => k.ways

/-- The ways of a slice that serve as cache: not scratchpad, not retired (R326, R329, R464). -/
def Stack.cacheWays (k : Stack) (slice : Nat) : List Nat :=
  (List.range (16 - k.padWays)).filter fun w => !k.waysOut.contains (slice, w)

def Stack.findWay (k : Stack) (slice set line : Nat) : Option Nat :=
  (k.cacheWays slice).find? fun w => match tfind k.tier (tierKey slice set w) with
    | some t => t.line == line | none => false

/-- The way a miss allocates: the lowest invalid one, else the least recently used that is not pinned;
none when every cache way holds a pinned line (R324, R333). -/
def Stack.victim (k : Stack) (slice set : Nat) : Option Nat :=
  let ws := k.cacheWays slice
  match ws.find? fun w => (tfind k.tier (tierKey slice set w)).isNone with
  | some w => some w
  | none =>
    (ws.filter fun w => match tfind k.tier (tierKey slice set w) with
      | some t => t.pin.isNone | none => true).foldl
      (fun best w => match best with
        | none => some w
        | some b =>
          let u (x : Nat) := ((tfind k.tier (tierKey slice set x)).map (·.used)).getD 0
          if u w < u b then some w else some b) none

/-- An access to a DRAM line at its slice: a hit or an allocation, either tagging the line with the key of the access, or a
bypass, which counts where the access is a demand access (R324, R333, R458). -/
def Stack.touch (k : Stack) (slice set line : Nat) (write demand : Bool) (key : Option Nat) : Stack :=
  let k := { k with clock := k.clock + 1 }
  match k.findWay slice set line with
  | some w =>
    match tfind k.tier (tierKey slice set w) with
    | some t =>
      let t := { t with dirty := t.dirty || write, used := k.clock, key }
      { k with tier := tset k.tier (tierKey slice set w) t }
    | none => k
  | none =>
    match k.victim slice set with
    | some w =>
      let t : TierLine := { line, dirty := write, used := k.clock, pin := none, key }
      { k with tier := tset k.tier (tierKey slice set w) t }
    | none => if demand then { k with bypass := k.bypass + 1 } else k

/-- An access to a line: at its slice when it is stack DRAM, else at its edge die or aperture way, which no tier line
follows (R322, R327). -/
def State.touchAs (s : State) (demand : Bool) (slice : Option Nat) (line : Nat) (write : Bool) (key : Option Nat) : State :=
  let pa := line * 128
  match nodeOf pa with
  | .stack n => if (wayBlock pa).isSome then s
      else s.onStack n fun k => k.touch (slice.getD (sliceOf pa)) (setOf pa) line write demand key
  | _ => s

/-- A demand access to a line (R333). -/
def State.touch (s : State) (slice : Option Nat) (line : Nat) (write : Bool) (key : Option Nat) : State :=
  s.touchAs true slice line write key

/-- Brings a line under the key of the page it is accessed through (R458): from then on memory lists what that access
reads. -/
def State.useKey (s : State) (line : Nat) (key : Option Nat) : State :=
  if tfind s.sealed line = key then s
  else
    let x := s.lineUnder line key
    let s := s.pokes (cellsLE (line * 128) x.toNat 128)
    { s with sealed := match key with | some k => tset s.sealed line k | none => tdel s.sealed line }

/-- Performs one queued write: its bytes, its poison, and the tier (R325, R461). A write that covers a poisoned line
clears the poison. -/
def State.perform (s : State) (r : SliceReq) : State :=
  let s := (s.useKey r.line r.key).pokes (r.cells.filter fun c => c.1 / 128 == r.line)
  let s := if r.poison then { s with poison := s.poison.filter (· != r.line) ++ [r.line] }
    else if r.whole then { s with poison := s.poison.filter (· != r.line) } else s
  s.touch none r.line true r.key

/-- Replaces the requests queued where an address is performed. -/
def State.putQueuedAt (s : State) (pa : Nat) (q : List SliceReq) : State :=
  match nodeOf pa with
  | .stack n => s.onStack n fun k => { k with queue := tput [] k.queue (sliceOf pa) q }
  | .edge e => { s with edge := tput [] s.edge e q }
  | _ => s

/-- Performs every write queued for a line, in order, as an access that follows them in the queue finds it. -/
def State.settle (s : State) (line : Nat) : State :=
  let mine := (s.queuedAt (line * 128)).filter (·.line == line)
  let rest := (s.queuedAt (line * 128)).filter (·.line != line)
  if mine.isEmpty then s
  else
    (mine.foldl State.perform s).putQueuedAt (line * 128) rest

/-- Writes cells of one line at its performing point, after what is queued there. -/
def State.writeHome (s : State) (line : Nat) (cs : List Host.Cell) (slice : Option Nat) (key : Option Nat) : State :=
  let s := ((s.settle line).useKey line key).pokes cs
  let whole := (List.range 128).all fun i => cs.any fun c => c.1 == line * 128 + i
  let s := if whole then { s with poison := s.poison.filter (· != line) } else s
  s.touch slice line true key

/-- The lines that a list of cells touches, each once, in order. -/
def linesOf (cs : List Host.Cell) : List Nat :=
  cs.foldl (fun a c => if a.contains (c.1 / 128) then a else a ++ [c.1 / 128]) []

/-- Writes cells of any lines at their performing points. -/
def State.writesHome (s : State) (cs : List Host.Cell) (slice : Option Nat) (key : Option Nat) : State :=
  (linesOf cs).foldl (fun s l => s.writeHome l (cs.filter fun c => c.1 / 128 == l) slice key) s

/-! ## L1 and write-combining buffer (R238, R384) -/

/-- Replaces byte i of a line. -/
def setLineByte (x : Line) (i : Nat) (b : Byte) : Line :=
  (x &&& ~~~((255 : Line) <<< (8 * i))) ||| ((b.zeroExtend 1024) <<< (8 * i))

/-- Lines the L1 may hold: stack DRAM, aperture and edge memory (R322, R384). -/
def cacheable (pa : Nat) : Bool := match nodeOf pa with | .stack _ => true | .edge _ => true | _ => false

/-- A core's buffered bytes as writes, oldest first. -/
def Core.cells (c : Core) : List Host.Cell := c.wcb.map fun b => (b.pa, b.byte)

/-- The buffered bytes that a group's loads see: its own, and those every group of the core sees (R237, R288). -/
def Core.seenBy (c : Core) (gk : Nat) : List Host.Cell :=
  (c.wcb.filter fun b => b.group.isNone || b.group == some gk).map fun b => (b.pa, b.byte)

/-- A group has loaded n of its own buffered bytes: from now on every load of the core sees them, so that no later load
of the core returns an earlier write (R384, log 78). -/
def Core.show (c : Core) (gk pa n : Nat) : Core :=
  { c with wcb := c.wcb.map fun b => if b.group == some gk && decide (pa ≤ b.pa ∧ b.pa < pa + n) then { b with group := none } else b }

/-- A byte as a core's write buffer or else the home gives it. -/
def State.fresh (s : State) (core pa : Nat) : Byte :=
  match lastOf pa (s.core core).cells with | some b => b | none => s.home pa

/-- The split point K of a core in banks of 64 KiB: what covers the highest end of a resident allocation (R224). -/
def State.splitBanks (s : State) (core : Nat) : Nat :=
  let tops := s.teams.filterMap fun t => if t.2.core == core && t.2.size != 0 then some (t.2.base + t.2.size) else none
  let hold := match (s.core core).holder with | some h => [h.base + h.size] | none => []
  ((tops ++ hold).foldl max 0 + 65535) / 65536

/-- Banks of the L1: those from K up that are not retired (R224, R465). -/
def State.l1Size (s : State) (core : Nat) : Nat :=
  max 1 ((List.range 8).filter fun b => decide (s.splitBanks core ≤ b) && !(s.core core).banksOut.contains b).length

/-- Fills or refreshes a line of the L1 from home, tagged with its key (R238, R384, R458). The oldest line gives way when the
L1 is full (log 8). -/
def State.fillL1 (s : State) (core line : Nat) (key : Option Nat) : State :=
  let x := packLine s.home line
  let bad := s.poisoned line
  let room := s.l1Size core * 512
  s.onCore core fun c =>
    let order := c.l1order.filter (· != line)
    let drop := if room ≤ order.length then order.take (order.length + 1 - room) else []
    { c with
      l1 := tset (c.l1.filter fun e => !drop.contains e.1) line x
      l1order := (order.drop drop.length) ++ [line]
      l1key := match key with
        | some k => tset (c.l1key.filter fun e => !drop.contains e.1) line k
        | none => tdel (c.l1key.filter fun e => !drop.contains e.1) line
      l1poison := if bad then (c.l1poison.filter (· != line)) ++ [line] else c.l1poison.filter (· != line) }

def Core.dropL1 (c : Core) (p : Nat → Bool) : Core :=
  { c with l1 := c.l1.filter fun e => !p e.1, l1order := c.l1order.filter fun l => !p l,
           l1poison := c.l1poison.filter fun l => !p l, l1key := c.l1key.filter fun e => !p e.1 }

/-- A byte a group's load reads: a buffered store it sees, else the core's L1 line, else home (R237, R238). -/
def State.loadByte (s : State) (gk core pa : Nat) : Byte :=
  match lastOf pa ((s.core core).seenBy gk) with
  | some b => b
  | none => match tfind (s.core core).l1 (pa / 128) with
    | some x => lineByte x (pa % 128)
    | none => s.home pa

/-- Makes the line of a load, or of a PREF, present: fills a missing line, or refreshes a present one for an acquire load
(R238, R246, R384). -/
def State.loadLine (s : State) (core line : Nat) (acquire demand : Bool) (key : Option Nat) : State :=
  if !cacheable (line * 128) then s
  else
    let here := (tfind (s.core core).l1 line).isSome
    if here && !acquire then s
    else
      let s := ((s.settle line).useKey line key).touchAs demand none line false key
      if here || !acquire then s.fillL1 core line key else s

/-- Poison that a group's load of a line consumes: that of its L1 line, else of its home, where no buffered store that it
sees covers the line; and that of a spoiled buffered line (R235, R461). -/
def State.loadPoison (s : State) (gk core line : Nat) : Bool :=
  let c := s.core core
  let covered := c.wcbWhole.contains line && (List.range 128).all fun i => (lastOf (line * 128 + i) (c.seenBy gk)).isSome
  c.wcbPoison.contains line ||
  match tfind c.l1 line with
  | some _ => c.l1poison.contains line && !covered
  | none => s.poisoned line && !covered

/-- The two signature hashes of a line number (R386). -/
def sigH1 (n : Nat) : Nat :=
  let f (lo w : Nat) := n / 2 ^ lo % 2 ^ w
  f 0 10 ^^^ f 10 10 ^^^ f 20 10 ^^^ f 30 10 ^^^ f 40 5
def sigH2 (n : Nat) : Nat :=
  let f (lo w : Nat) := n / 2 ^ lo % 2 ^ w
  f 5 10 ^^^ f 15 10 ^^^ f 25 10 ^^^ f 35 10 ^^^ (f 0 5 * 32)
def sigBit (n : Nat) : Line := (1 : Line) <<< n
def sigMatch (p : Line) (line : Nat) : Bool := p.getLsbD (sigH1 line) && p.getLsbD (sigH2 line)

/-- Sets a line's bits in the group's three write signatures (R386). -/
def Group.sign (g : Group) (line : Nat) : Group :=
  let b := sigBit (sigH1 line) ||| sigBit (sigH2 line)
  { g with wsig1 := g.wsig1 ||| b, wsig2 := g.wsig2 ||| b, wsig3 := g.wsig3 ||| b }
def State.sign (s : State) (gk line : Nat) : State := s.onGrp gk fun g => g.sign line

/-- A store of a group: into the write-combining buffer, the L1 line if present, and the write signatures
(R238, R386). Where the L1 holds the line, every load of the core sees the store. -/
def State.storeByte (s : State) (gk core pa : Nat) (b : Byte) (key : Option Nat) : State :=
  let s := s.onCore core fun c =>
    { c with wcb := c.wcb ++ [{ pa, byte := b, group := if (tfind c.l1 (pa / 128)).isSome then none else some gk }],
             wcbKey := match key with | some k => tset c.wcbKey (pa / 128) k | none => tdel c.wcbKey (pa / 128),
             l1 := match tfind c.l1 (pa / 128) with
               | some x => tset c.l1 (pa / 128) (setLineByte x (pa % 128) b) | none => c.l1 }
  s.sign gk (pa / 128)

/-- One store instruction has covered these lines: their poison is gone (R461). -/
def State.coverLines (s : State) (core : Nat) (lines : List Nat) : State :=
  if lines.isEmpty then s
  else s.onCore core fun c => { c with
    wcbWhole := c.wcbWhole.filter (fun l => !lines.contains l) ++ lines
    wcbPoison := c.wcbPoison.filter fun l => !lines.contains l
    l1poison := c.l1poison.filter fun l => !lines.contains l }

/-- The lines that a list of byte addresses covers whole. -/
def coveredLines (as : List Nat) : List Nat :=
  let lines := as.foldl (fun xs a => if xs.contains (a / 128) then xs else xs ++ [a / 128]) []
  lines.filter fun l => (List.range 128).all fun i => as.contains (l * 128 + i)

/-- A request that finds a slice's queue of 32 full is held until an entry frees: the slice performs its oldest request, and
has been full for a cycle (R325, R349, log 93). -/
def State.makeRoom (s : State) (n slice : Nat) : State :=
  match tget [] (s.stack n).queue slice with
  | [] => s
  | r :: q =>
    if q.length < 31 then s
    else (s.onStack n fun k => { k with queue := tput [] k.queue slice q,
                                        full := tput 0 k.full slice (tget 0 k.full slice + 1) }).perform r

/-- Sends a core's buffered bytes of a line to where they are performed (R238, R382), an L1 line filled since they were
stored taking them too, so that the storing group's loads go on seeing them (R237, log 78). -/
def State.drainLine (s : State) (core line : Nat) : State :=
  let key := tfind (s.core core).wcbKey line
  let mine := (s.core core).cells.filter fun c => c.1 / 128 == line
  if mine.isEmpty then s
  else
    let bad := (s.core core).wcbPoison.contains line
    let whole := (s.core core).wcbWhole.contains line
    let s := s.onCore core fun c => { c with wcb := c.wcb.filter fun c => c.pa / 128 != line,
                                             l1 := match tfind c.l1 line with
                                               | some x => tset c.l1 line (mine.foldl (fun x c => setLineByte x (c.1 % 128) c.2) x)
                                               | none => c.l1,
                                             l1poison := if whole then c.l1poison.filter (· != line) else c.l1poison,
                                             wcbPoison := c.wcbPoison.filter (· != line),
                                             wcbWhole := c.wcbWhole.filter (· != line) }
    let r : SliceReq := { line, cells := mine, poison := bad, whole, key }
    match nodeOf (line * 128) with
    | .stack n => (s.makeRoom n (sliceOf (line * 128))).onStack n fun k =>
        { k with queue := tset k.queue (sliceOf (line * 128)) (tget [] k.queue (sliceOf (line * 128)) ++ [r]) }
    | .edge e => { s with edge := tset s.edge e (tget [] s.edge e ++ [r]) }
    | _ => s

/-- Drains a core's whole write-combining buffer. -/
def State.drainWcb (s : State) (core : Nat) : State :=
  (linesOf (s.core core).cells).foldl (fun s l => s.drainLine core l) s

/-- Performs every write queued at the slices and the edge dies. -/
def State.performQueued (s : State) : State :=
  let lines (q : Table (List SliceReq)) : List Nat := q.flatMap fun e => e.2.map (·.line)
  (s.stackTab.flatMap (fun k => lines k.2.queue) ++ lines s.edge).foldl State.settle s

/-! ## What lies outside the package (R442, R450, R452) -/

/-- Whether an address leaves the package. -/
def outsidePa (pa : Nat) : Bool := match nodeOf pa with | .host => true | .fabric _ => true | _ => false

/-- The registers of an outbound window (R450). -/
def State.window (s : State) (w : Nat) : OutWindow := tget {} s.ctl.outw w

/-- The size of an outbound window, and whether it is valid (R450, R451). -/
def winSize (cfg : DWord) : Nat := (fld cfg 0 6).toNat
def winValid (cfg : DWord) : Bool := cfg.getLsbD 24 && decide (16 ≤ winSize cfg ∧ winSize cfg ≤ 46)

/-- The address in the other package that an access through a window reaches (R450). The manual does not say what lies past
2^52: the sum wraps there (DESIGN CHOICE, unsafe, log 112). -/
def OutWindow.target (win : OutWindow) (pa : Nat) : Nat := (win.base.toNat + pa % 2 ^ 46) % 2 ^ 52

/-- The scale-up port an access through a window takes, if one is up (R450). -/
def State.portOf (s : State) (w pa : Nat) : Option Nat :=
  let win := s.window w
  let up := (List.range 64).filter fun p => win.ports.getLsbD p && s.ctl.portup.getLsbD p
  if up.isEmpty then none else up[(win.target pa / 128) % up.length]?

/-- The check of an access at a window: a window that is not valid or too small gives it no target, one without write permission
takes no write (R450). -/
def State.windowFail (s : State) (w pa : Nat) (writes : Bool) : Option (Byte × Byte) :=
  let cfg := (s.window w).cfg
  if !winValid cfg || decide (2 ^ winSize cfg ≤ pa % 2 ^ 46) then some (0x10, 2)
  else if writes && !cfg.getLsbD 25 then some (0x11, 9) else none

/-- The failure that an access of the device itself meets behind a window: the window's check, no answer, an error, no port up,
or a refusal (R442, R450, R452, log 21). -/
def State.outFail (s : State) (pa : Nat) (writes : Bool := false) : Option (Byte × Byte) :=
  let line := (tfind s.down (pa / 128)).map fun refused => if refused then ((0x11, 11) : Byte × Byte) else (0x10, 3)
  match nodeOf pa with
  | .host => line.map fun _ => (0x10, 3)
  | .fabric w => (s.windowFail w pa writes).or (if (s.portOf w pa).isNone then some (0x10, 3) else line)
  | _ => none

/-- A physical address where the package has storage: stack DRAM, an exposed block of an aperture, edge memory (R321, R438). -/
def State.reachable (s : State) (pa : Nat) : Bool :=
  match nodeOf pa with
  | .stack n => match wayBlock pa with | some j => decide (j < (s.stack n).ways) | none => true
  | .edge _ => true
  | _ => false

/-- The failure that an access of the device itself to a physical address meets: no storage stands there, or what it meets behind
a window. The manual gives no cause where a register or a table names a block that is not exposed: it is that of an address
without a target (R321, R377; DESIGN CHOICE, unsafe, log 113). -/
def State.physFail (s : State) (pa : Nat) (writes : Bool := false) : Option (Byte × Byte) :=
  if outsidePa pa then s.outFail pa writes else if s.reachable pa then none else some (0x10, 2)

/-- A store of the device itself that fails is lost, and counted where it failed outside (R357, R442, R452). -/
def State.loseStore (s : State) (pa : Nat) : State :=
  match nodeOf pa with
  | .fabric w =>
    if (s.windowFail w pa true).isSome then s
    else s.onCtl fun c => { c with outw := tset c.outw w { tget {} c.outw w with refused := (tget {} c.outw w).refused + 1 } }
  | .host => s.onCtl fun c => { c with hosterr := c.hosterr + 1 }
  | _ => s

/-- The device itself writes cells of any lines at their performing points, or behind a window. -/
def State.devWrites (s : State) (cs : List Host.Cell) (key : Option Nat) : State :=
  (linesOf cs).foldl (fun s l =>
    if (s.physFail (l * 128) true).isSome then s.loseStore (l * 128)
    else s.writeHome l (cs.filter fun c => c.1 / 128 == l) none key) s

/-- The outside changes as the tape says before the next step; nothing but what lies behind the windows does. -/
def State.takeOuter (s : State) : State :=
  match s.outer with
  | [] => s
  | o :: os => { s with outer := os, down := o.down, mem := applyBus s.mem (o.cells.filter fun c => outsidePa c.1) }

/-! ## Translation (R374-R378, R438, R439) -/

/-- What an access does, for its checks (R234, R377, R442). -/
inductive Acc where
  | read | write | atomic (hostOk : Bool) | fetch
deriving DecidableEq, Repr

def Acc.writes : Acc → Bool | .write => true | .atomic _ => true | _ => false

/-- A translation: the leaf, or a cause and its detail. -/
inductive Xl where
  | ok (leaf : Leaf) | fail (cause detail : Byte)
deriving DecidableEq, Repr

/-- A page-table entry's fields (R376). -/
structure Pte where
  raw : Nat
def Pte.bit (e : Pte) (n : Nat) : Bool := decide (e.raw / 2 ^ n % 2 = 1)
def Pte.addr (e : Pte) : Nat := e.raw % 2 ^ 52 / 256 * 256
def Pte.key (e : Pte) : Nat := e.raw / 2 ^ 52 % 64

/-- The leaf of an entry whose page has the given size (R376, R377, R439). -/
def Pte.leaf (e : Pte) (size : Nat) : Xl :=
  let outside := match nodeOf e.addr with | .host => true | .fabric _ => true | _ => false
  if decide (e.raw / 64 % 4 ≠ 0 ∨ 2 ^ 58 ≤ e.raw ∨ e.addr % size ≠ 0) || (!e.bit 5 && e.key != 0) ||
      (outside && (e.bit 5 || e.bit 4)) then
    .fail 0x10 1
  else if nodeOf e.addr = .none then .fail 0x10 2
  else .ok { wr := e.bit 2, x := e.bit 3, tensor := e.bit 4, enc := e.bit 5, key := e.key, base := e.addr, size }

/-- An entry that should name the next table, aligned to that table's size. -/
def Pte.table (e : Pte) (align : Nat) : Option (Byte × Byte) :=
  if !e.bit 0 then some (0x10, 0)
  else if e.bit 1 ∨ e.raw / 4 % 64 ≠ 0 ∨ 2 ^ 52 ≤ e.raw ∨ e.addr % align ≠ 0 then some (0x10, 1)
  else none

/-- The four-level walk of R375, reading tables at their home slices (R377). A table behind a window may fail to answer, and one
in a block that is not exposed has no storage. -/
def State.walk (s : State) (asid va : Nat) : Xl :=
  let a := tget {} s.asids asid
  if a.flags % 2 = 0 then .fail 0x10 0
  else
    let rd (base i : Nat) : Pte := ⟨s.homeN (base + 8 * i) 8⟩
    let no (base i : Nat) : Option (Byte × Byte) := s.physFail (base + 8 * i)
    let e3 := rd a.root (va / 2 ^ 47 % 1024)
    match (no a.root (va / 2 ^ 47 % 1024)).or (e3.table 65536) with
    | some (c, d) => .fail c d
    | none =>
      let e2 := rd e3.addr (va / 2 ^ 34 % 8192)
      match (no e3.addr (va / 2 ^ 34 % 8192)).or (e2.table 65536) with
      | some (c, d) => .fail c d
      | none =>
        let e1 := rd e2.addr (va / 2 ^ 21 % 8192)
        let no1 := no e2.addr (va / 2 ^ 21 % 8192)
        if no1.isNone && e1.bit 0 && e1.bit 1 then e1.leaf (2 ^ 21)
        else match no1.or (e1.table 256) with
        | some (c, d) => .fail c d
        | none =>
          let e0 := rd e1.addr (va / 2 ^ 16 % 32)
          match no e1.addr (va / 2 ^ 16 % 32) with
          | some (c, d) => .fail c d
          | none =>
          if !e0.bit 0 then .fail 0x10 0
          else if !e0.bit 1 then .fail 0x10 1
          else e0.leaf 65536

/-- A translation held in the core's TLB, else by a walk (R378). An address with a bit above 56 set is
not present (R233). -/
def State.xlate (s : State) (core asid va : Nat) : Xl :=
  if 2 ^ 57 ≤ va then .fail 0x10 0
  else match (s.core core).tlb.find? fun e => e.asid == asid && decide (e.va ≤ va ∧ va < e.va + e.leaf.size) with
    | some e => .ok e.leaf
    | none => s.walk asid va

/-- Holds a valid translation in the core's TLB (R378). -/
def State.keepXlate (s : State) (core asid va : Nat) : State :=
  match s.xlate core asid va with
  | .fail _ _ => s
  | .ok leaf =>
    if (s.core core).tlb.any fun e => e.asid == asid && decide (e.va ≤ va ∧ va < e.va + e.leaf.size) then s
    else s.onCore core fun c => { c with tlb := c.tlb ++ [{ asid, va := va / leaf.size * leaf.size, leaf }] }

def Leaf.pa (l : Leaf) (va : Nat) : Nat := l.base + va % l.size

/-- The physical address of a translated address, 0 where there is none. -/
def State.paOf (s : State) (core asid va : Nat) : Nat :=
  match s.xlate core asid va with | .ok l => l.pa va | .fail _ _ => 0

/-- Steps 2 to 6 of R234 on a translation, with the checks of host and fabric windows (R442, R450): the cause and
detail of the first that fails. `ways` gives the scratchpad ways of each stack. The tensor check (step 5) is left out
for PIN and UNPIN (R334). -/
def State.leafCheck (s : State) (ways : Nat → Nat) (va : Nat) (acc : Acc) (tensorOk : Bool) (x : Xl) : Option (Byte × Byte) :=
  match x with
  | .fail c d => some (c, d)
  | .ok leaf =>
    let pa := leaf.pa va
    let win : Option (Byte × Byte) := match nodeOf pa with
      | .fabric w => s.windowFail w pa acc.writes
      | .host => match acc with | .atomic false => some (0x11, 12) | _ => none
      | _ => none
    match win with
    | some (0x10, d) => some (0x10, d)
    | _ =>
      if acc.writes && !leaf.wr then some (0x11, 9)
      else if acc = .fetch && !leaf.x then some (0x11, 10)
      else if win.isSome then win
      else if leaf.enc && (tfind s.ctl.keys leaf.key).isNone then some (0x15, BitVec.ofNat 8 leaf.key)
      else if leaf.tensor && !tensorOk && acc != .fetch then some (0x13, 0)
      else match wayBlock pa, nodeOf pa with
        | some j, .stack n => if ways n ≤ j then some (0x14, 0) else none
        | _, _ => none

/-- The check of a core's access, through its TLB and the way counts it holds (R234, R330). -/
def State.pageCheck (s : State) (core asid va : Nat) (acc : Acc) (tensorOk : Bool) : Option (Byte × Byte) :=
  s.leafCheck (fun n => tget 0 (s.core core).ways n) va acc tensorOk (s.xlate core asid va)

/-- A translation by the device itself, which holds no TLB (R357). -/
def State.devXlate (s : State) (asid va : Nat) : Xl := if 2 ^ 57 ≤ va then .fail 0x10 0 else s.walk asid va

/-- The check of an access by the device itself. -/
def State.devCheck (s : State) (asid va : Nat) (acc : Acc) : Option (Byte × Byte) :=
  s.leafCheck (fun n => (s.stack n).ways) va acc false (s.devXlate asid va)

def State.devPa (s : State) (asid va : Nat) : Nat :=
  match s.devXlate asid va with | .ok l => l.pa va | .fail _ _ => 0

/-- An access by the device itself that is made now: its check, and the failure it meets behind a window. -/
def State.devFail (s : State) (asid va : Nat) (acc : Acc) : Option (Byte × Byte) :=
  (s.devCheck asid va acc).or (s.outFail (s.devPa asid va) acc.writes)

/-- The key of a leaf's page; aperture bytes are never encrypted (R458). -/
def Xl.key (x : Xl) (va : Nat) : Option Nat :=
  match x with
  | .ok l => if l.enc && !(match nodeOf (l.pa va) with | .stack _ => (wayBlock (l.pa va)).isSome | _ => false) then some l.key else none
  | .fail _ _ => none

/-- The key a page is encrypted under (R376, R458). -/
def State.keyOf (s : State) (core asid va : Nat) : Option Nat := (s.xlate core asid va).key va

/-- n bytes at an address of an ASID as a core reads them at home, and as the device itself does. -/
def State.readVa (s : State) (core asid va n : Nat) : Nat :=
  bytesLE (s.homeK (s.keyOf core asid va)) (s.paOf core asid va) n
def State.devN (s : State) (asid va n : Nat) : Nat :=
  bytesLE (s.homeK ((s.devXlate asid va).key va)) (s.devPa asid va) n

/-! ## Travel: segments (R403-R405) -/

/-- Image base, segment count, and holder entry of a segment, as the segment map in memory gives them (R404,
R405), read through the launch's ASID. -/
def State.segBase (s : State) (core : Nat) (l : Launch) : Nat := s.readVa core l.lrec.asid l.lrec.segmap 8
def State.segCount (s : State) (core : Nat) (l : Launch) : Nat := s.readVa core l.lrec.asid (l.lrec.segmap + 8) 4
def State.segEntry (s : State) (core : Nat) (l : Launch) (i : Nat) : Nat :=
  s.readVa core l.lrec.asid (l.lrec.segmap + 0x40 + 8 * i) 8

/-- The valid holder cores of an entry, in field order, with their field (R405). -/
def holdersOf (entry : Nat) : List (Nat × Nat) :=
  (List.range 4).filterMap fun f =>
    let b := entry / 2 ^ (8 * f) % 256
    if 128 ≤ b then some (f, b % 128) else none

/-- The segment of an address, if it lies in the image (R403). -/
def State.segmentOf (s : State) (core : Nat) (l : Launch) (x : DWord) : Option Nat :=
  let b := s.segBase core l
  if b ≤ x.toNat ∧ x.toNat < b + s.segCount core l * 65536 then some ((x.toNat - b) / 65536) else none

/-! ## Instruction fetch (R79-R83, R97) -/

/-- The ASID of a group's launch. -/
def State.asidOf (s : State) (g : Group) : Nat := (s.launch g.launch).lrec.asid

/-- What a core's instruction store holds of an address for a group, with the offset in it: a traveller outside handler mode fetches
from the pinned segment what lies in it (R97, R403, R408). -/
def State.pinnedAt (s : State) (g : Group) (va : DWord) : Option (Pinned × Nat) :=
  match g.trav, (s.core g.core).holder with
  | some _, some h =>
    if !(g.strand 0).handler && s.segmentOf g.core (s.launch g.launch) va == some h.segment then
      some (h.code, (va.toNat - s.segBase g.core (s.launch g.launch)) % 65536)
    else none
  | _, _ => none

/-- The word at an offset of a pinned segment, or the failure that pinning it met. -/
def Pinned.word (p : Pinned) (o : Nat) : Except (Byte × Byte) Word :=
  match p.fault.or (tfind p.lost (o / 128)) with
  | some cd => .error cd
  | none => .ok (BitVec.ofNat 32 (bytesLE (fun a => lineByte (tget 0 p.lines (a / 128)) (a % 128)) o 4))

/-- Fetches the word at an address for a group from memory: the word, or the cause and detail of a fetch fault, one of a line behind a
window that does not answer among them (R442, R450). The bytes of a poisoned line are delivered without a trap: R235 and R461
speak of loads and copies alone (DESIGN CHOICE, unsafe, log 82). -/
def State.fetchMem (s : State) (g : Group) (va : DWord) : Except (Byte × Byte) Word :=
  match (s.pageCheck g.core (s.asidOf g) va.toNat .fetch true).or (s.outFail (s.paOf g.core (s.asidOf g) va.toNat)) with
  | some cd => .error cd
  | none => .ok (BitVec.ofNat 32
      (bytesLE (s.homeK (s.keyOf g.core (s.asidOf g) va.toNat)) (s.paOf g.core (s.asidOf g) va.toNat) 4))

/-- Fetches the word at an address for a group: from the segment that its core pins, or from memory (R97, R408). -/
def State.fetch (s : State) (g : Group) (va : DWord) : Except (Byte × Byte) Word :=
  match s.pinnedAt g va with
  | some (p, o) => p.word o
  | none => s.fetchMem g va

/-- A code address as LK holds it: 57 bits, the rest read as zero (R9, R37). -/
def lk57 (x : DWord) : DWord := (x.setWidth 57).zeroExtend 64

/-- seq_next of R80. -/
def seqNext (pc : DWord) (w : Nat) : DWord :=
  let x := pc + BitVec.ofNat 64 (4 * w)
  if x.toNat % 128 = 0 then x + 4 else x

/-- A trap: its cause, TADDR, TINFO[15:8], TINFO[31:16] and TINFO[7:0] (R90, R127, R212). -/
structure Trap where
  cause : Byte
  taddr : DWord := 0
  detail : Byte := 0
  imm : Half := 0
  low : Byte := 0
deriving DecidableEq, Repr

/-- check_target of R81 on address t. A target at or above 2^57 is not present (R119). -/
def State.checkTarget (s : State) (g : Group) (t : DWord) (entry : Bool) : Option Trap :=
  let i := t.toNat % 128 / 4
  if t.toNat % 4 ≠ 0 then some { cause := 0x0A, taddr := t }
  else if i = 0 then some { cause := 0x09, taddr := t }
  else match s.fetch g (t - BitVec.ofNat 64 (4 * i)) with
    | .error (c, d) => some { cause := c, taddr := t, detail := d }
    | .ok h =>
      if !h.getLsbD i then some { cause := 0x09, taddr := t }
      else if entry && (i != 1 || !h.getLsbD 0) then some { cause := 0x09, taddr := t }
      else none

/-! ## Stopping a launch (R367, R368) -/

/-- A stack without the waiting SRCFGs of some groups (R329). -/
def Stack.dropReparts (k : Stack) (gs : List Nat) : Stack :=
  { k with repartQueue := k.repartQueue.filter fun e => !gs.contains e.1 }

/-- A stack dispatcher without the teams of a launch. -/
def Stack.dropOffers (k : Stack) (id : Nat) : Stack := { k with offers := k.offers.filter fun o => o.launch != id }

/-- A stopping cause reaches the dispatcher: the first is recorded, each further one counted; the stack dispatchers drop the
launch's teams (R367, R368). -/
def State.stopLaunch (s : State) (id : Nat) (f : FaultRec) : State :=
  (s.mapStacks (·.dropOffers id)).onLaunch id fun l => match l.stop with
    | none => { l with stop := some { f with launch := id, seq := l.lrec.seq } }
    | some r => { l with stop := some { r with count := if r.count = 0xFFFFFFFF then r.count else r.count + 1 } }

/-! ## Taking a trap and returning from one (R210-R213) -/

def tinfoOf (t : Trap) : Word := t.imm ++ t.detail ++ t.low

/-- A new number for a joined set or another object. -/
def State.newKey (s : State) : Nat × State := (s.nextKey, { s with nextKey := s.nextKey + 1 })

/-- One strand takes a trap at its PC (R211): the trap registers, handler mode, the handler's address. -/
def Strand.enter (x : Strand) (t : Trap) (handler : DWord) (step : Nat × Nat) : Strand :=
  { x with tcause := t.cause, tpc := x.pc, taddr := t.taddr, tinfo := tinfoOf t, handler := true, pc := handler,
           wait := none, released := false, issued := false, begun := none, barMark := none, arrived := false, readyAt := step }

/-- Gives strands of a group a joined set of their own. -/
def State.setApart (s : State) (gk : Nat) (ks : List Nat) : State :=
  let (j, s) := s.newKey
  s.onGrp gk fun g => ks.foldl (fun g k => g.onStrand k fun x => { x with jset := j }) g

/-- The cycle of a core and the issue cycles of a partition, from which ages count (R189). -/
def State.nowAt (s : State) (core part : Nat) : Nat × Nat := ((s.core core).cycle.toNat, tget 0 (s.core core).issues part)

/-- Strands of a group take a trap together, each with its own address and detail (R210, R211). Without a handler, in
handler mode, or for the causes 0x15 and 0x3F, the launch stops instead, at the instruction that trapped (R367). `apart` gives
them a joined set of their own. -/
def State.takeTraps (s : State) (gk : Nat) (ks : List Nat) (tr : Nat → Trap) (apart : Bool) : State :=
  let g := s.grp gk
  let l := s.launch g.launch
  let k0 := ks.headD 0
  let t := tr k0
  let s := if apart then s.setApart gk ks else s
  if l.lrec.handler = 0 ∨ ks.any (fun k => (g.strand k).handler) ∨ t.cause = 0x15 ∨ t.cause = 0x3F then
    let f : FaultRec := { kind := 1, cause := t.cause, detail := t.detail.zeroExtend 16, team := g.team, group := g.index, strand := k0, core := g.core, tinfo := tinfoOf t, tpc := (g.strand k0).pc, taddr := t.taddr }
    (s.onGrp gk fun g => ks.foldl (fun g k => g.onStrand k fun x => { x with begun := none }) g).stopLaunch g.launch f
  else
    let step := s.nowAt g.core g.part
    s.onGrp gk fun g => ks.foldl (fun g k => g.onStrand k fun x => x.enter (tr k) l.lrec.handler step) g

def State.takeTrap (s : State) (gk : Nat) (ks : List Nat) (t : Trap) (apart : Bool) : State :=
  s.takeTraps gk ks (fun _ => t) apart

/-- The whole issuing set takes a trap that arises in no lane or strand of its own (R210). -/
def State.trap (s : State) (t : Trap) : State := s.takeTrap s.gk s.ks t false

/-- The strands of the issuing set whose first lane in a list of failing lanes, in increasing order, fails with the cause of the
list's first; all of them where that lane is none of the 64, as for a scalar access (R210). -/
def State.trapping (s : State) (bad : List (Nat × Trap)) : List Nat :=
  match bad with
  | [] => []
  | (l, t) :: _ =>
    let ks := if 64 ≤ l then [] else s.ks.filter fun k => (bad.find? fun e => e.1 / 4 == k).map (·.2.cause) == some t.cause
    if ks.isEmpty then s.ks else ks

/-- A trap that arises in lanes, listed in increasing order with the trap of each: the strands that fail as the first one
does take it together, with its address and detail, and the instruction has no effect in any lane (R36, R68, R210, R230,
R234). The other strands part from them and stand at the instruction still, which they then execute (R112, log 5). -/
def State.trapLanes (s : State) (bad : List (Nat × Trap)) : State :=
  match bad with
  | [] => s
  | (_, t) :: _ =>
    let ks := s.trapping bad
    if ks = s.ks then s.trap t
    else (s.takeTrap s.gk ks t true).onSet fun x => { x with begun := none }

/-! ## Reconvergence, loops and parting (R111, R112, R124) -/

/-- rejoin of R111 at address n: pops every top entry parked there. -/
def rejoinAt (n : DWord) : List DivEntry → BitVec 4 → List DivEntry × BitVec 4
  | [], m => ([], m)
  | e :: t, m => if e.pc = n then rejoinAt n t (m ||| e.mask) else (e :: t, m)

def Strand.rejoin (x : Strand) : Strand :=
  let (st, m) := rejoinAt x.pc x.stack x.amask
  { x with stack := st, amask := m }

/-- One level of the loop-end rule at the next PC: whether it loops back (R124). -/
def Strand.loopEnd (x : Strand) : List Nat → Strand
  | [] => x
  | k :: ks =>
    let v := x.loop k
    if v.count ≠ 0 ∧ v.stop = x.pc then
      let x := x.setLoop k { v with count := v.count - 1 }
      if v.count - 1 ≠ 0 then { x with pc := v.start } else x.loopEnd ks
    else x.loopEnd ks

/-- A strand arrives at its next PC: rejoin, the loop-end rule for the given levels, and rejoin again (R112). -/
def Strand.arrive (x : Strand) (levels : List Nat) : Strand :=
  ((x.rejoin).loopEnd levels).rejoin

/-- push of R111; none is trap 0x07. -/
def Strand.push (x : Strand) (m : BitVec 4) (y : DWord) : Option Strand :=
  match x.stack with
  | e :: t =>
    if e.pc = y then some { x with stack := { e with mask := e.mask ||| m } :: t }
    else if x.stack.length = 16 then none
    else some { x with stack := { mask := m, pc := y } :: x.stack }
  | [] => some { x with stack := [{ mask := m, pc := y }] }

/-- Marks a strand ready for its next instruction. -/
def Strand.next (x : Strand) (step : Nat × Nat) : Strand :=
  { x with wait := none, released := false, issued := false, begun := none, barMark := none, readyAt := step }

/-- Parts a joined set by the PCs of its strands: the lowest strand's PC keeps the number, every other
distinct PC gets a new one (R112). -/
def State.part (s : State) (gk j : Nat) : State :=
  let g := s.grp gk
  let ks := g.members j
  let pc0 := (g.strand (ks.headD 0)).pc
  let others := ks.foldl (fun (a : List DWord) k =>
    let p := (g.strand k).pc
    if p = pc0 ∨ a.contains p then a else a ++ [p]) []
  if others.isEmpty then s
  else
    let base := s.nextKey
    let s := { s with nextKey := base + others.length }
    s.onGrp gk fun g => ks.foldl (fun g k => g.onStrand k fun x =>
      match others.idxOf? x.pc with | some i => { x with jset := base + i } | none => x) g

/-! ## Travel: departure checks (R411, R413) -/

/-- Arrivals in a holder's queue, those in spill slots left out (R415, R430). -/
def Holder.occupancy (h : Holder) : Nat := (h.arrivals.filter (!·.1)).length

/-- Set LIVE bits, in increasing register number. -/
def liveRegs (m : DWord) : List Nat := (List.range 64).filter fun i => m.getLsbD i

/-- Levels with a count, of three. -/
def Strand.levels (x : Strand) : List Nat := (List.range 3).filter fun k => (x.loop k).count ≠ 0

/-- Checks 2 to 8 of a departure to t, on the strand as it would stand there (R411). -/
def State.departCheck (s : State) (g : Group) (x : Strand) (t : DWord) : Option Trap :=
  let l := s.launch g.launch
  let img (a : DWord) : Bool := (s.segmentOf g.core l a).isSome
  let fail (c d : Byte) : Option Trap := some { cause := c, taddr := t, detail := d }
  match s.segmentOf g.core l t with
  | none => fail 0x20 1
  | some i =>
    if (holdersOf (s.segEntry g.core l i)).isEmpty then fail 0x20 2
    else if x.amask ≠ 0xF ∨ x.stack ≠ [] then fail 0x22 1
    else if (liveRegs x.live).any (fun r => decide (g.held ≤ r)) then fail 0x22 2
    else if (x.lk ≠ 0 && !img x.lk) || x.levels.any (fun k => !img (x.loop k).start || !img (x.loop k).stop) then fail 0x22 4
    else if 1184 < 160 + 16 * x.levels.length + 16 * (liveRegs x.live).length then fail 0x22 3
    else if (List.range 4).any (fun ln => !(g.args ln).isEmpty || !(g.queued 5 ln).isEmpty) then fail 0x22 5
    else none

/-- Whether the issuing traveller, about to stand as `x` at its next PC, departs there: none where it does not, else the
trap of the first check of R411 that fails, made of the state before the instruction's effects but for the active mask and
the stack at the next PC. -/
def State.departure (s : State) (x : Strand) : Option (Option Trap) :=
  let g := s.g
  let here := match (s.core g.core).holder with | some h => h.segment | none => 0
  if g.trav.isNone || x.handler || x.ended then none
  else if s.segmentOf g.core s.lau x.pc = some here then none
  else some (s.departCheck g { g.strand 0 with amask := x.amask, stack := x.stack } x.pc)

/-! ## Retiring an instruction -/

/-- A register that a departing traveller's packet carries holds an uncorrected error: v registers that LIVE names, s0 to s15,
and predicates (R413, R462). -/
def Group.packBad (g : Group) : Bool :=
  g.bad.any fun e => if e < 2 ^ 14 then (liveRegs (g.strand 0).live).contains (e / 64)
    else if e < 2 ^ 15 then decide (e - 2 ^ 14 < 16) else true

/-- The strands of the issuing set stand at their next PCs and part (R112). In a travel launch, outside handler mode,
a next PC outside the segment is a departure: its checks are made of the state before the instruction's effects, but for the
active mask and the stack, which are those at the next PC, and one that fails traps there with no effect (R411). A departure
reads the registers that its packet carries (R462, log 114). -/
def State.retire (s0 s1 : State) : State :=
  let gk := s0.gk
  let j := s0.cur.jset
  let g := s1.grp gk
  let s2 := s1.onGrp gk fun g1 => g1.onSet j fun x => x.next (s1.nowAt g.core g.part)
  match g.trav with
  | none => s2.part gk j
  | some tr =>
    let x := (s2.grp gk).strand 0
    match s0.departure x with
    | none => s2
    | some (some t) => s0.trap t
    | some none =>
      if (s2.grp gk).packBad then s0.trap { cause := 0x3F }
      else s2.onGrp gk fun g =>
        { (g.onStrand 0 fun x => { x with wait := some .departure }) with trav := some { tr with leaving := some x.pc } }

/-- A strand passes an instruction of w words and arrives at the next PC (R80, R112). -/
def Strand.pass (x : Strand) (w : Nat) : Strand := ({ x with pc := seqNext x.pc w }).arrive [2, 1, 0]

/-- The trap of a departure that passing an instruction of w words makes and that fails its checks (R411). -/
def State.departFails (s : State) (w : Nat) : Option Trap := (s.departure ((s.g.strand 0).pass w)).join

/-- The issuing set passes an instruction of w words (R80) and retires it. -/
def State.done (s0 s1 : State) (w : Nat) : State := s0.retire (s1.onSet fun x => x.pass w)

/-- An instruction whose outcome is each strand's own: the strands without a trap take their new states and retire;
the others take their traps, each with its own address and detail, joined where the cause agrees (R210). -/
def State.perStrand (s : State) (f : Nat → Strand → Except Trap Strand) : State :=
  let ks := s.ks
  let bad := ks.filterMap fun k => match f k (s.g.strand k) with | .error t => some (k, t) | .ok _ => none
  let causes := bad.foldl (fun (a : List Byte) e => if a.contains e.2.cause then a else a ++ [e.2.cause]) []
  let trapOf (k : Nat) : Trap := ((bad.find? fun e => e.1 == k).map (·.2)).getD { cause := 0 }
  let good := ks.filter fun k => !(bad.map (·.1)).contains k
  let s1 := causes.foldl (fun s c =>
    s.takeTraps s.gk ((bad.filter (·.2.cause == c)).map (·.1)) trapOf (!good.isEmpty || causes.length != 1)) s
  if good.isEmpty then s1
  else s1.retire (s1.onG fun g => good.foldl (fun g k => match f k (g.strand k) with | .ok x => g.setStrand k x | .error _ => g) g)

/-! ## Waits (R190, R468) -/

/-- The issuing set leaves the ready set, waiting. -/
def State.await (s : State) (w : Wait) : State :=
  let fresh := s.lead.wait != some w
  let n := if fresh then s.ctl.waitSeq + 1 else s.ctl.waitSeq
  let s := s.onCtl fun c => { c with waitSeq := n }
  if fresh then s.onSet fun x => { x with wait := some w, waitSeq := n } else s

/-- Every strand of the issuing set carries a mark. -/
def State.allSet (s : State) (p : Strand → Bool) : Bool := s.ks.all fun k => p (s.g.strand k)

/-! ## Release and acquire (R387, R388) -/

/-- The cores within a scope of a group (R381). -/
def State.scopeCores (s : State) (g : Group) (scope : Nat) : List Nat :=
  match scope with
  | 0 => [g.core]
  | 1 => let t := s.team g.launch g.team
         if t.pair then [t.core, t.core + 1] else [g.core]
  | 2 => (List.range 16).map (stackOf g.core * 16 + ·)
  | _ => List.range 128

/-- An aperture address of a stack in way-blocks lo to hi - 1 (R327). -/
def inBlocks (stack lo hi pa : Nat) : Bool :=
  nodeOf pa == .stack stack && match wayBlock pa with | some j => decide (lo ≤ j ∧ j < hi) | none => false

/-- One core takes a published message (R387, R340, R330). Its L1 keeps the aperture lines it holds (R351). -/
def State.deliver (s : State) (m : Msg) : State :=
  match m with
  | .signature c sig => s.onCore c fun x => { x with psig := x.psig ||| sig }
  | .drop c asid h => s.onCore c fun x => { x with handles := tdel x.handles (asid * 4096 + h) }
  | .ways c n w => s.onCore c fun x => { x with ways := tput 0 x.ways n w }

/-- Takes the next entry of the tape of lags (log 1). -/
def State.takeLag (s : State) : Bool × State := (s.lags.headD false, { s with lags := s.lags.tail })

/-- Publishes messages: delivered at once, or left to events of their own when the tape says so. -/
def State.publish (s : State) (ms : List Msg) : State :=
  let (lag, s) := s.takeLag
  if lag then { s with msgs := s.msgs ++ ms.map fun msg => { group := s.gk, jset := s.cur.jset, msg } }
  else ms.foldl State.deliver s

/-- The issuing set has messages that a core has not acknowledged. -/
def State.unacked (s : State) : Bool := s.msgs.any fun p => p.group == s.gk && p.jset == s.cur.jset

/-- Requests of a copy's engine stand under a set number of their own, from this one up (R395). -/
def copySets : Nat := 2 ^ 64

/-- The group has writes to the host or another package, numbered below `snap`, that are not acknowledged; a running
copy's do not count (R387, R395). -/
def State.remoteWrites (s : State) (gk snap : Nat) : Bool :=
  s.remotes.any fun r => r.group == gk && r.op == .store && decide (r.id < snap ∧ r.jset < copySets)

/-- Flights of a group are not performed: of scalar accesses, which belong to no strand alone, or of lanes of the given strands. -/
def State.flies (s : State) (gk : Nat) (ks : List Nat) : Bool :=
  s.loads.any fun r => r.group == gk && r.fly.isSome && (ks.contains (r.lane / 4) || decide (64 ≤ r.lane))

/-- Some of the given strands' earlier accesses are not performed: flights, or writes that left the package; what its
core's buffer holds the release itself drains (R236, R382, R387). A scalar access belongs to no strand alone. -/
def State.owes (s : State) (gk : Nat) (ks : List Nat) : Bool :=
  s.flies gk ks ||
  s.remotes.any fun r => r.group == gk && r.op == .store && decide (r.jset < copySets) && (ks.contains (r.lane / 4) || r.lane == 64)

/-- The snapshot, drain and publication of a release at a scope by a group (R387). -/
def State.releaseBy (s : State) (gk scope : Nat) : State :=
  if scope = 0 then s
  else
    let g := s.grp gk
    let sig := if scope = 1 then g.wsig1 else if scope = 2 then g.wsig2 else g.wsig3
    let s := s.onGrp gk fun g => { g with
      wsig1 := 0, wsig2 := if 2 ≤ scope then 0 else g.wsig2, wsig3 := if 3 ≤ scope then 0 else g.wsig3 }
    let s := (s.drainWcb g.core).performQueued
    s.publish ((s.scopeCores g scope).map fun c => .signature c sig)

/-- The acquire of a core at a scope (R388). -/
def State.acquireOn (s : State) (core scope : Nat) : State :=
  if scope = 0 then s
  else s.onCore core fun c =>
    let p := c.psig
    let c := { c with psig := 0 }
    let c := c.dropL1 fun l => sigMatch p l
    let c := if 2 ≤ scope then { c with handles := [] } else c
    if scope = 4 then c.dropL1 fun _ => true else c

/-- Makes the departure checks of an instruction of one word before any of its effects (R411). -/
def State.beforeEffects (s : State) (k : State → State) : State :=
  match s.departFails 1 with | some t => s.trap t | none => k s

/-- Runs the release half of an ordered instruction before the rest of it (R236, R387, R389): first every earlier access of
the strands is performed, and at group scope that is all; then the snapshot is taken, drained and published, once; the rest
runs when every publication is acknowledged, and at system scope every remote write of the group before the snapshot. The
departure checks of the instruction, which has one word, come before its release (R411). -/
def State.afterRelease (s : State) (yes : Bool) (k : State → State) : State :=
  if !yes then k s
  else if !s.lead.released && (s.departFails 1).isSome then s.beforeEffects k
  else if !s.lead.released && s.owes s.gk s.ks then s.await .performed
  else if mScope s.mode == 0 then k s
  else
    let s := if s.lead.released then s
      else (s.releaseBy s.gk (mScope s.mode)).onSet fun x => { x with released := true, snap := s.nextKey }
    if s.unacked then s.await .acks
    else if mScope s.mode == 4 && s.remoteWrites s.gk s.lead.snap then s.await .remoteWrites
    else k s

/-- The acquire half after an access (R236). -/
def State.acquire (s : State) (yes : Bool) : State := if yes then s.acquireOn s.g.core (mScope s.mode) else s

/-! ## What a change of ways waits for (R329) -/

/-- Accesses to the way-blocks lo to hi - 1 of a stack have passed their checks and are not performed: loads, accesses begun, and
the merges and tiles of drains (R280, R329). -/
def State.blocksBusy (s : State) (stack lo hi : Nat) : Bool :=
  s.loads.any (fun r => inBlocks stack lo hi r.pa) ||
  s.groups.any (fun e => e.2.strands.any fun x => match x.begun with
    | some b => b.accs.any fun a => inBlocks stack lo hi a.pa
    | none => false) ||
  s.cores.any fun c => c.2.mats.any fun m => m.merge.any (inBlocks stack lo hi) || m.tilePa.any (inBlocks stack lo hi)

/-- A message that tells a core a stack's ways is not acknowledged. -/
def State.waysUntold (s : State) (stack : Nat) : Bool :=
  s.msgs.any fun p => match p.msg with | .ways _ k _ => k == stack | _ => false

/-- What an SRCFG in progress waits for is over: every core holds the new ways, and nothing checked under the old ones is
outstanding (R329). -/
def State.repartReady (s : State) (stack : Nat) (r : Repart) : Bool := !s.waysUntold stack && !s.blocksBusy stack r.lo r.hi

/-- The joined set of an SRCFG goes on: with a change of its own under way, once that is complete; else once no change of the stack
is under way and none that issued earlier waits (R329). -/
def State.repartGoes (s : State) (stack gk j : Nat) (own : Bool) : Bool :=
  let k := s.stack stack
  match own, k.repart with
  | true, some r => s.repartReady stack r
  | true, none => true
  | false, r => !k.repartQueue.contains (gk, j) || (r.isNone && k.repartQueue.head? == some (gk, j))

/-! ## Local memory of a core (R224-R232, R460) -/

def State.locByte (s : State) (core off : Nat) : Byte := tget 0 (s.core core).mem off
def State.locN (s : State) (core off n : Nat) : Nat := bytesLE (s.locByte core) off n

/-- Writes bytes of local memory; blocks written whole lose their poison (R461). -/
def State.locWrite (s : State) (core : Nat) (cs : List Host.Cell) : State :=
  s.onCore core fun c => { c with
    mem := cs.foldl (fun m x => tput 0 m x.1 x.2) c.mem
    memPoison := c.memPoison.filter fun b => !(List.range 128).all fun i => cs.any fun x => x.1 == b * 128 + i }

def State.locPoison (s : State) (core off n : Nat) : Bool :=
  (s.core core).memPoison.any fun b => decide (b * 128 < off + n ∧ off < b * 128 + 128)

/-- Core, base and size of the allocation a group addresses with where = 0b000: its team's, or the resident
allocation of its holder (R225, R293, R407). -/
def State.alloc (s : State) (g : Group) : Nat × Nat × Nat :=
  match g.trav with
  | some _ => match (s.core g.core).holder with
    | some h => (g.core, h.base, h.size) | none => (g.core, 0, 0)
  | none => let t := s.team g.launch g.team
            (t.core, t.base, t.size)

/-- First absolute accumulator row and number of rows of a group's team on its core (R255, R256). -/
def State.accOf (s : State) (g : Group) : Nat × Nat :=
  match g.trav with
  | some _ => match (s.core g.core).holder with | some h => (h.accFirst, h.accRows) | none => (0, 0)
  | none => let t := s.team g.launch g.team
            (if t.pair && g.core != t.core then t.accFirstUp else t.accFirst, t.accRows)

/-! ## The outside of the package (R442, R450) -/

/-- The outstanding access or its answer, for a lane of the issuing set. -/
def State.respOf (s : State) (lane pa : Nat) : Option Resp :=
  s.g.resp.find? fun r => r.jset == s.cur.jset && r.lane == lane && r.pa == pa
def State.dropResp (s : State) : State :=
  s.onG fun g => { g with resp := g.resp.filter fun r => r.jset != s.cur.jset }

/-- A trap that answers of an access bring in lanes: the answers of the strands that take it are dropped, those of the others
stay for their execution of the instruction. -/
def State.failLanes (s : State) (bad : List (Nat × Trap)) : State :=
  let ks := s.trapping bad
  let s1 := if ks = s.ks then s.dropResp
    else s.onG fun g => { g with resp := g.resp.filter fun r => r.jset != s.cur.jset || !ks.contains (r.lane / 4) }
  s1.trapLanes bad

/-- Sends a request of a lane out of the package (R442, R450). A window without a port fails at once. -/
def State.sendRemote (s : State) (lane : Nat) (op : RemoteOp) (pa : Nat) (va : DWord) (size : Nat) (data : BitVec 128) : State :=
  let (id, s) := s.newKey
  let r : Remote := {
    id, group := s.gk, jset := s.cur.jset, lane, launch := s.g.launch, asid := s.asidOf s.g, op, pa, va, size, data
    team := s.g.team, index := s.g.index, core := s.g.core, strand := if lane < 64 then lane / 4 else s.leadK }
  match nodeOf pa with
  | .fabric w => match s.portOf w pa with
    | some p => { s with remotes := s.remotes ++ [{ r with
        window := some w, port := p, epoch := (s.window w).epoch
        pkg := (fld (s.window w).cfg 8 12).toNat, target := (s.window w).target pa }] }
    | none => if op = .store then { s with remotes := s.remotes ++ [{ r with window := some w, port := 64 }] }
        else s.onG fun g => { g with resp := g.resp ++ [{ jset := s.cur.jset, lane, pa, fail := some (0x10, 3) }] }
  | _ => { s with remotes := s.remotes ++ [r] }

/-! ## Events of the health log (R475) -/

/-- Writes a 64-byte record to the event ring, or counts it as lost (R474, R475). -/
def State.logEvent (s : State) (kind unit : Nat) (launch place : Nat) (detail : List Nat) : State :=
  let c := s.ctl
  if !c.heven || decide (c.hevtail - c.hevhead = BitVec.ofNat 64 (2 ^ c.hevsize)) then
    s.onCtl fun c => { c with hevlost := c.hevlost + 1 }
  else
    let e := c.hevtail + 1
    let a := c.hevbase.toNat + 64 * (e.toNat % 2 ^ c.hevsize)
    let body := (detail.take 10).zipIdx.flatMap fun (d, i) => cellsLE (a + 0x10 + 4 * i) d 4
    let zero := cellsLE a 0 64
    let s := s.devWrites (zero ++ cellsLE a kind 1 ++ cellsLE (a + 1) unit 1 ++ cellsLE (a + 4) launch 4 ++
      cellsLE (a + 8) place 8 ++ body ++ cellsLE (a + 0x38) e.toNat 8) none
    s.onCtl fun c => { c with hevtail := e, msix := if c.hevint then c.msix ++ [1024] else c.msix }

/-- A meaning's outcome: the next state, its memory writes applied. -/
def ran (s0 s1 : State) : Host.Outcome State Fault Refusal := .next (commit s0 s1)

end Sys2Proof.Machine
end

