-- ==== Sys2Proof/Machine/Flags.lean ====
section
/-!
DEFINITION. Elements of lane words and the truth values that comparisons write into predicates.
-/
namespace Sys2Proof.Machine

/-! ## Elements of a value (R41, R107, R145) -/

/-- Width in bits of an element of a MODE type. -/
def typeBits (t : Nat) : Nat :=
  match t with
  | 2 | 3 | 9 | 10 => 16 | 4 | 5 => 8 | 6 | 7 => 64 | _ => 32

/-- Elements of a MODE type in one value. -/
def typeCount (t : Nat) : Nat :=
  match t with
  | 2 | 3 | 9 | 10 => 2 | 4 | 5 => 4 | _ => 1

/-- Words of one value: a pair under the 64-bit types (R25). -/
def typeWords (t : Nat) : Nat := if t = 6 ∨ t = 7 then 2 else 1

/-- The integer type reads its elements as signed (R107). -/
def typeSigned (t : Nat) : Bool := t % 2 == 0

def intType (t : Nat) : Bool := decide (t < 8)
def floatType (t : Nat) : Bool := decide (8 ≤ t ∧ t ≤ 10)

/-- The floating format of a MODE type. -/
def typeFmt (t : Nat) : Fmt := if t = 9 then f16 else if t = 10 then bf16 else f32

/-- A value's words as one number, the first word lowest (R8, R25). -/
def joinWords : List Word → Nat
  | [] => 0
  | w :: ws => w.toNat + 2 ^ 32 * joinWords ws

/-- The n words of a number. -/
def splitWords (x : Nat) : Nat → List Word
  | 0 => []
  | n + 1 => BitVec.ofNat 32 x :: splitWords (x / 2 ^ 32) n

/-- Element e of width w of a value. -/
def elemNat (w : Nat) (x : List Word) (e : Nat) : Nat := joinWords x / 2 ^ (w * e) % 2 ^ w

/-- Element e of a value read as an integer of a type (R107). -/
def elemInt (t : Nat) (x : List Word) (e : Nat) : Int :=
  wrapInt (typeBits t) (typeSigned t) (elemNat (typeBits t) x e : Int)

/-- A number as bits of width w. -/
def toBits (w : Nat) (x : Int) : Nat := (x % 2 ^ w).toNat

/-- A value of n words from elements of width w, element 0 lowest. -/
def packElems (w n : Nat) (xs : List Nat) : List Word :=
  splitWords (xs.foldr (fun x a => x % 2 ^ w + 2 ^ w * a) 0) n

/-- Element e of a value as a float of a format, flushed under MODE.ftz (R48). -/
def elemFlt (f : Fmt) (ftz : Bool) (x : List Word) (e : Nat) : FVal :=
  f.decode (f.flush ftz (elemNat (1 + f.eb + f.fb) x e))

/-! ## Comparisons (R91, R131, R139, R148) -/

/-- A condition on the order of two values. -/
def condHolds (c : Cond) (lt eq : Bool) : Bool :=
  match c with
  | .eq => eq | .ne => !eq | .lt => lt | .le => lt || eq | .gt => !lt && !eq | .ge => !lt

def condInt (c : Cond) (x y : Int) : Bool := condHolds c (decide (x < y)) (decide (x = y))

/-- A comparison with a NaN operand is false, and true for ne (R148). -/
def condFlt (c : Cond) (x y : FVal) : Bool :=
  if x.isNan || y.isNan then c == .ne else condHolds c (decide (cmpVal x y < 0)) (decide (cmpVal x y = 0))

/-- The condition of a comparison holds for every element pair (R139). -/
def condVec (c : Cond) (t : Nat) (x y : List Word) : Bool :=
  (List.range (typeCount t)).all fun e => condInt c (elemInt t x e) (elemInt t y e)

def condVecFlt (c : Cond) (t : Nat) (ftz : Bool) (x y : List Word) : Bool :=
  (List.range (typeCount t)).all fun e => condFlt c (elemFlt (typeFmt t) ftz x e) (elemFlt (typeFmt t) ftz y e)

/-- Writes one value into predicate k of every lane of the issuing set (R26). -/
def State.putPred (s : State) (k : Nat) (b : Bool) : State :=
  let ls := s.setLanes
  s.onG fun g => ls.foldl (fun g l => g.putP k l b) g

/-- Writes a predicate lane by lane in the active lanes (R26). -/
def State.putPreds (s : State) (k : Nat) (f : Nat → Bool) : State :=
  let ls := s.lanes
  s.onG fun g => ls.foldl (fun g l => g.putP k l (f l)) g

end Sys2Proof.Machine
end

