-- ==== Sys2Proof/Machine/Operands.lean ====
section
/-!
DEFINITION. The operand forms: which codes a field accepts (R19-R25), the order of operand traps (R24), the
queue registers' waits and pops (R205-R209, R301, R305), and the reading and writing of operands.
-/
namespace Sys2Proof.Machine

/-! ## Operand classes (R18, R21, R22, R402) -/

/-- The per-lane operands of an instruction: each source and destination with the words it spans. `noq` marks a
destination that is also read, or not written in every active lane: no q code stands there. -/
structure Uses where
  srcs : List (Reg × Nat) := []
  dsts : List (Reg × Nat) := []
  noq : Bool := false
  typeOk : Bool := true
deriving DecidableEq, Repr

/-- The group has a partner in its team (R208); a traveller has none (R402). -/
def State.hasPartner (s : State) : Bool :=
  s.g.trav.isNone && decide (s.g.index ^^^ 1 < s.lau.lrec.groups)

/-- A v code in a pair is even, in a quad a multiple of 4 (R25, R95). -/
def misaligned (i words : Nat) : Bool := decide (i % words ≠ 0)

/-- An s register that a traveller may not name (R402). -/
def State.foreignS (s : State) (i : Nat) : Bool := s.lau.travel && decide (16 ≤ i)

/-- A source of the given words breaks R21 (trap 0x03). -/
def State.badSrc (s : State) (r : Reg) (words : Nat) : Bool :=
  match r with
  | .v i => misaligned i.val words
  | .q i => words != 1 || !(i.val == 2 || i.val == 3 || i.val == 5 || (i.val == 7 && s.hasPartner))
  | .s i => words == 4 || s.foreignS i.val

/-- A destination of the given words breaks R21. -/
def State.badDst (s : State) (r : Reg) (words : Nat) (noq : Bool) : Bool :=
  match r with
  | .v i => misaligned i.val words
  | .q i => words != 1 || noq ||
      !(i.val == 0 || i.val == 1 || (i.val == 4 && floatType (mType s.mode)) || (i.val == 6 && s.hasPartner))
  | .s _ => true

/-- A field that must hold an s code holds another, or one a traveller may not name. -/
def State.badS (s : State) (r : Reg) : Bool := match r with | .s i => s.foreignS i.val | _ => true

/-- A register at or above H among those an operand spans (R22). -/
def Group.notHeld (g : Group) (r : Reg) (words : Nat) : Bool :=
  match r with | .v i => decide (g.held < i.val + words) | _ => false

/-- The operand trap of an instruction: 0x03 before 0x04 (R24). -/
def State.operandTrap (s : State) (u : Uses) : Option Trap :=
  if !u.typeOk || u.srcs.any (fun x => s.badSrc x.1 x.2) || u.dsts.any (fun x => s.badDst x.1 x.2 u.noq) then
    some { cause := 0x03 }
  else if (u.srcs ++ u.dsts).any fun x => s.g.notHeld x.1 x.2 then some { cause := 0x04 }
  else none

/-! ## Queue registers (R205-R209, R301-R305) -/

/-- The queues a list of operands names, in field order. -/
def queuesOf (rs : List (Reg × Nat)) : List Nat :=
  rs.filterMap fun x => match x.1 with | .q i => some i.val | _ => none

/-- Each queue popped with the number of pops. -/
def Uses.pops (u : Uses) : List (Nat × Nat) :=
  let qs := queuesOf u.srcs
  (List.range 16).filterMap fun q => if qs.contains q then some (q, qs.count q) else none

def Uses.pushes (u : Uses) : List (Nat × Nat) := (queuesOf u.dsts).map fun q => (q, 1)

/-- Key of a group's partner: the group with index i xor 1 in the same team (R208). -/
def State.partner (s : State) (g : Group) : Option Nat :=
  (s.groups.find? fun e => e.2.launch == g.launch && e.2.team == g.team && e.2.index == g.index ^^^ 1).map (·.1)

/-- The partner has ended (R208, R209). -/
def State.partnerEnded (s : State) (g : Group) : Bool :=
  match s.partner g with | some k => !(s.grp k).live | none => true

/-- A lane is active for its strand (R16), whichever set issues. -/
def Group.laneActive (g : Group) (l : Nat) : Bool :=
  let x := g.strand (l / 4)
  !x.ended && x.amask.getLsbD (l % 4) && (!mGuard x.mode || xor (g.pr (mGuardP x.mode) l) (mNeg x.mode))

def Group.activeOf (g : Group) (j : Nat) : List Nat :=
  g.laneNos.filter fun l => (g.members j).contains (l / 4) && g.laneActive l

/-- The configuration the group's next tile opens with (R300, R305). -/
def GlzRank.coming (z : GlzRank) : Option GlzCfg := match z.pend with | some c => some c | none => z.cfg

/-- How many words are still to come for a lane's q2, q3 or q5 (R209, R305). Of q3, the two of an aggregate count for every
lane with elements of its tile until it is delivered, whichever of them gets it. Where no configuration is pending or in force,
the words that q1 holds count for nothing to come in q2: R305 speaks of the pending one and of the one in force only (DESIGN
CHOICE, unsafe, log 103). -/
def Group.toCome (g : Group) (q l : Nat) : Nat :=
  match q with
  | 2 =>
    let stored := (g.glz.store.filter fun e => !e.1 && e.2.1 == l).length
    let inTile := match g.glz.tile with
      | some t => if t.cfg.noh then 0 else ((t.elems.drop t.moved).filter (·.lane == l)).length
      | none => 0
    let waiting := match g.glz.coming with
      | some c => if c.noh then 0 else (g.q1.filter (·.1 == l)).length
      | none => 0
    stored + inTile + waiting
  | 3 =>
    let stored := (g.glz.store.filter fun e => e.1 && e.2.1 == l).length
    let inTile := match g.glz.tile with
      | some t => if !t.closed && t.cfg.agg && t.elems.any (·.lane == l) then 2 else 0
      | none => 0
    let elsewhere := 2 * (g.glz.owed.filter fun e => e.1 != l && e.2.contains l).length
    stored + inTile + elsewhere
  | 5 => (g.args l).length
  | _ => 0

/-- The trap of a pop that can never be satisfied, or of a glaze queue used without a rank, in a group's given lanes, with
the lanes it arises in (R209, R301, R305). An instruction that pops a queue twice is judged pop by pop (log 84). -/
def State.queueTraps (s : State) (g : Group) (lanes : List Nat) (needs : List (Nat × Nat)) : List (Nat × Trap) :=
  let lack (q n l : Nat) : Bool := decide ((g.queued q l).length < n)
  let never (q n l : Nat) : Bool := lack q n l && decide ((g.queued q l).length + g.toCome q l < n)
  let arises (t : Trap) (p : Nat → Bool) : Option (List (Nat × Trap)) :=
    if lanes.any p then some ((lanes.filter p).map fun l => (l, t)) else none
  (needs.findSome? fun e =>
    let q := e.1
    let n := e.2
    if q = 0 ∨ q = 1 then
      if !g.glz.joined then arises { cause := 0x30, detail := 3 } fun _ => true
      else if q == 0 && (match g.glz.cfg with | some c => decide (4 ≤ c.code.toNat) | none => false) then
        arises { cause := 0x30, detail := 5 } fun _ => true
      else none
    else if q = 2 ∨ q = 3 then
      arises (if g.glz.joined then { cause := 0x32, detail := 6 } else { cause := 0x30, detail := 3 }) (never q n)
    else if q = 5 then arises { cause := 0x32, detail := 2 } (never q n)
    else if q = 7 then if s.partnerEnded g then arises { cause := 0x32, detail := 2 } (lack q n) else none
    else none).getD []

/-- Queue q of a lane holds n entries, or has room for one where q is pushed (R206). The lane's q6 has room while fewer
than 8 of its words wait for the partner's q7 to take them (R205, log 15); a push to a partner that has ended needs no room
(R208). -/
def State.queueReady (s : State) (g : Group) (l q n : Nat) : Bool :=
  match q with
  | 0 => decide ((g.q0.filter (·.1 == l)).length < 8)
  | 1 => decide ((g.q1.filter (·.1 == l)).length < 8)
  | 4 => decide ((g.args l).length < 8)
  | 6 => match s.partner g with
    | some k => decide (((s.grp k).queued 7 l).length < 16) || s.partnerEnded g
    | none => true
  | _ => decide (n ≤ (g.queued q l).length)

/-- Every queue named has what every active lane needs of it (R206). -/
def State.queuesReady (s : State) (g : Group) (lanes : List Nat) (needs : List (Nat × Nat)) : Bool :=
  needs.all fun e => lanes.all fun l => s.queueReady g l e.1 e.2

/-- The wait of an instruction whose queues are not ready: a glaze wait where q2 or q3 lacks an entry. -/
def queueWait (needs : List (Nat × Nat)) : Wait :=
  if needs.any fun e => e.1 == 2 || e.1 == 3 then .glzPop needs else .queue needs

/-! ## Reading sources and popping (R19, R20, R25) -/

/-- The values of the sources in one lane, in field order; `popped` lists the queues popped so far. -/
def Group.srcVals (g : Group) (l : Nat) (popped : List Nat) : List (Reg × Nat) → List (List Word)
  | [] => []
  | (.v i, n) :: t => (List.range n).map (fun k => g.vr (i.val + k) l) :: g.srcVals l popped t
  | (.s i, n) :: t =>
    (if n = 2 then [(g.sr i.val).setWidth 32, fld (g.sr i.val) 32 32] else [(g.sr i.val).setWidth 32]) ::
      g.srcVals l popped t
  | (.q i, _) :: t => [(g.queued i.val l).getD (popped.count i.val) 0] :: g.srcVals l (i.val :: popped) t

/-- Removes the entries an instruction pops, in the given lanes. -/
def Group.popQueues (g : Group) (lanes : List Nat) (pops : List (Nat × Nat)) : Group :=
  pops.foldl (fun g e => lanes.foldl (fun g l => g.setQueued e.1 l ((g.queued e.1 l).drop e.2)) g) g

/-- Runs an instruction with per-lane operands: its operand traps, its queue traps and waits, then its pops, and the
rest with the values of its sources in each lane. -/
def State.withOperands (s : State) (u : Uses) (k : State → (Nat → List (List Word)) → State) : State :=
  match s.operandTrap u with
  | some t => s.trap t
  | none =>
    let needs := u.pops ++ u.pushes
    match s.queueTraps s.g s.lanes needs with
    | t :: ts => s.trapLanes (t :: ts)
    | [] =>
      if s.queuesReady s.g s.lanes needs then
        let g := s.g
        k (s.onG fun g => g.popQueues s.lanes u.pops) fun l => g.srcVals l [] u.srcs
      else s.await (queueWait needs)

/-! ## Writing destinations (R19, R20, R207, R208, R301) -/

/-- Writes the words of a value from register i up in one lane. -/
def Group.putWords (g : Group) (i l : Nat) : List Word → Group
  | [] => g
  | w :: ws => (g.putV i l w).putWords (i + 1) l ws

/-- Pushes a word to a queue from one lane. A push to q4 carries the type, rounding, flush, function, PC and draws of
the pushing instruction, whose issue found the special-function selector at `fn` (R207, R223); a push to q6 goes on to the
partner's q7, or is discarded when the partner has ended. -/
def State.pushFn (s : State) (fn : BitVec 4) (q l : Nat) (w : Word) : State :=
  match q with
  | 0 => s.onG fun g => { g with q0 := g.q0 ++ [(l, w)] }
  | 1 => s.onG fun g => { g with q1 := g.q1 ++ [(l, w)] }
  | 4 =>
    let n := if mRound s.mode = 5 then typeCount (mType s.mode) else 0
    let m := s.mode
    let pc := s.pc
    s.onG fun g =>
      let a : SfuArg := { value := w, type := fld m 5 4, round := fld m 9 3, ftz := mFtz m, fn, draws := srgDraws (g.gen l) n, pc }
      let g := g.drawn l n
      { g with sfu := tput [] g.sfu l (g.args l ++ [a]) }
  | 6 => match s.partner s.g with
    | some k => if s.partnerEnded s.g then s else s.onGrp k fun g => g.setQueued 7 l (g.queued 7 l ++ [w])
    | none => s
  | _ => s

def State.push (s : State) (q l : Nat) (w : Word) : State := s.pushFn s.g.sfufn q l w

/-- Writes results, lane by lane in increasing order, to a v or q destination. -/
def State.writeDst (s : State) (d : Reg) (rs : List (Nat × List Word)) : State :=
  match d with
  | .v i => s.onG fun g => rs.foldl (fun g r => g.putWords i.val r.1 r.2) g
  | .q i => rs.foldl (fun s r => s.push i.val r.1 (r.2.headD 0)) s
  | .s _ => s

/-- Writes the results of an access that issued earlier: pushes take the selector of its issue, and registers that have left
the group meanwhile are not written (R202, R223, log 79). -/
def State.writeLate (s : State) (b : Begun) (d : Reg) (rs : List (Nat × List Word)) : State :=
  match d with
  | .v i => s.onG fun g => rs.foldl (fun g r => g.putWords i.val r.1 (r.2.take (g.held - i.val))) g
  | .q i => rs.foldl (fun s r => s.pushFn b.fn i.val r.1 (r.2.headD 0)) s
  | .s _ => s

/-- Advances the generators of the active lanes by n draws each (R51). -/
def State.drawAll (s : State) (n : Nat) : State :=
  let ls := s.lanes
  s.onG fun g => ls.foldl (fun g l => g.drawn l n) g

/-- The draws per lane of n rounding steps: none but under mode 5 (R51). -/
def drawCount (m : BitVec 24) (n : Nat) : Nat := if mRound m = 5 then n else 0

/-- A vector instruction that writes one destination: in each active lane the words f gives from the lane, the
sources, the old destination words and the lane's draws; a lane f gives nothing for keeps its destination. -/
def State.vecOp (s : State) (u : Uses) (d : Reg) (steps : Nat) (words : Nat)
    (f : Nat → List (List Word) → List Word → List Word → Option (List Word)) (len : Nat) : State :=
  s.withOperands u fun s1 vals =>
    let g := s.g
    let n := drawCount s.mode steps
    let old (l : Nat) : List Word := match d with
      | .v i => (List.range words).map fun k => g.vr (i.val + k) l | _ => []
    let rs := s.lanes.filterMap fun l => (f l (vals l) (old l) (srgDraws (g.gen l) n)).map fun ws => (l, ws)
    s.done ((s1.drawAll n).writeDst d rs) len

/-- A vector instruction that writes a predicate in each active lane (R26). -/
def State.vecPred (s : State) (u : Uses) (pd : BitVec 3) (f : Nat → List (List Word) → Bool) : State :=
  s.withOperands u fun s1 vals => s.done (s1.putPreds pd.toNat fun l => f l (vals l)) 1

/-! ## Scalar instructions (R106, R130) -/

/-- The index of an s code. -/
def regIdx : Reg → Nat | .v i => i.val | .q i => i.val | .s i => i.val

/-- Runs a scalar instruction once its s fields are checked (R21, R402). -/
def State.withScalars (s : State) (rs : List Reg) (k : State) : State :=
  if rs.any s.badS then s.trap { cause := 0x03 } else k

def State.rdS (s : State) (r : Reg) : DWord := s.g.sr (regIdx r)
def State.wrS (s : State) (r : Reg) (x : DWord) : State := s.onG fun g => g.putS (regIdx r) x

/-- A scalar instruction that writes s[d] (R130, R132, R133). -/
def State.scalarOp (s : State) (rs : List Reg) (d : Reg) (x : DWord) (len : Nat) : State :=
  s.withScalars (d :: rs) (s.done (s.wrS d x) len)

end Sys2Proof.Machine
end

