-- ==== Sys2Proof/Machine/Control.lean ====
section
/-!
DEFINITION. Control transfer, divergence, regang, loops, software traps and their return, mode setting,
barriers and the palette (R111-R128, R191-R204, R213, R214).
-/
namespace Sys2Proof.Machine

/-! ## Transfers (R111-R119) -/

/-- A branch target: the branch word's address plus 4 times a signed offset (R84). -/
def branchTo {n : Nat} (pc : DWord) (off : BitVec n) : DWord := pc + off.signExtend 64 * 4

/-- Every strand of the set transfers to one target, checked first; f gives the other effects (R117, R119). -/
def State.jumpAll (s : State) (t : DWord) (entry : Bool) (f : Strand → Strand) : State :=
  match s.checkTarget s.g t entry with
  | some e => s.trap e
  | none => s.retire (s.onSet fun x => ({ f x with pc := t }).arrive [2, 1, 0])

def execNop (s : State) : Host.Outcome State Fault Refusal := ran s (s.done s 1)

def execBra (off : BitVec 24) (s : State) : Host.Outcome State Fault Refusal :=
  ran s (s.jumpAll (branchTo s.pc off) false id)

/-- The lanes of a strand that take a conditional branch (R118). -/
def Group.takes (g : Group) (k : Nat) (p : Nat) (neg : Bool) : BitVec 4 :=
  let bit (i : Nat) : Bool := (g.strand k).amask.getLsbD i && xor (g.pr p (4 * k + i)) neg
  BitVec.ofBool (bit 3) ++ BitVec.ofBool (bit 2) ++ BitVec.ofBool (bit 1) ++ BitVec.ofBool (bit 0)

/-- BRC in one strand (R118): not taken, taken whole, or split with one path parked. -/
def Strand.branch (x : Strand) (taken : BitVec 4) (t : DWord) (bad : Option Trap) : Except Trap Strand :=
  let rest := x.amask &&& ~~~taken
  if taken = 0 then .ok (x.pass 1)
  else match bad with
    | some e => .error e
    | none =>
      if rest = 0 then .ok (({ x with pc := t }).arrive [2, 1, 0])
      else if x.pc.ult t then
        match x.push taken t with
        | some y => .ok (({ y with amask := rest }).pass 1)
        | none => .error { cause := 0x07 }
      else
        match x.push rest (seqNext x.pc 1) with
        | some y => .ok (({ y with amask := taken, pc := t }).arrive [2, 1, 0])
        | none => .error { cause := 0x07 }

def execBrc (p : BitVec 3) (neg : Bool) (off : BitVec 20) (s : State) : Host.Outcome State Fault Refusal :=
  let t := branchTo s.pc off
  let bad := s.checkTarget s.g t false
  ran s (s.perStrand fun k x => x.branch (s.g.takes k p.toNat neg) t bad)

/-- CALL: an entry target; the link register is written only when the check passes. -/
def execCall (off : BitVec 24) (s : State) : Host.Outcome State Fault Refusal :=
  ran s (s.jumpAll (branchTo s.pc off) true fun x => { x with lk := lk57 (seqNext x.pc 1) })

/-- RET: each strand to its own link register. -/
def execRet (s : State) : Host.Outcome State Fault Refusal :=
  ran s (s.perStrand fun _ x => match s.checkTarget s.g x.lk false with
    | some e => .error e
    | none => .ok (({ x with pc := x.lk }).arrive [2, 1, 0]))

def execJmpr (a : Reg) (s : State) : Host.Outcome State Fault Refusal :=
  ran s (s.withScalars [a] (s.jumpAll (s.rdS a) false id))

/-! ## REGANG (R120, R121, R191) -/

/-- When every strand of a group that has not ended has arrived, they form one joined set past the REGANG, or all
trap where MODE or PREC differ. -/
def State.gather (s : State) (orig : State) (gk : Nat) : State :=
  let g := s.grp gk
  let live := (List.range g.strands.length).filter fun k => !(g.strand k).ended
  match live with
  | [] => s
  | k0 :: _ =>
    if live.all fun k => (g.strand k).arrived then
      let x0 := g.strand k0
      if live.all fun k => (g.strand k).mode == x0.mode && (g.strand k).prec == x0.prec then
        let s1 := s.onGrp gk fun g => live.foldl (fun g k => g.onStrand k fun x =>
          { x with jset := x0.jset, arrived := false, wait := none }) g
        let cur : Cur := { group := gk, jset := x0.jset }
        State.done { orig with cur } { s1 with cur } 1
      else g.sets.foldl (fun s j => s.takeTrap gk ((s.grp gk).members j) { cause := 0x08 } false) s
    else s

/-- What a strand does at the REGANG at its PC: traps, runs the path on top of its stack, or arrives. -/
inductive RegangDoes where
  | trap | pop (x : Strand) | arrive (x : Strand)
deriving DecidableEq, Repr

def Strand.regang (x : Strand) (elsewhere : Bool) : RegangDoes :=
  if x.parked ≠ 0 ∧ x.parkPc ≠ x.pc then .trap
  else match x.stack with
    | e :: st => .pop (({ x with parked := x.parked ||| x.amask, parkPc := x.pc, amask := e.mask, stack := st, pc := e.pc } : Strand).arrive [2, 1, 0])
    | [] => if elsewhere then .trap else .arrive { x with amask := x.amask ||| x.parked, parked := 0, arrived := true }

def State.regang (s : State) : State :=
  let gk := s.gk
  let g := s.g
  let ks := s.ks
  let r := s.pc
  let elsewhere := g.strands.any fun x => !x.ended && x.arrived && x.pc != r
  let does (k : Nat) := (g.strand k).regang elsewhere
  let bad := ks.filter fun k => match does k with | .trap => true | _ => false
  let pops := ks.filterMap fun k => match does k with | .pop x => some (k, x) | _ => none
  let arr := ks.filterMap fun k => match does k with | .arrive x => some (k, x) | _ => none
  if bad.length = ks.length then s.trap { cause := 0x08 }
  else
    let s := if bad.isEmpty then s else s.takeTrap gk bad { cause := 0x08 } true
    let s1 := s.onCtl fun c => { c with waitSeq := c.waitSeq + 1 }
    let s1 := s1.onGrp gk fun g => arr.foldl (fun g e =>
      g.setStrand e.1 { e.2 with wait := some .regang, waitSeq := s1.ctl.waitSeq }) g
    let s1 := if pops.isEmpty then s1
      else
        let s1 := if arr.isEmpty then s1 else s1.setApart gk (arr.map (·.1))
        s.retire (s1.onGrp gk fun g => pops.foldl (fun g e => g.setStrand e.1 e.2) g)
    s1.gather s gk

def execRegang (s : State) : Host.Outcome State Fault Refusal := ran s s.regang

/-! ## Barriers (R193-R196) -/

/-- Completes every phase of a team's barriers in which each strand has arrived or ended. -/
def State.barSweep (s : State) (launch team : Nat) : State :=
  let mine := s.groups.filter fun e => e.2.launch == launch && e.2.team == team
  let isOver (n : Nat) : Bool := mine.all fun e => e.2.strands.all fun x => x.ended || x.barPend.getLsbD n
  let clear := (List.range 16).foldl (fun (m : BitVec 16) n => if isOver n then m ||| ((1 : BitVec 16) <<< n) else m) 0
  mine.foldl (fun s e => s.onGrp e.1 fun g =>
    { g with strands := g.strands.map fun x => { x with barPend := x.barPend &&& ~~~clear } }) s

/-- Strands of the issuing set record their arrival at barrier n. An arrival of the set's other strands makes a release of its
own (R195). -/
def State.arriveAt (s : State) (ks : List Nat) (n : Nat) : State :=
  let s := s.onG fun g => ks.foldl (fun g k => g.onStrand k fun x =>
    { x with barPend := x.barPend ||| ((1 : BitVec 16) <<< n), barMark := some n }) g
  let s := s.onSet fun x => { x with released := false }
  s.barSweep s.g.launch s.g.team

/-- BAR and BARA: strands without a pending arrival arrive, after a release where the order asks for one; the set goes
on when every strand has arrived, and for BAR when its phase has completed. -/
def State.barrier (s : State) (n : Nat) (stay : Bool) : State :=
  let todo := s.ks.filter fun k => let x := s.g.strand k; x.barMark.isNone && !x.barPend.getLsbD n
  let go (s1 : State) : State :=
    if s1.allSet fun x => x.barMark.isSome && (!stay || !x.barPend.getLsbD n) then
      s1.done (s1.acquire (stay && mAcquire s.mode)) 1
    else s1.await (.barrier n)
  if todo.isEmpty then go s else s.afterRelease (mRelease s.mode) fun s => go (s.arriveAt todo n)

/-- BAR, BARA and BARW raise 0x03 in a travel launch (R402). -/
def State.teamOnly (s : State) (k : State) : State := if s.lau.travel then s.trap { cause := 0x03 } else k

def execBar (imm : BitVec 8) (s : State) : Host.Outcome State Fault Refusal :=
  ran s (s.teamOnly (s.barrier imm.toNat true))
def execBara (imm : BitVec 8) (s : State) : Host.Outcome State Fault Refusal :=
  ran s (s.teamOnly (s.barrier imm.toNat false))
/-- BARW: a wait that ends performs the acquire; without a pending arrival it does nothing (R194, R195). -/
def execBarw (imm : BitVec 8) (s : State) : Host.Outcome State Fault Refusal :=
  ran s (s.teamOnly (if s.allSet fun x => !x.barPend.getLsbD imm.toNat then
      s.done (s.acquire (s.lead.issued && mAcquire s.mode)) 1
    else (s.onSet fun x => { x with issued := true }).await (.barrier imm.toNat)))

/-! ## EXIT (R115, R116, R312) -/

/-- EXIT in one strand: the path on top of its stack runs, or the lanes parked at a REGANG arrive there, or the strand
ends. -/
def Strand.exit (x : Strand) : Strand :=
  match x.stack with
  | e :: st => ({ x with amask := e.mask, stack := st, pc := e.pc } : Strand).arrive [2, 1, 0]
  | [] =>
    if x.parked ≠ 0 then { x with amask := x.parked, parked := 0, pc := x.parkPc }
    else { x with amask := 0, ended := true }

def execExit (s : State) : Host.Outcome State Fault Refusal :=
  let pc := s.pc
  let s1 := s.perStrand fun _ x => .ok x.exit
  let s1 := if (s1.grp s.gk).live then s1 else s1.onGrp s.gk fun g => { g with endPc := pc }
  ran s ((s1.barSweep s.g.launch s.g.team).gather s1 s.gk)

/-! ## Loops (R122-R125) -/

/-- The address n words after b in sequence, headers skipped, for b in a slot (R80). -/
def wordsAfter (b : DWord) (n : Nat) : DWord :=
  let p := b.toNat / 128 * 31 + (b.toNat % 128 / 4 - 1) + n
  BitVec.ofNat 64 (p / 31 * 128 + (p % 31 + 1) * 4)

/-- LOOP: the body's first word and the word after it are checked at issue. -/
def execLoop (k : BitVec 2) (cnt : BitVec 6) (len : BitVec 16) (s : State) : Host.Outcome State Fault Refusal :=
  let b := seqNext s.pc 1
  let e := wordsAfter b len.toNat
  let c := min (s.g.sr cnt.toNat).toNat (2 ^ 32 - 1)
  ran s <| if s.foreignS cnt.toNat then s.trap { cause := 0x03 }
    else match s.checkTarget s.g b false with
    | some t => s.trap t
    | none => match s.checkTarget s.g e false with
      | some t => s.trap t
      | none => s.retire (s.onSet fun x =>
          ({ (x.setLoop k.toNat { count := BitVec.ofNat 32 c, start := b, stop := e }) with pc := if c = 0 then e else b }).arrive [2, 1, 0])

/-- LEAVE: in each strand on its own level; then the loop-end rule for the lower levels. -/
def execLeave (k : BitVec 2) (s : State) : Host.Outcome State Fault Refusal :=
  ran s (s.perStrand fun _ x =>
    let v := x.loop k.toNat
    if v.count = 0 then .ok (x.pass 1)
    else match s.checkTarget s.g v.stop false with
      | some t => .error t
      | none => .ok (({ (x.setLoop k.toNat { v with count := 0 }) with pc := v.stop }).arrive
          ([1, 0].filter fun i => decide (i < k.toNat))))

/-! ## MODE, PREC, LIVE (R31, R34, R126, R419) -/

def execSetm (imm : BitVec 24) (s : State) : Host.Outcome State Fault Refusal :=
  ran s (if modeReserved imm then s.trap { cause := 0x02 } else s.done (s.onSet fun x => { x with mode := imm }) 1)

/-- The values PREC takes (R33). -/
def precOk (p : Byte) : Bool := decide (8 ≤ p.toNat ∧ p.toNat ≤ 237)

def execSetp (imm : BitVec 8) (s : State) : Host.Outcome State Fault Refusal :=
  ran s (if precOk imm then s.done (s.onSet fun x => { x with prec := imm }) 1 else s.trap { cause := 0x06 })

def execSetlive (a : Reg) (s : State) : Host.Outcome State Fault Refusal :=
  ran s (s.withScalars [a] (s.done (s.onSet fun x => { x with live := s.rdS a }) 1))

/-! ## TRAP, TRET, ILL and undefined opcodes (R89, R90, R127, R213) -/

def execTrap (imm : BitVec 16) (s : State) : Host.Outcome State Fault Refusal :=
  ran s (s.trap { cause := 0x38, taddr := s.pc, imm, low := 1 })

/-- The trap of an undefined opcode: TADDR its address, TINFO[7:0] the opcode. -/
def State.undefinedTrap (s : State) (op : Byte) : State := s.trap { cause := 0x01, taddr := s.pc, low := op }

def execIll (s : State) : Host.Outcome State Fault Refusal := ran s (s.undefinedTrap 0xF0)
def execUndefinedOpcode (op : BitVec 8) (s : State) : Host.Outcome State Fault Refusal := ran s (s.undefinedTrap op)

/-- TRET: each strand resumes at TPC, or after the word there when TINFO bit 0 is 1. A word that cannot be fetched
leaves the PC at TPC, where the fetch raises the fault. -/
def execTret (s : State) : Host.Outcome State Fault Refusal :=
  ran s (s.perStrand fun _ x =>
    if !x.handler then .error { cause := 0x11 }
    else
      let pc := if x.tinfo.getLsbD 0 then
          match s.fetch s.g x.tpc with
          | .ok w => seqNext x.tpc (if takesExtension (fld w 24 8) then 2 else 1)
          | .error _ => x.tpc
        else x.tpc
      .ok (({ x with pc, handler := false }).arrive [2, 1, 0]))

/-! ## WAITT and YIELD (R128, R214) -/

def execWaitt (imm : BitVec 8) (s : State) : Host.Outcome State Fault Refusal :=
  ran s (if (List.range 8).all fun t => !imm.getLsbD t || (s.g.token t).state != 1 then s.done s 1 else s.await (.token imm))

/-- YIELD only advances the PC; its issue does not restart the core's count of R217 (State.prepare). -/
def execYield (s : State) : Host.Outcome State Fault Refusal := ran s (s.done s 1)

/-! ## The palette (R197-R204) -/

/-- Units a group of a width holds for some registers. -/
def unitsOf (regs width : Nat) : Nat := regs / 16 * (width / 16)

/-- Free units of a partition: 128 less those of resident groups and of a travel holder's carrier groups (R181,
R407). -/
def State.freeUnits (s : State) (core part : Nat) : Nat :=
  let held := ((s.groups.filter fun e => e.2.core == core && e.2.part == part && e.2.trav.isNone && !e.2.restoring).map
    fun e => unitsOf e.2.held e.2.width).sum
  let hold := match (s.core core).holder with | some h => 8 * ((s.launch h.launch).lrec.base / 16) | none => 0
  128 - (held + hold)

/-- Grants a claim: the group grows and the claiming set is told. -/
def State.grant (s : State) (c : Claim) : State :=
  match tfind s.groups c.group with
  | none => s
  | some g => s.setGrp c.group
      { (g.onSet c.jset fun x => { x with issued := true }) with held := g.held + c.units * 16 / g.width * 16 }

/-- A restore is granted its units: the strands of the group that wait for nothing are ready from now on (R189, R203). -/
def State.grantRestore (s : State) (core part k : Nat) : State :=
  let now := s.nowAt core part
  s.onGrp k fun g => { g with
    restoring := false, strands := g.strands.map fun x => if x.wait.isNone then { x with readyAt := now } else x }

/-- Serves the restores of a partition while the free units cover them; false when one must wait (R184, R203). The manual
gives no order among them: they are served in the order of their group keys, and one that does not fit holds up the rest
(DESIGN CHOICE, unsafe, log 83). -/
def State.serveRestores (s : State) (core part : Nat) : List Nat → Bool × State
  | [] => (true, s)
  | k :: ks =>
    let g := s.grp k
    if unitsOf g.held g.width ≤ s.freeUnits core part then
      (s.grantRestore core part k).serveRestores core part ks
    else (false, s)

/-- A claim of a group that has grown since would now take it past its launch's ceiling (R22, R197). -/
def State.tooMuch (s : State) (c : Claim) : Bool :=
  let g := s.grp c.group
  decide ((s.launch g.launch).lrec.ceil < g.held + c.units * 16 / g.width * 16)

/-- Serves claims in order of arrival while the free units cover them (R198). One that the ceiling forbids by now is
withdrawn: its set executes its PALTAKE again, which traps (R22, R199, log 91). -/
def State.serveClaims (s : State) (core part : Nat) : List Claim → State
  | [] => s
  | c :: cs =>
    let gone := s.onCore core fun x => { x with claims := x.claims.erase c }
    if s.tooMuch c then gone.serveClaims core part cs
    else if c.units ≤ s.freeUnits core part then (gone.grant c).serveClaims core part cs
    else s

/-- Serves what waits for a partition's units: restores, then claims. -/
def State.serve (s : State) (core part : Nat) : State :=
  let rs := (s.groups.filter fun e => e.2.core == core && e.2.part == part && e.2.restoring).map (·.1)
  let (ok, s) := s.serveRestores core part rs
  if ok then s.serveClaims core part ((s.core core).claims.filter (·.part == part)) else s

/-- A claim of u units in the group's partition would be granted at once (R199). -/
def State.grantsNow (s : State) (u : Nat) : Bool :=
  let g := s.g
  (s.core g.core).claims.all (·.part != g.part) &&
    s.groups.all (fun e => !(e.2.core == g.core && e.2.part == g.part && e.2.restoring)) &&
    decide (u ≤ s.freeUnits g.core g.part)

def execPaltake (imm : BitVec 8) (s : State) : Host.Outcome State Fault Refusal :=
  let g := s.g
  let u := unitsOf (16 * imm.toNat) g.width
  ran s <| if s.lead.issued then s.done s 1
    else if s.lau.lrec.ceil < g.held + 16 * imm.toNat then s.trap { cause := 0x31, detail := 1 }
    else if s.grantsNow u then s.done (s.onG fun g => { g with held := g.held + 16 * imm.toNat }) 1
    else
      let c : Claim := { part := g.part, group := s.gk, jset := s.cur.jset, units := u }
      (s.onCore g.core fun x => { x with claims := x.claims ++ [c] }).await .palette

def execPaltry (pd : BitVec 3) (imm : BitVec 8) (s : State) : Host.Outcome State Fault Refusal :=
  let g := s.g
  ran s <| if s.lau.lrec.ceil < g.held + 16 * imm.toNat then s.trap { cause := 0x31, detail := 1 }
    else if s.grantsNow (unitsOf (16 * imm.toNat) g.width) then
      s.done ((s.onG fun g => { g with held := g.held + 16 * imm.toNat }).putPred pd.toNat true) 1
    else s.done (s.putPred pd.toNat false) 1

/-- PALGIVE: v(H) and above lose their contents, errors among them, and pending claims are served (R23, R201). -/
def execPalgive (imm : BitVec 8) (s : State) : Host.Outcome State Fault Refusal :=
  let g := s.g
  let h := g.held - 16 * imm.toNat
  ran s <| if g.held < s.lau.lrec.base + 16 * imm.toNat then s.trap { cause := 0x31, detail := 2 }
    else s.done ((s.onG fun g => { g with
      held := h, v := g.v.filter fun e => decide (e.1 / 64 < h), bad := g.bad.filter fun e => decide (e / 64 < h ∨ 2 ^ 14 ≤ e) }).serve g.core g.part) 1

end Sys2Proof.Machine
end

