-- ==== Sys2Proof/Machine/Memory.lean ====
section
/-!
DEFINITION. Scratchpad and global loads and stores, atomics, FENCE, PREF and INVL, and the events that end
outstanding accesses of the memory system (R230-R246, R382-R388).
-/
namespace Sys2Proof.Machine

/-! ## Addresses and their checks (R95, R233, R234) -/

/-- A memory operand of R95: [sb + va], or [va:va+1] with b = 0x00. -/
def State.badMem (s : State) (a b : Reg) : Bool :=
  match b, a with
  | .s i, .v _ => s.foreignS i.val
  | .v j, .v i => j.val != 0 || misaligned i.val 2
  | _, _ => true

/-- The address field as an operand: one word beside an s register, a pair without one. -/
def memUse (a b : Reg) : Reg × Nat := match b with | .s _ => (a, 1) | _ => (a, 2)

/-- A lane's address from the words of its address operand. -/
def State.laneAddr (s : State) (b : Reg) (ws : List Word) : Nat :=
  match b with
  | .s i => ((s.g.sr i.val).toNat + joinWords ws) % 2 ^ 64
  | _ => joinWords ws

/-- The asid and core of the issuing set's accesses. -/
def State.pcheck (s : State) (va : Nat) (acc : Acc) : Option (Byte × Byte) := s.pageCheck s.g.core (s.asidOf s.g) va acc false
def State.pa (s : State) (va : Nat) : Nat := s.paOf s.g.core (s.asidOf s.g) va
def State.vkey (s : State) (va : Nat) : Option Nat := s.keyOf s.g.core (s.asidOf s.g) va

/-- The trap of one address (R234). -/
def State.addrTrap (s : State) (va size : Nat) (acc : Acc) : Option Trap :=
  if va % size ≠ 0 then some { cause := 0x0A, taddr := BitVec.ofNat 64 va }
  else (s.pcheck va acc).map fun e => { cause := e.1, taddr := BitVec.ofNat 64 va, detail := e.2 }

/-- The traps of the lanes whose addresses fail, lanes in order. -/
def State.addrTraps (s : State) (vas : List (Nat × Nat)) (size : Nat) (acc : Acc) : List (Nat × Trap) :=
  vas.filterMap fun e => (s.addrTrap e.2 size acc).map fun t => (e.1, t)

/-- Addresses of lanes as accesses, translated. -/
def State.accesses (s : State) (vas : List (Nat × Nat)) : List Access :=
  vas.map fun e => { lane := e.1, va := e.2, pa := s.pa e.2, key := s.vkey e.2 }

/-- Holds the translations of the accesses in the TLB (R378). -/
def State.keepAll (s : State) (vas : List (Nat × Nat)) : State :=
  vas.foldl (fun s e => s.keepXlate s.g.core (s.asidOf s.g) e.2) s

/-! ## The issue of an access and its completion (R202, R223, R234, R382, R411) -/

/-- The lane number that stands for a scalar access: no lane's (R240, R244). -/
def scalarLane : Nat := 64

/-- Carries on with an access that has issued, or else issues it (R202): from its issue on, what it was checked against and
captured stands. -/
def State.resume (s : State) (issue : (Begun → State → State) → State) (go : Begun → State → State) : State :=
  match s.lead.begun with
  | some b => go b s
  | none => issue go

/-- Records what an access captures at its issue. `s1` has taken the pops of the instruction. -/
def State.begin (s1 : State) (b : Begun) (go : Begun → State → State) : State :=
  go b (s1.onSet fun x => { x with begun := some b })

/-- Issues an access of lanes at addresses: the checks of R234, those of a departure that the instruction makes (R411), and
the capture of the accesses with the data of the lanes. -/
def State.issue (s s1 : State) (vas : List (Nat × Nat)) (data : List Nat) (size : Nat) (acc : Acc)
    (go : Begun → State → State) : State :=
  match s.addrTraps vas size acc with
  | t :: ts => s.trapLanes (t :: ts)
  | [] => match s.departFails 1 with
    | some t => s.trap t
    | none => (s1.keepAll vas).begin { held := s.g.held, fn := s.g.sfufn, accs := s.accesses vas, data } go

/-! ## Loads (R235-R239) -/

/-- Two ranges of bytes share one. -/
def bytesMeet (a n b m : Nat) : Bool := decide (a < b + m ∧ b < a + n)

/-- Two outstanding accesses are lanes of one vector atomic (R243). -/
def sameUnit (r x : Load) : Bool :=
  r.group == x.group && match r.fly, x.fly with | some f, some g => f.unit != 0 && f.unit == g.unit | _, _ => false

/-- The outstanding accesses of a core that come before those the condition picks, byte by byte and lane by lane of one atomic, those
included, in issue order (R237, R243, R384). -/
def chainOf (p : Load → Bool) (rs : List Load) : List Load :=
  rs.foldr (fun r later => if p r || later.any (fun x => bytesMeet r.pa r.size x.pa x.size || sameUnit r x) then r :: later else later) []

/-- Fixes the value of a load of a group: its line, its bytes, and the poison it consumes (R235, R382). -/
def State.readNow (s : State) (gk pa size : Nat) (fresh : Bool) (key : Option Nat) : (BitVec 128 × Bool) × State :=
  let core := (s.grp gk).core
  let s := s.loadLine core (pa / 128) fresh true key
  ((BitVec.ofNat 128 (bytesLE (s.loadByte gk core) pa size), s.loadPoison gk core (pa / 128)), s.onCore core fun c => c.show gk pa size)

/-- Performs one atomic of a group at its home: the line leaves the core's buffer and L1, the old value is read and the new
one written, and the line signs (R241, R384, R386). A poisoned line is left as it is and gives nothing (R243). -/
def State.atomicFor (s : State) (gk pa size : Nat) (key : Option Nat) (f : Nat → Nat) : Option Nat × State :=
  let line := pa / 128
  let core := (s.grp gk).core
  let s := ((s.drainLine core line).settle line).useKey line key
  let s := s.onCore core fun c => c.dropL1 (· == line)
  if s.poisoned line then (none, s)
  else
    let old := bytesLE s.home pa size
    (some old, (s.writeHome line (cellsLE pa (f old) size) none key).sign gk line)

/-- The new value of an atomic on w bits (R242). For ACAS, `y` is the compare value and `z` the new one. -/
def atomicNew (op : RemoteOp) (w : Nat) (signed : Bool) (mode draw : Nat) (ftz : Bool) (lane : Nat) (pc : DWord)
    (old y z : Nat) : Nat :=
  let lt (a b : Nat) : Bool := decide (wrapInt w signed (a : Int) < wrapInt w signed (b : Int))
  match op with
  | .add => (old + y) % 2 ^ w
  | .min => if lt y old then y else old
  | .max => if lt old y then y else old
  | .and => old &&& y
  | .or => old ||| y
  | .xor => old ^^^ y
  | .xchg | .store => y
  | .cas => if old = y then z else old
  | .fadd => f32.finish mode draw ftz lane pc (addX mode (elemFlt f32 ftz [BitVec.ofNat 32 old] 0) (elemFlt f32 ftz [BitVec.ofNat 32 y] 0))
  | .load => old

/-- The value that an access brings, as the words its registers receive: 8 and 16 bits are extended (R239). -/
def Load.words (r : Load) (signed : Bool) (x : Nat) : List Word :=
  if r.size < 4 then [BitVec.ofInt 32 (wrapInt (8 * r.size) signed (x % 2 ^ (8 * r.size) : Nat))] else splitWords x (r.size / 4)

/-- The new value that a flight leaves of the old one (R242, R244). -/
def Load.newOf (r : Load) (f : Flight) (old : Nat) : Nat :=
  atomicNew f.op (8 * r.size) f.signed f.round f.draw f.ftz r.lane f.pc old f.y.toNat f.z.toNat

/-- Answers kept for the lanes of a vector atomic that flies stand under a set number of their own, from this one up. -/
def unitSets : Nat := 2 ^ 65

/-- Writes the value of a flight to its registers, those that have left the group apart (R202, log 79). -/
def Group.putFlight (g : Group) (r : Load) (f : Flight) (lane x : Nat) : Group :=
  match f.dst with
  | .s i => g.putS i (BitVec.ofNat 64 x)
  | .v i _ held => g.putWords i lane ((r.words f.signed x).take (held - i))

/-- A flight is performed with a value. The lanes of a vector atomic write their registers together, once the last of them is performed
(R243). -/
def State.landed (s : State) (r : Load) (f : Flight) (x : Nat) : State :=
  let set := unitSets + f.unit
  if f.unit = 0 then s.onGrp r.group fun g => g.putFlight r f r.lane x
  else if s.loads.any fun q => q.group == r.group && q.fly.map Flight.unit == some f.unit then
    s.onGrp r.group fun g => { g with resp := g.resp ++ [{ jset := set, lane := r.lane, pa := r.pa, data := BitVec.ofNat 128 x }] }
  else s.onGrp r.group fun g =>
    let g1 := (g.resp.filter (·.jset == set)).foldl (fun g e => g.putFlight r f e.lane e.data.toNat) g
    { g1.putFlight r f r.lane x with resp := g.resp.filter (·.jset != set) }

/-- A flight that finds poison stops its launch; the lanes of its atomic above it are not performed, and none writes a register
(R235, R243). -/
def State.flightLost (s : State) (r : Load) (f : Flight) : State :=
  let g := s.grp r.group
  let s := if f.unit = 0 then s
    else { s with loads := s.loads.filter fun q => !(q.group == r.group && q.fly.map Flight.unit == some f.unit) }.onGrp r.group fun g =>
      { g with resp := g.resp.filter (·.jset != unitSets + f.unit) }
  s.stopLaunch g.launch { kind := 1, cause := 0x3F, team := g.team, group := g.index, strand := f.strand, core := g.core, tpc := f.pc, taddr := f.va }

/-- The new value of a scalar atomic (R244). -/
def scalarNew (op : RemoteOp) (y z : DWord) (old : Nat) : Nat := atomicNew op 64 false 0 0 false 0 0 old y.toNat z.toNat

/-- Performs an outstanding access (R382): a load's value becomes its answer; a flight writes its registers, and where it
finds poison its launch stops (R235, R243). -/
def State.land (s : State) (r : Load) : State :=
  let s := { s with loads := s.loads.erase r }
  match r.fly with
  | none =>
    let ((data, bad), s) := s.readNow r.group r.pa r.size r.fresh r.key
    s.onGrp r.group fun g => { g with resp := g.resp ++ [{ jset := r.jset, lane := r.lane, pa := r.pa, data, fail := if bad then some (0x3F, 0) else none }] }
  | some f =>
    let (out, s) := if f.op = .load then
        let ((data, bad), s) := s.readNow r.group r.pa r.size r.fresh r.key
        (if bad then none else some data.toNat, s)
      else s.atomicFor r.group r.pa r.size r.key (r.newOf f)
    match out with
    | some x => s.landed r f x
    | none => s.flightLost r f

/-- Performs the outstanding accesses of a core that must come before some new access: those the condition picks and what
comes before them, but for lanes of an atomic that a lower lane's poison has ended. -/
def State.landBefore (s : State) (core : Nat) (p : Load → Bool) : State :=
  (chainOf p (s.loads.filter fun r => (s.grp r.group).core == core)).foldl (fun s r => if s.loads.contains r then s.land r else s) s

/-- Performs an outstanding access, after the earlier ones of its core to the same bytes (R237, R384). -/
def State.fixLoad (s : State) (r : Load) : State :=
  let before := s.loads.takeWhile (· != r)
  (s.landBefore (s.grp r.group).core fun x => x == r || (before.contains x && (bytesMeet x.pa x.size r.pa r.size || sameUnit x r)))

/-- Before a store or an atomic of the issuing set, the outstanding accesses of its group to the same bytes are performed
(R237); before a load, those of its core (R384). -/
def State.settleLoads (s : State) (accs : List Access) (size : Nat) (load : Bool) : State :=
  s.landBefore s.g.core fun r => (load || r.group == s.gk) && accs.any fun e => bytesMeet r.pa r.size e.pa size

/-- An access of the issuing set is outstanding for a lane at an address. -/
def State.pending (s : State) (lane pa : Nat) : Bool :=
  s.loads.any (fun r => r.group == s.gk && r.jset == s.cur.jset && r.lane == lane && r.pa == pa && r.fly.isNone) ||
    s.remotes.any fun r => r.group == s.gk && r.jset == s.cur.jset && r.lane == lane && r.pa == pa && r.op != .store

/-- A load of the issuing set as it stands outstanding. -/
def State.loadOf (s : State) (e : Access) (size : Nat) : Load :=
  { group := s.gk, jset := s.cur.jset, lane := e.lane, pa := e.pa, size, fresh := mAcquire s.mode && mScope s.mode != 0, key := e.key }

/-- Starts the loads of lanes that have neither an answer nor an outstanding access: out of the package, left to
LOAD_RESPONSE where the tape says so, or fixed at once. -/
def State.startLoads (s : State) (accs : List Access) (size : Nat) (lag : Bool) : State :=
  accs.foldl (fun s e =>
    if (s.respOf e.lane e.pa).isSome || s.pending e.lane e.pa then s
    else if outsidePa e.pa then s.sendRemote e.lane .load e.pa (BitVec.ofNat 64 e.va) size 0
    else if lag then { s with loads := s.loads ++ [s.loadOf e size] }
    else (s.settleLoads [e] size true).land (s.loadOf e size)) s

/-- Loads of lanes at checked addresses: the rest once every one has its answer. -/
def State.loadAll (s : State) (accs : List Access) (size : Nat) (k : State → State) : State :=
  let fresh := accs.any fun e => (s.respOf e.lane e.pa).isNone && !s.pending e.lane e.pa
  let (lag, s0) := if fresh then s.takeLag else (false, s)
  let s1 := s0.startLoads accs size lag
  if accs.all fun e => (s1.respOf e.lane e.pa).isSome then k s1 else s1.await .load

/-- The traps of accesses whose answers are failures. -/
def State.respTraps (s : State) (accs : List Access) : List (Nat × Trap) :=
  accs.filterMap fun e => (s.respOf e.lane e.pa).bind fun r =>
    r.fail.map fun f => (e.lane, { cause := f.1, taddr := BitVec.ofNat 64 e.va, detail := f.2 })

/-- The data an answered access brought. -/
def State.respData (s : State) (e : Access) : BitVec 128 :=
  match s.respOf e.lane e.pa with | some r => r.data | none => 0

/-- The data of a lane's first access. -/
def State.laneData (s : State) (accs : List Access) (l : Nat) : BitVec 128 :=
  match accs.find? fun e => e.lane == l with | some e => s.respData e | none => 0

/-- Leaves an access without acquire order, every lane of it inside the package, to be performed later, its strands going on, where
the tape of lags says so: what it releases has been released (R236, log 92); else `go`. Its flights are `fly`'s, by lane and data,
and `out` gives the other effects of its issue. -/
def State.orFly (s : State) (b : Begun) (size : Nat) (yes : Bool) (fly : State → Access → Nat → Flight) (out : State → State)
    (go : State → State) : State :=
  if yes && !mAcquire s.mode && !b.accs.isEmpty &&
      b.accs.all fun e => !outsidePa e.pa && (s.respOf e.lane e.pa).isNone && !s.pending e.lane e.pa then
    let (lag, s1) := s.takeLag
    if lag then
      s1.done (out { s1 with loads := s1.loads ++ (b.accs.zip (b.data ++ List.replicate b.accs.length 0)).map fun e =>
        { s1.loadOf e.1 size with fly := some (fly s1 e.1 e.2) } }) 1
    else go s1
  else go s

/-- A flight of the issuing set's instruction, for an access. -/
def State.flight (s : State) (op : RemoteOp) (dst : FlyDst) (e : Access) : Flight :=
  { op, dst, strand := if e.lane < 64 then e.lane / 4 else s.leadK, pc := s.pc, va := BitVec.ofNat 64 e.va }

/-- A v register: such a destination may be left to a flight, while a push to a queue is one step with its instruction (R206). -/
def isV (d : Reg) : Bool := match d with | .v _ => true | _ => false

/-- Completes issued loads whose release is made: the values, and the rest with them. -/
def State.runLoads (s : State) (b : Begun) (size : Nat) (fin : (Nat → BitVec 128) → State → State) : State :=
  s.loadAll b.accs size fun s1 =>
    match s1.respTraps b.accs with
    | t :: ts => s1.failLanes (t :: ts)
    | [] => fin (s1.laneData b.accs) s1.dropResp

/-- Words of a loaded value. -/
def loadWords (x : BitVec 128) (n : Nat) : List Word := splitWords x.toNat n

/-- The addresses of the active lanes, from the first source operand. -/
def State.laneAddrs (s : State) (b : Reg) (vals : Nat → List (List Word)) : List (Nat × Nat) :=
  s.lanes.map fun l => (l, s.laneAddr b ((vals l).getD 0 []))

/-- A vector load (R239): f turns the bytes into the destination's words. -/
def State.ldg (s : State) (d a b : Reg) (size : Nat) (f : BitVec 128 → List Word) : State :=
  let u : Uses := { srcs := [memUse a b], dsts := [(d, max 1 (size / 4))], typeOk := !s.badMem a b }
  s.resume (fun go => s.withOperands u fun s1 vals => s.issue s1 (s.laneAddrs b vals) [] size .read go) fun c s =>
    s.afterRelease (mRelease s.mode) fun s =>
      s.orFly c size (isV d) (fun s e _ => { s.flight .load (.v (regIdx d) (max 1 (size / 4)) c.held) e with
          signed := intType (mType s.mode) && typeSigned (mType s.mode) }) id fun s =>
        s.runLoads c size fun val s1 =>
          s1.done ((s1.writeLate c d (c.accs.map fun e => (e.lane, f (val e.lane)))).acquire (mAcquire s1.mode)) 1

/-- An 8- or 16-bit load extends by the MODE type's sign (R239). -/
def State.extend (s : State) (w : Nat) (x : BitVec 128) : List Word :=
  let t := mType s.mode
  [BitVec.ofInt 32 (wrapInt w (intType t && typeSigned t) (x.toNat % 2 ^ w : Nat))]

def execLdg8 (d a b : Reg) (s : State) : Host.Outcome State Fault Refusal := ran s (s.ldg d a b 1 (s.extend 8))
def execLdg16 (d a b : Reg) (s : State) : Host.Outcome State Fault Refusal := ran s (s.ldg d a b 2 (s.extend 16))
def execLdg32 (d a b : Reg) (s : State) : Host.Outcome State Fault Refusal := ran s (s.ldg d a b 4 (loadWords · 1))
def execLdg64 (d a b : Reg) (s : State) : Host.Outcome State Fault Refusal := ran s (s.ldg d a b 8 (loadWords · 2))
def execLdg128 (d a b : Reg) (s : State) : Host.Outcome State Fault Refusal := ran s (s.ldg d a b 16 (loadWords · 4))

/-! ## Stores (R237-R239) -/

/-- Stores n bytes of a lane's value: out of the package, or into the write buffer. -/
def State.storeVal (s : State) (e : Access) (size : Nat) (x : Nat) : State :=
  if outsidePa e.pa then s.sendRemote e.lane .store e.pa (BitVec.ofNat 64 e.va) size (BitVec.ofNat 128 x)
  else (cellsLE e.pa x size).foldl (fun s c => s.storeByte s.gk s.g.core c.1 c.2 e.key) s

/-- The bytes of memory that the stores of one instruction write inside the package. -/
def storedBytes (accs : List Access) (size : Nat) : List Nat :=
  accs.flatMap fun e => if outsidePa e.pa then [] else (List.range size).map (e.pa + ·)

/-- The stores of an instruction, in order, each an access with its value. -/
def State.storeAll (s : State) (b : Begun) (size : Nat) : State :=
  let s1 := s.settleLoads b.accs size false
  ((b.accs.zip b.data).foldl (fun s e => s.storeVal e.1 size e.2) s1).coverLines s.g.core (coveredLines (storedBytes b.accs size))

/-- Completes issued stores: the release, the stores and the acquire, and the instruction is done. -/
def State.runStores (s : State) (b : Begun) (size : Nat) : State :=
  s.afterRelease (mRelease s.mode) fun s => s.done ((s.storeAll b size).acquire (mAcquire s.mode)) 1

/-- A vector store; the data register is a source (R95, R239). -/
def State.stg (s : State) (d a b : Reg) (size : Nat) : State :=
  let u : Uses := { srcs := [memUse a b, (d, max 1 (size / 4))], typeOk := !s.badMem a b }
  s.resume (fun go => s.withOperands u fun s1 vals =>
      s.issue s1 (s.laneAddrs b vals) (s.lanes.map fun l => joinWords ((vals l).getD 1 [])) size .write go)
    fun c s => s.runStores c size

def execStg8 (d a b : Reg) (s : State) : Host.Outcome State Fault Refusal := ran s (s.stg d a b 1)
def execStg16 (d a b : Reg) (s : State) : Host.Outcome State Fault Refusal := ran s (s.stg d a b 2)
def execStg32 (d a b : Reg) (s : State) : Host.Outcome State Fault Refusal := ran s (s.stg d a b 4)
def execStg64 (d a b : Reg) (s : State) : Host.Outcome State Fault Refusal := ran s (s.stg d a b 8)
def execStg128 (d a b : Reg) (s : State) : Host.Outcome State Fault Refusal := ran s (s.stg d a b 16)

/-- The address of SLD and SST: s[a] + 8 imm8, modulo 2^64 (R91, R240). -/
def State.scalarAddr (s : State) (a : Reg) (imm : BitVec 8) : Nat := ((s.rdS a).toNat + 8 * imm.toNat) % 2 ^ 64

def execSld (d a : Reg) (imm : BitVec 8) (s : State) : Host.Outcome State Fault Refusal :=
  ran s (s.resume (fun go => s.withScalars [d, a] (s.issue s [(scalarLane, s.scalarAddr a imm)] [] 8 .read go)) fun b s =>
    s.afterRelease (mRelease s.mode) fun s => s.orFly b 8 true (fun s e _ => s.flight .load (.s (regIdx d)) e) id fun s =>
    s.runLoads b 8 fun val s1 =>
      s1.done ((s1.wrS d ((val scalarLane).setWidth 64)).acquire (mAcquire s1.mode)) 1)

def execSst (d a : Reg) (imm : BitVec 8) (s : State) : Host.Outcome State Fault Refusal :=
  ran s (s.resume (fun go => s.withScalars [d, a] (s.issue s [(scalarLane, s.scalarAddr a imm)] [(s.rdS d).toNat] 8 .write go))
    fun b s => s.runStores b 8)

/-! ## Scratchpad (R224, R230-R232) -/

/-- The trap of a scratchpad offset against the allocation's size (R230). -/
def spTrap (o size z : Nat) : Option Trap :=
  if o % size ≠ 0 then some { cause := 0x0A, taddr := BitVec.ofNat 64 o }
  else if z < o + size then some { cause := 0x12, taddr := BitVec.ofNat 64 o, detail := 1 } else none

/-- The address field takes no q code (R21). -/
def notQ (r : Reg) : Bool := match r with | .q _ => false | _ => true

/-- Issues a scratchpad access: the offsets of the active lanes, checked against the allocation, and the lanes' data. The
physical address of such an access is its offset in the core's local memory. -/
def State.spIssue (s : State) (u : Uses) (size : Nat) (imm : BitVec 8) (addrOk : Bool) (data : (Nat → List (List Word)) → List Nat)
    (go : Begun → State → State) : State :=
  s.withOperands { u with typeOk := addrOk } fun s1 vals =>
    let (_, base, z) := s.alloc s.g
    let offs := s.lanes.map fun l => (l, joinWords ((vals l).getD 0 []) + 4 * imm.toNat)
    match offs.filterMap fun e => (spTrap e.2 size z).map fun t => (e.1, t) with
    | t :: ts => s.trapLanes (t :: ts)
    | [] => match s.departFails 1 with
      | some t => s.trap t
      | none => s1.begin { held := s.g.held, fn := s.g.sfufn, accs := offs.map fun e => { lane := e.1, va := e.2, pa := base + e.2 }, data := data vals } go

def State.lds (s : State) (d a : Reg) (imm : BitVec 8) (size : Nat) : State :=
  let core := (s.alloc s.g).1
  s.resume (s.spIssue { srcs := [(a, 1)], dsts := [(d, size / 4)] } size imm (notQ a) fun _ => []) fun b s =>
    s.afterRelease (mRelease s.mode) fun s =>
      match b.accs.filter fun e => s.locPoison core e.pa size with
      | e :: es => s.trapLanes ((e :: es).map fun e => (e.lane, { cause := 0x3F, taddr := BitVec.ofNat 64 e.va }))
      | [] => s.done ((s.writeLate b d (b.accs.map fun e => (e.lane, splitWords (s.locN core e.pa size) (size / 4)))).acquire (mAcquire s.mode)) 1

def State.sts (s : State) (d a : Reg) (imm : BitVec 8) (size : Nat) : State :=
  let core := (s.alloc s.g).1
  s.resume (s.spIssue { srcs := [(a, 1), (d, size / 4)] } size imm (notQ a)
      fun vals => s.lanes.map fun l => joinWords ((vals l).getD 1 [])) fun b s =>
    s.afterRelease (mRelease s.mode) fun s =>
      s.done ((s.locWrite core ((b.accs.zip b.data).flatMap fun e => cellsLE e.1.pa e.2 size)).acquire (mAcquire s.mode)) 1

def execLds32 (d a : Reg) (imm : BitVec 8) (s : State) : Host.Outcome State Fault Refusal := ran s (s.lds d a imm 4)
def execLds128 (d a : Reg) (imm : BitVec 8) (s : State) : Host.Outcome State Fault Refusal := ran s (s.lds d a imm 16)
def execSts32 (d a : Reg) (imm : BitVec 8) (s : State) : Host.Outcome State Fault Refusal := ran s (s.sts d a imm 4)
def execSts128 (d a : Reg) (imm : BitVec 8) (s : State) : Host.Outcome State Fault Refusal := ran s (s.sts d a imm 16)

/-! ## Atomics (R241-R244) -/

/-- Performs one atomic of the issuing group. -/
def State.atomicAt (s : State) (pa size : Nat) (key : Option Nat) (f : Nat → Nat) : Option Nat × State := s.atomicFor s.gk pa size key f

/-- Runs the atomics of lanes in increasing order (R243), each with its data as it goes out: a lane's operation is performed
at home, or leaves the package and the set waits for its answer; a lane that finds poison stops the launch. -/
def State.runLanes (s : State) (op : RemoteOp) (size : Nat) (f : Nat → Nat → Nat → Nat) : List (Access × Nat) → Option State × State
  | [] => (none, s)
  | (e, x) :: t =>
    match s.respOf e.lane e.pa with
    | some r => match r.fail with
      | some c => (some (s.failLanes [(e.lane, { cause := c.1, taddr := BitVec.ofNat 64 e.va, detail := c.2 })]), s)
      | none => s.runLanes op size f t
    | none =>
      if outsidePa e.pa then
        let s := if s.pending e.lane e.pa then s else s.sendRemote e.lane op e.pa (BitVec.ofNat 64 e.va) size (BitVec.ofNat 128 x)
        (some (s.await .load), s)
      else
        match (s.settleLoads [e] size false).atomicAt e.pa size e.key (f e.lane x) with
        | (none, s) => (some (s.dropResp.trapLanes [(e.lane, { cause := 0x3F, taddr := BitVec.ofNat 64 e.va })]), s)
        | (some old, s) =>
          (s.onG fun g => { g with resp := g.resp ++ [{ jset := s.cur.jset, lane := e.lane, pa := e.pa, data := BitVec.ofNat 128 old }] }).runLanes op size f t

/-- The operations the host window takes (R442). -/
def hostTakes (op : RemoteOp) : Bool := match op with | .add | .xchg | .cas => true | _ => false

/-- Completes issued atomics whose release is made: the operations, then `fin` with the old values and the state before them. -/
def State.runAtomics (s : State) (b : Begun) (op : RemoteOp) (size : Nat) (f : Nat → Nat → Nat → Nat)
    (fin : State → (Nat → Nat) → State → State) : State :=
  match s.runLanes op size f (b.accs.zip b.data) with
  | (some t, _) => t
  | (none, s1) => fin s (fun l => (s1.laneData b.accs l).toNat % 2 ^ (8 * size)) s1.dropResp

/-- The two halves of an atomic's data: the operand, and for a compare and swap the new value above it. -/
def atomicLow (size x : Nat) : Nat := x % 2 ^ (8 * size)
def atomicHigh (size x : Nat) : Nat := x / 2 ^ (8 * size)

/-- A vector atomic: d holds the operands and receives the old value (R242). -/
def State.atomic (s : State) (op : RemoteOp) (d a b : Reg) (types : List Nat) : State :=
  let t := mType s.mode
  let size := if t = 6 ∨ t = 7 then 8 else 4
  let w := size / 4
  let dw := if op = .cas then 2 * w else w
  let u : Uses := { srcs := [memUse a b], dsts := [(d, dw)], noq := true, typeOk := !s.badMem a b && types.contains t }
  let n := if op = .fadd then drawCount s.mode 1 else 0
  let draw (l : Nat) : Nat := ((srgDraws (s.g.gen l) n).getD 0 0).toNat
  s.resume (fun go => s.withOperands u fun s1 vals =>
      let reg (l : Nat) : List Word := (List.range dw).map fun i => s.g.vr (regIdx d + i) l
      s.issue s1 (s.laneAddrs b vals) (s.lanes.map fun l => joinWords (reg l)) size (.atomic (hostTakes op)) go) fun c s =>
    let new (l x old : Nat) : Nat :=
      atomicNew op (8 * size) (typeSigned t) (mRound s.mode) (draw l) (mFtz s.mode) l s.pc old (atomicLow size x) (atomicHigh size x)
    s.afterRelease (mRelease s.mode) fun s =>
    s.orFly c size true (fun s e x => { s.flight op (.v (regIdx d) w c.held) e with
        y := BitVec.ofNat 64 (atomicLow size x), z := BitVec.ofNat 64 (atomicHigh size x), signed := typeSigned t
        round := mRound s.mode, draw := draw e.lane, ftz := mFtz s.mode, unit := s.nextKey })
      (fun s => { (s.drawAll n) with nextKey := s.nextKey + 1 }) fun s =>
    s.runAtomics c op size new fun s0 old s1 =>
      s0.done (((s1.drawAll n).writeLate c d (c.accs.map fun e => (e.lane, splitWords (old e.lane) w))).acquire (mAcquire s1.mode)) 1

/-- The integer types of R242. -/
def atomicInts : List Nat := [0, 1, 6, 7]

def execAadd (d a b : Reg) (s : State) : Host.Outcome State Fault Refusal := ran s (s.atomic .add d a b atomicInts)
def execAmin (d a b : Reg) (s : State) : Host.Outcome State Fault Refusal := ran s (s.atomic .min d a b atomicInts)
def execAmax (d a b : Reg) (s : State) : Host.Outcome State Fault Refusal := ran s (s.atomic .max d a b atomicInts)
def execAand (d a b : Reg) (s : State) : Host.Outcome State Fault Refusal := ran s (s.atomic .and d a b atomicInts)
def execAor (d a b : Reg) (s : State) : Host.Outcome State Fault Refusal := ran s (s.atomic .or d a b atomicInts)
def execAxor (d a b : Reg) (s : State) : Host.Outcome State Fault Refusal := ran s (s.atomic .xor d a b atomicInts)
def execAxchg (d a b : Reg) (s : State) : Host.Outcome State Fault Refusal := ran s (s.atomic .xchg d a b (8 :: atomicInts))
def execAcas (d a b : Reg) (s : State) : Host.Outcome State Fault Refusal := ran s (s.atomic .cas d a b (8 :: atomicInts))
def execAfadd (d a b : Reg) (s : State) : Host.Outcome State Fault Refusal := ran s (s.atomic .fadd d a b [8])

/-- A scalar atomic on 64 bits at s[a] (R244): the operand y, and for a compare and swap the new value z. -/
def State.scalarAtomic (s : State) (op : RemoteOp) (d a : Reg) (y z : DWord) : State :=
  s.resume (fun go => s.withScalars [d, a]
      (s.issue s [(scalarLane, (s.rdS a).toNat)] [y.toNat + 2 ^ 64 * (if op = .cas then z.toNat else 0)] 8 (.atomic (hostTakes op)) go)) fun b s =>
    s.afterRelease (mRelease s.mode) fun s => s.orFly b 8 true (fun s e _ => { s.flight op (.s (regIdx d)) e with y, z }) id fun s =>
      s.runAtomics b op 8 (fun _ x old => scalarNew op (BitVec.ofNat 64 (atomicLow 8 x)) (BitVec.ofNat 64 (atomicHigh 8 x)) old) fun s0 old s1 =>
        s0.done ((s1.wrS d (BitVec.ofNat 64 (old scalarLane))).acquire (mAcquire s1.mode)) 1

def execSaadd (d a : Reg) (s : State) : Host.Outcome State Fault Refusal :=
  ran s (s.scalarAtomic .add d a (s.rdS d) 0)
/-- SACAS: an odd s index in d raises 0x03; s[d + 1] is the new value. -/
def execSacas (d a : Reg) (s : State) : Host.Outcome State Fault Refusal :=
  ran s (if regIdx d % 2 = 1 then s.trap { cause := 0x03 }
    else s.scalarAtomic .cas d a (s.rdS d) (s.g.sr (regIdx d + 1)))

/-! ## FENCE, PREF, INVL (R245, R246) -/

/-- FENCE. Its acquire follows every earlier access of the strands (R245, R390), so that it waits for their flights. -/
def execFence (s : State) : Host.Outcome State Fault Refusal :=
  ran s (s.afterRelease (mRelease s.mode) fun s =>
    if mAcquire s.mode && s.flies s.gk s.ks then s.await .load else s.done (s.acquire (mAcquire s.mode)) 1)

/-- Runs PREF or INVL: f on the line of each active lane whose address would not fault. -/
def State.lineOp (s : State) (a b : Reg) (f : State → Nat → Nat → State) : State :=
  s.withOperands { srcs := [memUse a b], typeOk := !s.badMem a b } fun s1 vals =>
    let vas := s.lanes.map fun l => s.laneAddr b ((vals l).getD 0 [])
    s.done (vas.foldl (fun s va => if (s.pcheck va .read).isSome then s else f (s.keepXlate s.g.core (s.asidOf s.g) va) va (s.pa va / 128)) s1) 1

/-- PREF fills the line; it may as well be dropped (R246). -/
def execPref (a b : Reg) (s : State) : Host.Outcome State Fault Refusal :=
  ran s (s.lineOp a b fun s va line => s.loadLine s.g.core line false false (s.vkey va))

/-- INVL drains the line's buffered bytes and drops it from the core's L1. -/
def execInvl (a b : Reg) (s : State) : Host.Outcome State Fault Refusal :=
  ran s (s.lineOp a b fun s _ line => (s.drainLine s.g.core line).onCore s.g.core fun c => c.dropL1 (· == line))

/-! ## Events of the memory system -/

/-- WCB_DRAIN: a buffered line goes to where it is performed (R238). -/
def execWcbDrain (core line : Nat) (s : State) : Host.Outcome State Fault Refusal := ran s (s.drainLine core line)

/-- The request at an index that no earlier request for the same line precedes (R325). -/
def pickReq (q : List SliceReq) (idx : Nat) : Option SliceReq :=
  match q[idx]? with
  | some r => if (q.take idx).any (·.line == r.line) then none else some r
  | none => none

/-- SLICE_REQUEST: a slice performs a queued request; requests of one line keep their order (R325). -/
def execSliceRequest (stack slice idx : Nat) (s : State) : Host.Outcome State Fault Refusal :=
  let q := tget [] (s.stack stack).queue slice
  ran s <| match pickReq q idx with
    | some r => (s.onStack stack fun k => { k with queue := tput [] k.queue slice (ldel q idx) }).perform r
    | none => s

/-- EDGE_MEMORY_REQUEST: an edge die performs a queued access to its memory (R448). -/
def execEdgeMemoryRequest (edge idx : Nat) (s : State) : Host.Outcome State Fault Refusal :=
  let q := tget [] s.edge edge
  ran s <| match pickReq q idx with
    | some r => ({ s with edge := tput [] s.edge edge (ldel q idx) }).perform r
    | none => s

/-- LOAD_RESPONSE: a group's outstanding load or flight is performed (R382). -/
def execLoadResponse (group idx : Nat) (s : State) : Host.Outcome State Fault Refusal :=
  ran s <| match (s.loads.filter (·.group == group))[idx]? with
    | some r => s.fixLoad r
    | none => s

/-- Delivers the first posted message that satisfies a condition. -/
def State.deliverFirst (s : State) (p : Msg → Bool) : State :=
  match s.msgs.find? fun m => p m.msg with
  | some m => ({ s with msgs := s.msgs.erase m }).deliver m.msg
  | none => s

/-- SIGNATURE_PUBLISH: a core takes the next signature published to it and acknowledges (R387). -/
def execSignaturePublish (core : Nat) (s : State) : Host.Outcome State Fault Refusal :=
  ran s (s.deliverFirst fun m => match m with | .signature c _ => c == core | _ => false)
/-- HANDLE_ENTRY_DROP: a core drops the handle entry a swap named and acknowledges (R340). -/
def execHandleEntryDrop (core : Nat) (s : State) : Host.Outcome State Fault Refusal :=
  ran s (s.deliverFirst fun m => match m with | .drop c _ _ => c == core | _ => false)
/-- SRWAYS_PUBLISH: a core takes a stack's new way count (R330). -/
def execSrwaysPublish (core : Nat) (s : State) : Host.Outcome State Fault Refusal :=
  ran s (s.deliverFirst fun m => match m with | .ways c _ _ => c == core | _ => false)

end Sys2Proof.Machine
end

