-- ==== Sys2Proof/Machine/Record.lean ====
section
/-!
DEFINITION. What the copy engine, the matrix engine and the tier instructions share: scratchpad operand records
(R227-R229), tensor handles (R336-R338), and ranges of global memory performed at home (R251, R252).
-/
namespace Sys2Proof.Machine

/-! ## Operand records (R227-R229) -/

def recBase (r : Nat) : Nat := r % 2 ^ 19
def recRes (r : Nat) : Nat := r / 2 ^ 19 % 4
def recWhere (r : Nat) : Nat := r / 2 ^ 21 % 8
def recStride (r : Nat) : Nat := r / 2 ^ 24 % 2 ^ 16
def recExtent (r : Nat) : Nat := r / 2 ^ 40

/-- An allocation: its core, the linear index of its team, its base and its size. -/
structure Target where
  core : Nat
  team : Nat
  base : Nat
  size : Nat
deriving DecidableEq, Repr

/-- The team an allocation belongs to; for a holder's resident allocation, its segment stands in for one (R407). -/
def State.teamOf (s : State) (g : Group) : Nat :=
  if g.trav.isSome then (match (s.core g.core).holder with | some h => h.segment | none => 0) else g.team

/-- The issuing group's own allocation. -/
def State.ownTarget (s : State) : Target :=
  let (core, base, size) := s.alloc s.g
  { core, team := s.teamOf s.g, base, size }

/-- The allocation on a core of the cluster, fixed at issue: the issuing team's own on the issuing core, else that of
the resident team of the launch with the lowest linear index, or a holder's resident allocation (R228, R407). A team that spans
a pair counts on its lower core, where its allocation lies (R226), and not on its upper core (DESIGN CHOICE, unsafe, log 87). -/
def State.clusterTarget (s : State) (cc : Nat) : Option Target :=
  let core := clusterBase s.g.core + cc
  if core = s.g.core then some s.ownTarget
  else if s.lau.travel then
    match (s.core core).holder with
    | some h => if h.launch = s.g.launch then some { core, team := h.segment, base := h.base, size := h.size } else none
    | none => none
  else
    match s.teams.find? fun t => t.2.core == core && t.2.launch == s.g.launch with
    | some t => some { core, team := t.2.index, base := t.2.base, size := t.2.size }
    | none => none

/-- The target of a record's where field; none where it is missing or the field invalid. -/
def State.recTarget (s : State) (r : Nat) : Option Target :=
  if recWhere r = 0 then some s.ownTarget
  else if recWhere r < 4 then none
  else s.clusterTarget (recWhere r - 4)

/-- The check of R229 on a record, with the footprint as spans (offset from the base, length). `remote` says whether the
instruction takes another allocation than its own team's. -/
def State.recTrap (s : State) (r : Nat) (remote : Bool) (spans : List (Int × Nat)) : Option Trap :=
  let bad : Option Trap := some { cause := 0x12, taddr := BitVec.ofNat 64 r, detail := 1 }
  if recRes r ≠ 0 ∨ (recWhere r ≠ 0 ∧ !remote) then bad
  else match s.recTarget r with
    | none => bad
    | some t =>
      if t.size < recBase r + recExtent r then bad
      else if spans.any fun e => decide (e.1 < 0 ∨ (recExtent r : Int) < e.1 + e.2) then bad
      else none

/-- The trap of a descriptor of n bytes at an offset of the team's scratchpad: alignment, bounds, poison. -/
def State.descTrap (s : State) (o n : Nat) : Option Trap :=
  let (core, base, z) := s.alloc s.g
  let t : DWord := BitVec.ofNat 64 o
  if o % n ≠ 0 then some { cause := 0x0A, taddr := t }
  else if z < o + n then some { cause := 0x12, taddr := t, detail := 1 }
  else if s.locPoison core (base + o) n then some { cause := 0x3F, taddr := t }
  else none

/-- n bytes of a descriptor as a number. -/
def State.descN (s : State) (o n : Nat) : Nat :=
  let (core, base, _) := s.alloc s.g
  s.locN core (base + o) n

/-! ## Tensor handles (R336-R338) -/

def Handle.b (h : Handle) : Nat := h.shape0 * h.shape1 * h.ebytes

/-- The smallest power of two at or above a tile size of 128 to 4,096. -/
def Handle.d (h : Handle) : Nat := ([128, 256, 512, 1024, 2048].find? fun d => decide (h.b ≤ d)).getD 4096

def Handle.shadow (h : Handle) : Bool := decide (h.flags / 2 % 2 = 1)

/-- The entry a handle names, as memory holds it; no valid one where the ASID has no valid entry or no handle table
(R337, R374). -/
def State.readHandle (s : State) (asid h : Nat) : Handle :=
  let own := tget {} s.asids asid
  let a := own.handles + 64 * h
  let n (o k : Nat) : Nat := s.homeN (a + o) k
  if own.flags % 2 = 0 ∨ own.handles = 0 ∨ (s.physFail a).isSome then {}
  else
  { front := n 0 8, under := n 8 8, n0 := n 0x10 4, n1 := n 0x14 4, n2 := n 0x18 4, shape0 := n 0x1C 2,
    shape1 := n 0x1E 2, ebytes := n 0x20 1, slice0 := n 0x21 1 % 16, flags := n 0x22 1 % 4
    clean := n 0x23 29 == 0 && decide (n 0x21 1 < 16 ∧ n 0x22 1 < 4) }

/-- The entry as a core sees it: its cached copy, else the entry in memory, which it then keeps (R337). -/
def State.handleEntry (s : State) (core asid h : Nat) : Handle × State :=
  match tfind (s.core core).handles (asid * 4096 + h) with
  | some e => (e, s)
  | none =>
    let e := s.readHandle asid h
    (e, s.onCore core fun c => { c with handles := tset c.handles (asid * 4096 + h) e })

/-- Every page of a range of n pages of 64 KiB from va is a tensor page. -/
def State.tensorPages (s : State) (core asid va : Nat) : Nat → Bool
  | 0 => true
  | n + 1 => match s.xlate core asid va with
    | .ok leaf => leaf.tensor && s.tensorPages core asid (va / 65536 * 65536 + 65536) n
    | .fail _ _ => false

/-- A span of bytes lies wholly on tensor pages. -/
def State.tensorSpan (s : State) (core asid va n : Nat) : Bool :=
  decide (va + n ≤ 2 ^ 57) && s.tensorPages core asid va ((va % 65536 + n + 65535) / 65536)

/-- The entry is valid (R336, R337). -/
def State.handleValid (s : State) (core asid : Nat) (h : Handle) : Bool :=
  let span := h.n0 * h.n1 * h.n2 * h.d
  h.clean && decide (h.flags % 2 = 1 ∧ h.front % 4096 = 0 ∧ h.under % 4096 = 0 ∧ 1 ≤ h.n0 ∧ 1 ≤ h.n1 ∧ 1 ≤ h.n2 ∧
    1 ≤ h.shape0 ∧ h.shape0 ≤ 4096 ∧ 1 ≤ h.shape1 ∧ h.shape1 ≤ 4096) && [1, 2, 4].contains h.ebytes &&
  decide (h.b % 128 = 0 ∧ 128 ≤ h.b ∧ h.b ≤ 4096) &&
  s.tensorSpan core asid h.front span && (h.under == 0 || s.tensorSpan core asid h.under span)

/-- Linear index and home slice of a tile (R338). -/
def Handle.linear (h : Handle) (t0 t1 t2 : Nat) : Nat := t0 + h.n0 * t1 + h.n0 * h.n1 * t2
def Handle.slice (h : Handle) (l : Nat) : Nat := (h.slice0 + l) % 16

/-! ## Ranges of global memory (R234, R251, R252) -/

/-- The addresses at which a range is checked: its first byte, and each 64 KiB boundary within it. -/
def pageStarts (va n : Nat) : List Nat :=
  if n = 0 then []
  else va :: (List.range ((va + n - 1) / 65536 - va / 65536)).map fun i => (va / 65536 + 1 + i) * 65536

/-- The first failure of a range: its cause, detail and address. -/
def State.rangeTrap (s : State) (core asid va n : Nat) (acc : Acc) (tensorOk : Bool) : Option (Byte × Byte × Nat) :=
  (pageStarts va n).findSome? fun a => (s.pageCheck core asid (a % 2 ^ 64) acc tensorOk).map fun e => (e.1, e.2, a % 2 ^ 64)

/-- A range cut at multiples of g: address, offset from the range's start, and length of each piece. -/
def pieces (va n g : Nat) : List (Nat × Nat × Nat) :=
  if n = 0 then []
  else (List.range ((va + n - 1) / g - va / g + 1)).map fun i =>
    let lo := max va ((va / g + i) * g)
    let hi := min (va + n) ((va / g + i + 1) * g)
    (lo % 2 ^ 64, lo - va, hi - lo)

/-- Holds the translations of a range in the core's TLB (R378). -/
def State.keepRange (s : State) (core asid va n : Nat) : State :=
  (pageStarts va n).foldl (fun s a => s.keepXlate core asid (a % 2 ^ 64)) s

/-- The first poisoned byte of a range at home (R252, R461). -/
def State.rangePoison (s : State) (core asid va n : Nat) : Option Nat :=
  (pieces va n 128).findSome? fun p => if s.poisoned (s.paOf core asid p.1 / 128) then some p.1 else none

/-- The pieces of a range, cut at lines, that lie within the package. -/
def State.insidePieces (s : State) (core asid va n : Nat) : List (Nat × Nat × Nat) :=
  (pieces va n 128).filter fun p => !outsidePa (s.paOf core asid p.1)

/-- Reads a range at home, each line a demand access at its slice; `out` gives the bytes of a piece that lies outside the
package. -/
def State.readRange (s : State) (core asid va n : Nat) (slice : Option Nat) (out : Nat × Nat × Nat → List Byte) : List Byte × State :=
  (pieces va n 128).foldl (fun a p =>
    let (bs, s) := a
    let pa := s.paOf core asid p.1
    let key := s.keyOf core asid p.1
    if outsidePa pa then (bs ++ out p, s)
    else
      let s := ((s.settle (pa / 128)).useKey (pa / 128) key).touch slice (pa / 128) false key
      (bs ++ (List.range p.2.2).map fun i => s.home (pa + i), s)) ([], s)

/-- Writes what of a range lies within the package at home, each line at its slice. -/
def State.writeRange (s : State) (core asid va : Nat) (bs : List Byte) (slice : Option Nat) : State :=
  (s.insidePieces core asid va bs.length).foldl (fun s p =>
    let pa := s.paOf core asid p.1
    s.writeHome (pa / 128) (((bs.drop p.2.1).take p.2.2).zipIdx.map fun e => (pa + e.2, e.1)) slice (s.keyOf core asid p.1)) s

/-- The lines of a range within the package, by number. -/
def State.rangeLines (s : State) (core asid va n : Nat) : List Nat :=
  (s.insidePieces core asid va n).map fun p => s.paOf core asid p.1 / 128

/-- The 128-byte blocks of local memory that n bytes of a copy at an offset write take the tags of what they bring (R458, log
115). -/
def Core.tagBlocks (c : Core) (at_ n : Nat) (key : Nat → Option Nat) : Core :=
  { c with memKey := (pieces at_ n 128).foldl (fun t p => match key p.2.1 with
      | some k => tset t (p.1 / 128) k | none => tdel t (p.1 / 128)) c.memKey }

def bytesNat (bs : List Byte) : Nat := bs.foldr (fun b a => b.toNat + 256 * a) 0

end Sys2Proof.Machine
end

