-- ==== Sys2Proof/Machine/Copy.lean ====
section
/-!
DEFINITION. The copy engine: CPY and CPYT at issue, and the copy of one row or tile (R247-R253, R290, R395).
-/
namespace Sys2Proof.Machine

/-! ## Issue (R249, R250, R253) -/

/-- Starts a copy on token k from row r0 of n, or ends it at once. -/
def State.startCopy (s : State) (k r0 n : Nat) (isOver : Bool) (c : Copy) : State :=
  let s := s.drainWcb s.g.core
  if isOver || decide (n ≤ r0) then
    s.onG fun g => g.setToken k { state := 0, row := BitVec.ofNat 24 (max r0 n) }
  else
    (s.onG fun g => g.setToken k { state := 1, row := BitVec.ofNat 24 r0 }).onCore s.g.core fun x =>
      { x with copies := x.copies ++ [{ c with group := s.gk, tok := k, launch := s.g.launch, team := s.g.team, row := r0, rows := n }] }

/-- A scratchpad side of a copy. -/
def Target.side (t : Target) (off : Nat) : Side := .loc t.core t.team t.base t.size (off : Int)

/-- The spans of rows r0 to n - 1, by their extremes: the offsets are linear in the row. -/
def rowSpans (r0 n rowbytes : Nat) (stride : Int) : List (Int × Nat) :=
  if n ≤ r0 ∨ rowbytes = 0 then [] else [((r0 : Int) * stride, rowbytes), (((n - 1 : Nat) : Int) * stride, rowbytes)]

/-- CPY once its token is free (R249). -/
def State.copyIssue (s : State) (k : Nat) (flags : Nat) (o : Nat) : State :=
  let flag (i : Nat) : Bool := decide (flags / 2 ^ i % 2 = 1)
  let srcs := flag 0
  let dsts := flag 1
  let mc := flag 3
  let at_ : DWord := BitVec.ofNat 64 o
  match s.descTrap o 32 with
  | some t => s.trap t
  | none =>
    let src := s.descN o 8
    let dst := s.descN (o + 8) 8
    let rowbytes := s.descN (o + 0x10) 4
    let rw := s.descN (o + 0x14) 4
    let ss := (BitVec.ofNat 32 (s.descN (o + 0x18) 4)).toInt
    let ds := (BitVec.ofNat 32 (s.descN (o + 0x1C) 4)).toInt
    let n := rw % 2 ^ 24
    let mask := rw / 2 ^ 28
    let start (isRec : Bool) (x : Nat) : Nat := if isRec then recBase x else x
    let r0 := if flag 2 then (s.g.token k).row.toNat else 0
    if rw / 2 ^ 24 % 16 ≠ 0 ∨ (mask ≠ 0 ∧ !mc) ∨ (mc && (!dsts || recWhere dst != 0)) then
      s.trap { cause := 0x12, taddr := at_, detail := 2 }
    else if rowbytes % 4 ≠ 0 ∨ ss % 4 ≠ 0 ∨ ds % 4 ≠ 0 ∨ start srcs src % 4 ≠ 0 ∨ start dsts dst % 4 ≠ 0 then
      s.trap { cause := 0x0A, taddr := at_ }
    else
      let bad (isRec : Bool) (x : Nat) (st : Int) : Option Trap := if isRec then s.recTrap x true (rowSpans r0 n rowbytes st) else none
      match (bad srcs src ss).or (bad dsts dst ds) with
      | some t => s.trap t
      | none => s.afterRelease (mRelease s.mode) fun s =>
        let side (isRec : Bool) (x : Nat) : Side :=
          if isRec then (match s.recTarget x with | some t => t.side (recBase x) | none => .glob 0) else .glob (x : Int)
        let cores := (List.range 4).filter fun c => decide (mask / 2 ^ c % 2 = 1)
        let targets := cores.map s.clusterTarget
        let multi := targets.filterMap fun t => t.map fun t => t.side (recBase dst)
        let c : Copy := {
          src := side srcs src, dsts := if mc then multi else [side dsts dst]
          missing := if mc then (targets.filter (·.isNone)).length else 0
          lossy := mc || (dsts && recWhere dst != 0 && s.recTarget dst != some s.ownTarget)
          rowbytes, sstride := ss, dstride := ds }
        s.done (s.startCopy k r0 n (rowbytes == 0 || (mc && mask == 0)) c) 1

/-- CPY waits while its token is in progress. -/
def execCpy (tok : BitVec 3) (flags : BitVec 5) (a : Reg) (s : State) : Host.Outcome State Fault Refusal :=
  ran s <| s.withScalars [a] <|
    if (s.g.token tok.toNat).state = 1 then s.await (.token (1 <<< tok.toNat))
    else s.copyIssue tok.toNat flags.toNat (s.rdS a).toNat

/-- CPYT once its token is free (R253). -/
def State.tileIssue (s : State) (k : Nat) (flags o hnd : Nat) : State :=
  let at_ : DWord := BitVec.ofNat 64 o
  match s.descTrap o 32 with
  | some t => s.trap t
  | none =>
    let r := s.descN o 8
    let f (i : Nat) : Nat := s.descN (o + 8 + 4 * i) 4
    let org := [f 0, f 1, f 2]
    let cnt := [f 3, f 4, f 5]
    let n := f 3 * f 4 * f 5
    let core := s.g.core
    let asid := s.asidOf s.g
    if recBase r % 4 ≠ 0 then s.trap { cause := 0x0A, taddr := at_ }
    else if 4096 ≤ hnd then s.trap { cause := 0x11, taddr := at_, detail := 3 }
    else
      let (h, s1) := s.handleEntry core asid hnd
      if !s.handleValid core asid h then s.trap { cause := 0x11, taddr := at_, detail := 3 }
      else if h.n0 < f 0 + f 3 ∨ h.n1 < f 1 + f 4 ∨ h.n2 < f 2 + f 5 then s.trap { cause := 0x11, taddr := at_, detail := 4 }
      else match s.recTrap r false (if n = 0 then [] else [(0, n * h.b)]) with
        | some t => s.trap t
        | none => s1.afterRelease (mRelease s.mode) fun s =>
          let toTensor := decide (flags % 2 = 1)
          let r0 := if flags / 2 % 2 = 1 then (s.g.token k).row.toNat else 0
          let c : Copy := {
            src := s.ownTarget.side (recBase r), rowbytes := h.b, toTensor
            tile := some (if toTensor && h.shadow then h.under else h.front, h.d, h, org, cnt) }
          s.done (s.startCopy k r0 n (n == 0) c) 1

def execCpyt (tok : BitVec 3) (flags : BitVec 5) (a b : Reg) (s : State) : Host.Outcome State Fault Refusal :=
  ran s <| s.withScalars [a, b] <|
    if (s.g.token tok.toNat).state = 1 then s.await (.token (1 <<< tok.toNat))
    else s.tileIssue tok.toNat flags.toNat (s.rdS a).toNat (s.rdS b).toNat

/-! ## One row (R250-R252) -/

/-- The source, destinations and tensor slice of row i. -/
def Copy.rowSides (c : Copy) (i : Nat) : Side × List Side × Option Nat :=
  let move (st : Int) : Side → Side
    | .glob va => .glob ((va + (i : Int) * st) % 2 ^ 64)
    | .loc core team base size off => .loc core team base size (off + (i : Int) * st)
  match c.tile with
  | none => (move c.sstride c.src, c.dsts.map (move c.dstride), none)
  | some (backing, d, h, org, cnt) =>
    let o (k : Nat) : Nat := org.getD k 0
    let n (k : Nat) : Nat := cnt.getD k 1
    let l := h.linear (o 0 + i % n 0) (o 1 + i / n 0 % n 1) (o 2 + i / (n 0 * n 1))
    let g : Side := .glob (((backing + l * d : Nat) : Int) % 2 ^ 64)
    let p := move (c.rowbytes : Int) c.src
    if c.toTensor then (p, [g], some (h.slice l)) else (g, [p], some (h.slice l))

/-- The joined-set number that the accesses of a token's copy leave the package under. -/
def copySet (k : Nat) : Nat := copySets + k

/-- The pieces of a range that lie outside the package, at most 16 bytes each (R442, R450). -/
def State.outPieces (s : State) (core asid va n : Nat) : List (Nat × Nat × Nat) :=
  (pieces va n 16).filter fun p => outsidePa (s.paOf core asid p.1)

/-- The fault of the checks of a side, before any byte is read or written: its cause and address (R252). -/
def State.sideFault (s : State) (core asid : Nat) (side : Side) (n : Nat) (acc : Acc) (tensor : Bool) : Option (Byte × Nat) :=
  match side with
  | .glob va => (s.rangeTrap core asid va.toNat n acc tensor).map fun e => (e.1, e.2.2)
  | .loc _ _ _ _ _ => none

/-- The lowest poisoned byte of a source side: the row's first, or the first of a poisoned line or block within it (R461). -/
def State.sidePoison (s : State) (core asid : Nat) (side : Side) (n : Nat) : Option Nat :=
  match side with
  | .glob va => s.rangePoison core asid va.toNat n
  | .loc lc _ base _ off =>
    let a := base + off.toNat
    ((s.core lc).memPoison.filterMap fun b =>
      if b * 128 < a + n ∧ a < b * 128 + 128 then some (max a (b * 128) - base) else none).min?

/-- The fault of reading a source side whose outside pieces have all been answered: of poison and the first failed answer the one
at the lower address (R252). -/
def State.readFault (s : State) (core asid : Nat) (side : Side) (n : Nat) (failed : Option (Byte × Nat)) : Option (Byte × Nat) :=
  match s.sidePoison core asid side n, failed with
  | some a, some (c, b) => if a ≤ b then some (0x3F, a) else some (c, b)
  | some a, none => some (0x3F, a)
  | none, f => f

/-- A scratchpad side still belongs to the team it was fixed to, and holds the row (R250). -/
def State.sideStands (s : State) (launch : Nat) (side : Side) (n : Nat) : Bool :=
  match side with
  | .glob _ => true
  | .loc core team base size off =>
    decide (0 ≤ off ∧ off + n ≤ size) &&
      (if (s.launch launch).travel then
        match (s.core core).holder with | some h => h.launch == launch && h.segment == team && h.base == base | none => false
      else match tfind s.teams (teamKey launch team) with
        | some t => t.core == core && t.base == base && t.size == size
        | none => false)

/-- Reads a source side. -/
def State.readSide (s : State) (core asid : Nat) (c : Copy) (side : Side) (n : Nat) (slice : Option Nat) : List Byte × State :=
  match side with
  | .loc lc _ base _ off => ((List.range n).map fun i => s.locByte lc (base + off.toNat + i), s)
  | .glob va =>
    let data (pa : Nat) : Nat :=
      match (s.grp c.group).resp.find? fun r => r.jset == copySet c.tok && r.pa == pa with
      | some r => r.data.toNat | none => 0
    s.readRange core asid va.toNat n slice fun p => (pieces p.1 p.2.2 16).flatMap fun q =>
      (List.range q.2.2).map fun i => BitVec.ofNat 8 (data (s.paOf core asid q.1) / 256 ^ i)

/-- The key index that byte i of a side is tagged with (R458). -/
def State.sideKey (s : State) (core asid : Nat) (side : Side) (i : Nat) : Option Nat :=
  match side with
  | .glob va => s.keyOf core asid ((va.toNat + i) % 2 ^ 64)
  | .loc lc _ base _ off => tfind (s.core lc).memKey ((base + off.toNat + i) / 128)

/-- Writes a destination side: what lies within the package at home, the rest sent out; what is written to local memory carries
the tags of its source. A row to another allocation that no longer stands is lost (R250, R290). -/
def State.writeSide (s : State) (core asid : Nat) (c : Copy) (side : Side) (bs : List Byte) (slice : Option Nat)
    (key : Nat → Option Nat) : State × Nat :=
  match side with
  | .loc lc _ base _ off =>
    if c.lossy && !s.sideStands c.launch side bs.length then (s, 1)
    else ((s.locWrite lc (bs.zipIdx.map fun e => (base + off.toNat + e.2, e.1))).onCore lc fun x =>
      x.tagBlocks (base + off.toNat) bs.length key, 0)
  | .glob va =>
    let s2 := s.writeRange core asid va.toNat bs slice
    let cur := s.cur
    let s3 := (s.outPieces core asid va.toNat bs.length).foldl (fun s p =>
      s.sendRemote 0 .store (s.paOf core asid p.1) (BitVec.ofNat 64 p.1) p.2.2
        (BitVec.ofNat 128 (bytesNat ((bs.drop p.2.1).take p.2.2)))) { s2 with cur := { group := c.group, jset := copySet c.tok } }
    ({ s3 with cur }, 0)

/-- The pieces of a source outside the package that have no answer yet, and the failure of one that has (R442). -/
def State.outState (s : State) (core asid : Nat) (c : Copy) (side : Side) (n : Nat) : List (Nat × Nat × Nat) × Option (Byte × Nat) :=
  match side with
  | .loc _ _ _ _ _ => ([], none)
  | .glob va =>
    let out := s.outPieces core asid va.toNat n
    let resp (p : Nat × Nat × Nat) := (s.grp c.group).resp.find? fun r => r.jset == copySet c.tok && r.pa == s.paOf core asid p.1
    (out.filter fun p => (resp p).isNone, out.findSome? fun p => (resp p).bind fun r => r.fail.map fun f => (f.1, p.1))

/-- Sends the reads of a row that leave the package, those not under way (R442, R450). -/
def State.askOut (s : State) (core asid : Nat) (c : Copy) (ps : List (Nat × Nat × Nat)) : State :=
  let cur := s.cur
  let s := { s with cur := { group := c.group, jset := copySet c.tok } }
  let s := ps.foldl (fun s p =>
    let pa := s.paOf core asid p.1
    if s.pending 0 pa then s else s.sendRemote 0 .load pa (BitVec.ofNat 64 p.1) p.2.2 0) s
  { s with cur }

/-- Takes a copy out of its core's engine, dropping from the core's L1 the lines it wrote (R251). -/
def State.endCopy (s : State) (core idx : Nat) : State :=
  s.onCore core fun x =>
    let c := x.copies.getD idx {}
    { (x.dropL1 fun l => c.wrote.contains l) with copies := ldel x.copies idx }

/-- Reads or writes of a copy's row that left the package are not answered yet. -/
def State.rowOut (s : State) (c : Copy) : Bool := s.remotes.any fun r => r.group == c.group && r.jset == copySet c.tok

/-- The row under way of a copy is performed: its lines sign, its count moves on, and the last one ends the copy (R248, R382,
R386). -/
def State.endRow (s : State) (core idx : Nat) (c : Copy) : State :=
  let lost := c.lost + c.gone
  let s := c.signs.foldl (fun s l => s.sign c.group l) s
  let s1 := s.onCore core fun x => { x with
    copies := lset x.copies idx { c with row := c.row + 1, lost, sent := false, gone := 0, signs := [] } }
  let last := decide (c.rows ≤ c.row + 1)
  let s2 := s1.onGrp c.group fun g => g.setToken c.tok
    { state := if last then (if lost = 0 then 0 else 3) else 1, row := BitVec.ofNat 24 (c.row + 1) }
  if last then s2.endCopy core idx else s2

/-- Reads and writes the row under way of a copy, whose checks have passed. -/
def State.moveRow (s : State) (core idx : Nat) (c : Copy) (src : Side) (dsts : List Side) (slice : Option Nat) : State :=
  let asid := (s.launch c.launch).lrec.asid
  let keep (s : State) (x : Side) : State := match x with
    | .glob va => s.keepRange core asid va.toNat c.rowbytes | .loc _ _ _ _ _ => s
  let s := (src :: dsts).foldl keep s
  let key := s.sideKey core asid src
  let (bs, s1) := s.readSide core asid c src c.rowbytes slice
  let s1 := s1.onGrp c.group fun g => { g with resp := g.resp.filter fun r => r.jset != copySet c.tok }
  let (s2, gone) := dsts.foldl (fun a d =>
    let (s, k) := a.1.writeSide core asid c d bs slice key
    (s, a.2 + k)) (s1, c.missing)
  let wrote := dsts.flatMap fun d => match d with
    | .glob va => s.rangeLines core asid va.toNat c.rowbytes | .loc _ _ _ _ _ => []
  let c1 := { c with sent := true, gone, wrote := c.wrote ++ wrote, signs := wrote }
  let s3 := s2.onCore core fun x => { x with
    mcdrop := BitVec.ofNat 32 (min (x.mcdrop.toNat + gone) (2 ^ 32 - 1)), copies := lset x.copies idx c1 }
  if s3.rowOut c1 then s3 else s3.endRow core idx c1

/-- COPY_ROW: one row of a copy (R252). Reads that leave the package are sent first, and the row follows once they are all
answered; a row whose writes leave the package is performed once they are acknowledged (R382). -/
def execCopyRow (core idx : Nat) (s : State) : Host.Outcome State Fault Refusal :=
  ran s <| match (s.core core).copies[idx]? with
  | none => s
  | some c =>
    let asid := (s.launch c.launch).lrec.asid
    let (src, dsts, slice) := c.rowSides c.row
    let tensor := c.tile.isSome
    let fault (e : Byte × Nat) : State :=
      (s.onGrp c.group fun g => { g.setToken c.tok
        { state := 2, cause := e.1.setWidth 6, row := BitVec.ofNat 24 c.row, addr := BitVec.ofNat 64 e.2 } with
        resp := g.resp.filter fun r => r.jset != copySet c.tok }).endCopy core idx
    if s.rowOut c then s
    else if c.sent then s.endRow core idx c
    else match s.sideFault core asid src c.rowbytes .read tensor with
    | some e => fault e
    | none =>
      let (ask, failed) := s.outState core asid c src c.rowbytes
      if !ask.isEmpty then s.askOut core asid c ask
      else match (s.readFault core asid src c.rowbytes failed).or
          (dsts.findSome? fun d => s.sideFault core asid d c.rowbytes .write tensor) with
        | some e => fault e
        | none => s.moveRow core idx c src dsts slice

end Sys2Proof.Machine
end

