-- ==== Sys2Proof/Machine/Scalar.lean ====
section
/-!
DEFINITION. The scalar instructions of rows 0x2_ and 0x3_ (R106, R130-R136).
-/
namespace Sys2Proof.Machine

/-- a shifted left, right or right with sign copies by an unsigned count (R130). -/
def shl64 (a : DWord) (n : Nat) : DWord := if 64 ≤ n then 0 else a <<< n
def shr64 (a : DWord) (n : Nat) : DWord := if 64 ≤ n then 0 else a >>> n
def sra64 (a : DWord) (n : Nat) : DWord := a.sshiftRight (min n 63)

/-- SDIV: truncated; a zero divisor gives all ones (R43, R130). -/
def sdiv64 (a b : DWord) : DWord := if b = 0 then BitVec.allOnes 64 else BitVec.ofInt 64 (a.toInt.tdiv b.toInt)

/-- Leading zero bits of a w-bit number. -/
def clz (w n : Nat) : Nat := w - bits n

/-- Set bits among the lowest w of a number. -/
def popc (n : Nat) : Nat → Nat
  | 0 => 0
  | w + 1 => (if n.testBit w then 1 else 0) + popc n w

def execSadd (d a b : Reg) (s : State) : Host.Outcome State Fault Refusal :=
  ran s (s.scalarOp [a, b] d (s.rdS a + s.rdS b) 1)
def execSsub (d a b : Reg) (s : State) : Host.Outcome State Fault Refusal :=
  ran s (s.scalarOp [a, b] d (s.rdS a - s.rdS b) 1)
def execSmul (d a b : Reg) (s : State) : Host.Outcome State Fault Refusal :=
  ran s (s.scalarOp [a, b] d (s.rdS a * s.rdS b) 1)
/-- SMULH: the signed high half, rounded down. -/
def execSmulh (d a b : Reg) (s : State) : Host.Outcome State Fault Refusal :=
  ran s (s.scalarOp [a, b] d (BitVec.ofInt 64 ((s.rdS a).toInt * (s.rdS b).toInt / 2 ^ 64)) 1)
def execSdiv (d a b : Reg) (s : State) : Host.Outcome State Fault Refusal :=
  ran s (s.scalarOp [a, b] d (sdiv64 (s.rdS a) (s.rdS b)) 1)
def execSdivn (d a b : Reg) (s : State) : Host.Outcome State Fault Refusal :=
  ran s (s.scalarOp [a, b] d (if s.rdS b = 0 then BitVec.allOnes 64 else s.rdS a / s.rdS b) 1)
/-- SREM: a - b SDIV(a, b); a zero divisor gives a. -/
def execSrem (d a b : Reg) (s : State) : Host.Outcome State Fault Refusal :=
  ran s (s.scalarOp [a, b] d (if s.rdS b = 0 then s.rdS a else s.rdS a - s.rdS b * sdiv64 (s.rdS a) (s.rdS b)) 1)
def execSand (d a b : Reg) (s : State) : Host.Outcome State Fault Refusal :=
  ran s (s.scalarOp [a, b] d (s.rdS a &&& s.rdS b) 1)
def execSor (d a b : Reg) (s : State) : Host.Outcome State Fault Refusal :=
  ran s (s.scalarOp [a, b] d (s.rdS a ||| s.rdS b) 1)
def execSxor (d a b : Reg) (s : State) : Host.Outcome State Fault Refusal :=
  ran s (s.scalarOp [a, b] d (s.rdS a ^^^ s.rdS b) 1)
def execSshl (d a b : Reg) (s : State) : Host.Outcome State Fault Refusal :=
  ran s (s.scalarOp [a, b] d (shl64 (s.rdS a) (s.rdS b).toNat) 1)
def execSshr (d a b : Reg) (s : State) : Host.Outcome State Fault Refusal :=
  ran s (s.scalarOp [a, b] d (shr64 (s.rdS a) (s.rdS b).toNat) 1)
def execSsra (d a b : Reg) (s : State) : Host.Outcome State Fault Refusal :=
  ran s (s.scalarOp [a, b] d (sra64 (s.rdS a) (s.rdS b).toNat) 1)
def execSmin (d a b : Reg) (s : State) : Host.Outcome State Fault Refusal :=
  ran s (s.scalarOp [a, b] d (if (s.rdS b).slt (s.rdS a) then s.rdS b else s.rdS a) 1)
def execSmax (d a b : Reg) (s : State) : Host.Outcome State Fault Refusal :=
  ran s (s.scalarOp [a, b] d (if (s.rdS a).slt (s.rdS b) then s.rdS b else s.rdS a) 1)

/-- SCMP: unsigned under the n types, signed under every other; one truth value for the set (R131). -/
def execScmp (pd : BitVec 3) (c : Cond) (a b : Reg) (s : State) : Host.Outcome State Fault Refusal :=
  let t := mType s.mode
  let lt := if t < 8 ∧ t % 2 = 1 then (s.rdS a).ult (s.rdS b) else (s.rdS a).slt (s.rdS b)
  ran s (s.withScalars [a, b] (s.done (s.putPred pd.toNat (condHolds c lt (s.rdS a == s.rdS b))) 1))

def execSaddi (d a : Reg) (imm : BitVec 8) (s : State) : Host.Outcome State Fault Refusal :=
  ran s (s.scalarOp [a] d (s.rdS a + imm.signExtend 64) 1)
def execSmovi (d : Reg) (imm : BitVec 16) (s : State) : Host.Outcome State Fault Refusal :=
  ran s (s.scalarOp [] d (imm.signExtend 64) 1)
def execSmovx (d : Reg) (imm : BitVec 32) (s : State) : Host.Outcome State Fault Refusal :=
  ran s (s.scalarOp [] d (imm.signExtend 64) 2)
def execSmovxh (d : Reg) (imm : BitVec 32) (s : State) : Host.Outcome State Fault Refusal :=
  ran s (s.scalarOp [] d (imm ++ (s.rdS d).setWidth 32) 2)
def execSshli (d a : Reg) (imm : BitVec 8) (s : State) : Host.Outcome State Fault Refusal :=
  ran s (s.scalarOp [a] d (shl64 (s.rdS a) imm.toNat) 1)
def execSshri (d a : Reg) (imm : BitVec 8) (s : State) : Host.Outcome State Fault Refusal :=
  ran s (s.scalarOp [a] d (shr64 (s.rdS a) imm.toNat) 1)
def execSsrai (d a : Reg) (imm : BitVec 8) (s : State) : Host.Outcome State Fault Refusal :=
  ran s (s.scalarOp [a] d (sra64 (s.rdS a) imm.toNat) 1)
def execSandi (d a : Reg) (imm : BitVec 8) (s : State) : Host.Outcome State Fault Refusal :=
  ran s (s.scalarOp [a] d (s.rdS a &&& imm.zeroExtend 64) 1)
def execSmadi (d a : Reg) (imm : BitVec 8) (s : State) : Host.Outcome State Fault Refusal :=
  ran s (s.scalarOp [a] d (s.rdS d + s.rdS a * imm.signExtend 64) 1)
def execSpopc (d a : Reg) (s : State) : Host.Outcome State Fault Refusal :=
  ran s (s.scalarOp [a] d (BitVec.ofNat 64 (popc (s.rdS a).toNat 64)) 1)
def execSclz (d a : Reg) (s : State) : Host.Outcome State Fault Refusal :=
  ran s (s.scalarOp [a] d (BitVec.ofNat 64 (clz 64 (s.rdS a).toNat)) 1)

/-- RFAL: the lowest active lane's value, a pair under the 64-bit types, sign-extended under i32; 0 with no active
lane. Field a holds a v code (R133, R134). -/
def execRfal (d a : Reg) (s : State) : Host.Outcome State Fault Refusal :=
  let t := mType s.mode
  let n := typeWords t
  let x : DWord := match s.lanes, a with
    | l :: _, .v i =>
      if n = 2 then s.g.vr (i.val + 1) l ++ s.g.vr i.val l
      else if t = 0 then (s.g.vr i.val l).signExtend 64 else (s.g.vr i.val l).zeroExtend 64
    | _, _ => 0
  let badA := match a with | .v i => misaligned i.val n | _ => true
  ran s <| if s.badS d || badA then s.trap { cause := 0x03 }
    else if s.g.notHeld a n then s.trap { cause := 0x04 }
    else s.done (s.wrS d x) 1

/-- A mask of the lanes that satisfy a condition. -/
def maskOf (ls : List Nat) (p : Nat → Bool) : DWord :=
  ls.foldl (fun m l => if p l then m ||| ((1 : DWord) <<< l) else m) 0

/-- SMASK: the predicate in every lane of the set, whatever its mask and guard (R133, R135). -/
def execSmask (d : Reg) (pa : BitVec 3) (s : State) : Host.Outcome State Fault Refusal :=
  ran s (s.scalarOp [] d (maskOf s.setLanes fun l => s.g.pr pa.toNat l) 1)

/-- The identity values of SID (R136). -/
def State.identity (s : State) (k : Nat) : Nat :=
  match k with
  | 0 => s.g.core
  | 1 => stackOf s.g.core
  | 2 => s.g.core / 4 % 4
  | 3 => s.g.part
  | 4 => s.leadK
  | 5 => s.g.width / 4
  | 6 => s.g.launch
  | _ => s.lau.lrec.teamsX * s.lau.lrec.teamsY

def execSid (d : Reg) (imm : BitVec 8) (s : State) : Host.Outcome State Fault Refusal :=
  ran s (s.scalarOp [] d (BitVec.ofNat 64 (s.identity imm.toNat)) 1)

/-- SSEL: by the predicate of the set's lowest lane (R133, R135). -/
def execSsel (d : Reg) (pk : BitVec 3) (a b : Reg) (s : State) : Host.Outcome State Fault Refusal :=
  ran s (s.scalarOp [a, b] d (if s.g.pr pk.toNat (s.setLanes.headD 0) then s.rdS a else s.rdS b) 2)

end Sys2Proof.Machine
end

