-- ==== Sys2Proof/Machine/VecInt.lean ====
section
/-!
DEFINITION. The vector integer and predicate instructions of rows 0x4_ and 0x5_ (R107-R109, R137-R144).
-/
namespace Sys2Proof.Machine

/-! ## Shared forms -/

/-- The operands of an instruction with vector sources of the MODE type's width. -/
def State.vecUses (s : State) (d : Reg) (srcs : List Reg) (noq typeOk : Bool) : Uses :=
  let n := typeWords (mType s.mode)
  { srcs := srcs.map fun r => (r, n), dsts := [(d, n)], noq, typeOk }

/-- Element e of source i of a lane. -/
def srcElem (t i : Nat) (vs : List (List Word)) (e : Nat) : Int := elemInt t (vs.getD i []) e
def srcBits (t i : Nat) (vs : List (List Word)) (e : Nat) : Nat := elemNat (typeBits t) (vs.getD i []) e

/-- The elements of a value of the MODE type from a function of the element number. -/
def buildElems (t : Nat) (f : Nat → Int) : List Word :=
  packElems (typeBits t) (typeWords t) ((List.range (typeCount t)).map fun e => toBits (typeBits t) (f e))

/-- fit of R107 under the MODE of the issuing set. -/
def State.fitT (s : State) (x : Int) : Int :=
  let t := mType s.mode
  fit (mSat s.mode) (typeBits t) (typeSigned t) x

/-- An element-wise integer instruction: f takes the sources' words, the old destination and the element (R109). -/
def State.intOp (s : State) (d : Reg) (srcs : List Reg) (noq : Bool)
    (f : List (List Word) → List Word → Nat → Int) : State :=
  let t := mType s.mode
  s.vecOp (s.vecUses d srcs noq (intType t)) d 0 (typeWords t) (fun _ vs old _ => some (buildElems t (f vs old))) 1

/-- An instruction on whole words or pairs under every type (R108). -/
def State.wordOp (s : State) (d : Reg) (srcs : List Reg) (f : Nat → List (List Word) → List Word) (len : Nat) : State :=
  s.vecOp (s.vecUses d srcs false true) d 0 (typeWords (mType s.mode)) (fun l vs _ _ => some (f l vs)) len

/-- A bitwise operation word by word. -/
def zipVals (f : Word → Word → Word) (vs : List (List Word)) : List Word :=
  List.zipWith f (vs.getD 0 []) (vs.getD 1 [])

/-! ## Two sources (R137, R138) -/

def execVadd (d a b : Reg) (s : State) : Host.Outcome State Fault Refusal :=
  let t := mType s.mode
  ran s (s.intOp d [a, b] false fun vs _ e => s.fitT (srcElem t 0 vs e + srcElem t 1 vs e))
def execVsub (d a b : Reg) (s : State) : Host.Outcome State Fault Refusal :=
  let t := mType s.mode
  ran s (s.intOp d [a, b] false fun vs _ e => s.fitT (srcElem t 0 vs e - srcElem t 1 vs e))
def execVmul (d a b : Reg) (s : State) : Host.Outcome State Fault Refusal :=
  let t := mType s.mode
  ran s (s.intOp d [a, b] false fun vs _ e => s.fitT (srcElem t 0 vs e * srcElem t 1 vs e))
/-- VMULH: the high half, rounded down and never saturated. -/
def execVmulh (d a b : Reg) (s : State) : Host.Outcome State Fault Refusal :=
  let t := mType s.mode
  ran s (s.intOp d [a, b] false fun vs _ e => srcElem t 0 vs e * srcElem t 1 vs e / 2 ^ typeBits t)
/-- VMAD: one fit of z + x y; d is read, so no q code stands there. -/
def execVmad (d a b : Reg) (s : State) : Host.Outcome State Fault Refusal :=
  let t := mType s.mode
  ran s (s.intOp d [a, b] true fun vs old e => s.fitT (elemInt t old e + srcElem t 0 vs e * srcElem t 1 vs e))
def execVand (d a b : Reg) (s : State) : Host.Outcome State Fault Refusal :=
  ran s (s.wordOp d [a, b] (fun _ vs => zipVals (· &&& ·) vs) 1)
def execVor (d a b : Reg) (s : State) : Host.Outcome State Fault Refusal :=
  ran s (s.wordOp d [a, b] (fun _ vs => zipVals (· ||| ·) vs) 1)
def execVxor (d a b : Reg) (s : State) : Host.Outcome State Fault Refusal :=
  ran s (s.wordOp d [a, b] (fun _ vs => zipVals (· ^^^ ·) vs) 1)

/-- x shifted left by k, fitted; a count of the width or more shifts everything out or saturates (R138). -/
def State.shlElem (s : State) (x : Int) (k : Nat) : Int := s.fitT (x * 2 ^ min k 64)
/-- x read unsigned shifted right by k. -/
def shrElem (x k : Nat) : Int := ((x / 2 ^ min k 64 : Nat) : Int)
/-- x read signed shifted right by k. -/
def sraElem (w x k : Nat) : Int := wrapInt w true (x : Int) / 2 ^ min k 64

def execVshl (d a b : Reg) (s : State) : Host.Outcome State Fault Refusal :=
  let t := mType s.mode
  ran s (s.intOp d [a, b] false fun vs _ e => s.shlElem (srcElem t 0 vs e) (srcBits t 1 vs e))
def execVshr (d a b : Reg) (s : State) : Host.Outcome State Fault Refusal :=
  let t := mType s.mode
  ran s (s.intOp d [a, b] false fun vs _ e => shrElem (srcBits t 0 vs e) (srcBits t 1 vs e))
def execVsra (d a b : Reg) (s : State) : Host.Outcome State Fault Refusal :=
  let t := mType s.mode
  ran s (s.intOp d [a, b] false fun vs _ e => sraElem (typeBits t) (srcBits t 0 vs e) (srcBits t 1 vs e))
def execVmin (d a b : Reg) (s : State) : Host.Outcome State Fault Refusal :=
  let t := mType s.mode
  ran s (s.intOp d [a, b] false fun vs _ e => min (srcElem t 0 vs e) (srcElem t 1 vs e))
def execVmax (d a b : Reg) (s : State) : Host.Outcome State Fault Refusal :=
  let t := mType s.mode
  ran s (s.intOp d [a, b] false fun vs _ e => max (srcElem t 0 vs e) (srcElem t 1 vs e))
def execVabsd (d a b : Reg) (s : State) : Host.Outcome State Fault Refusal :=
  let t := mType s.mode
  ran s (s.intOp d [a, b] false fun vs _ e => s.fitT ((srcElem t 0 vs e - srcElem t 1 vs e).natAbs : Int))

/-- VCMP: the condition for every element pair, in each active lane (R139). -/
def execVcmp (pd : BitVec 3) (c : Cond) (a b : Reg) (s : State) : Host.Outcome State Fault Refusal :=
  let t := mType s.mode
  let n := typeWords t
  ran s (s.vecPred { srcs := [(a, n), (b, n)], typeOk := intType t } pd fun _ vs =>
    condVec c t (vs.getD 0 []) (vs.getD 1 []))

/-- VSEL: a where the lane's predicate holds, else b (R140). -/
def execVsel (d : Reg) (pk : BitVec 3) (a b : Reg) (s : State) : Host.Outcome State Fault Refusal :=
  ran s (s.wordOp d [a, b] (fun l vs => if s.g.pr pk.toNat l then vs.getD 0 [] else vs.getD 1 []) 2)

/-! ## Immediate and one-source forms (R141) -/

def execVaddi (d a : Reg) (imm : BitVec 8) (s : State) : Host.Outcome State Fault Refusal :=
  let t := mType s.mode
  ran s (s.intOp d [a] false fun vs _ e => s.fitT (srcElem t 0 vs e + imm.toInt))
/-- VMOVI and VMOVX write a whole word or pair, whatever the elements. -/
def execVmovi (d : Reg) (imm : BitVec 16) (s : State) : Host.Outcome State Fault Refusal :=
  ran s (s.wordOp d [] (fun _ _ => splitWords (imm.signExtend 64).toNat (typeWords (mType s.mode))) 1)
def execVmovx (d : Reg) (imm : BitVec 32) (s : State) : Host.Outcome State Fault Refusal :=
  ran s (s.wordOp d [] (fun _ _ => splitWords (imm.signExtend 64).toNat (typeWords (mType s.mode))) 2)
/-- R141; an f32 MODE raises 0x03 by R108, also in Program 5 of R432 as printed (log 100). -/
def execVshli (d a : Reg) (imm : BitVec 8) (s : State) : Host.Outcome State Fault Refusal :=
  let t := mType s.mode
  ran s (s.intOp d [a] false fun vs _ e => s.shlElem (srcElem t 0 vs e) imm.toNat)
def execVshri (d a : Reg) (imm : BitVec 8) (s : State) : Host.Outcome State Fault Refusal :=
  let t := mType s.mode
  ran s (s.intOp d [a] false fun vs _ e => shrElem (srcBits t 0 vs e) imm.toNat)
def execVsrai (d a : Reg) (imm : BitVec 8) (s : State) : Host.Outcome State Fault Refusal :=
  let t := mType s.mode
  ran s (s.intOp d [a] false fun vs _ e => sraElem (typeBits t) (srcBits t 0 vs e) imm.toNat)
def execVpopc (d a : Reg) (s : State) : Host.Outcome State Fault Refusal :=
  let t := mType s.mode
  ran s (s.intOp d [a] false fun vs _ e => (popc (srcBits t 0 vs e) (typeBits t) : Int))
def execVclz (d a : Reg) (s : State) : Host.Outcome State Fault Refusal :=
  let t := mType s.mode
  ran s (s.intOp d [a] false fun vs _ e => (clz (typeBits t) (srcBits t 0 vs e) : Int))
def execVlane (d : Reg) (s : State) : Host.Outcome State Fault Refusal :=
  ran s (s.wordOp d [] (fun l _ => splitWords l (typeWords (mType s.mode))) 1)
def execVmov (d a : Reg) (s : State) : Host.Outcome State Fault Refusal :=
  ran s (s.wordOp d [a] (fun _ vs => vs.getD 0 []) 1)

/-! ## Predicates (R143, R144) -/

def execPand (pd pa pb : BitVec 3) (s : State) : Host.Outcome State Fault Refusal :=
  ran s (s.done (s.putPreds pd.toNat fun l => s.g.pr pa.toNat l && s.g.pr pb.toNat l) 1)
def execPor (pd pa pb : BitVec 3) (s : State) : Host.Outcome State Fault Refusal :=
  ran s (s.done (s.putPreds pd.toNat fun l => s.g.pr pa.toNat l || s.g.pr pb.toNat l) 1)
def execPxor (pd pa pb : BitVec 3) (s : State) : Host.Outcome State Fault Refusal :=
  ran s (s.done (s.putPreds pd.toNat fun l => xor (s.g.pr pa.toNat l) (s.g.pr pb.toNat l)) 1)
def execPnot (pd pa : BitVec 3) (s : State) : Host.Outcome State Fault Refusal :=
  ran s (s.done (s.putPreds pd.toNat fun l => !s.g.pr pa.toNat l) 1)
/-- PTEST: the or over the active lanes, written in every lane of the set. -/
def execPtest (pd pa : BitVec 3) (s : State) : Host.Outcome State Fault Refusal :=
  ran s (s.done (s.putPred pd.toNat (s.lanes.any fun l => s.g.pr pa.toNat l)) 1)

/-! ## Packing (R142) -/

/-- VPACKS: narrows to the type of half the width, always saturating; i8x4 and the float types raise 0x03. -/
def execVpacks (d a b : Reg) (s : State) : Host.Outcome State Fault Refusal :=
  let t := mType s.mode
  let w := typeBits t / 2
  ran s (s.vecOp (s.vecUses d [a, b] false (intType t && decide (typeBits t ≠ 8))) d 0 (typeWords t) (fun _ vs _ _ =>
    let xs (i : Nat) := (List.range (typeCount t)).map fun e => toBits w (satInt w (typeSigned t) (srcElem t i vs e))
    some (packElems w (typeWords t) (xs 0 ++ xs 1))) 1)

end Sys2Proof.Machine
end

