-- ==== Sys2Proof/Machine/VecFloat.lean ====
section
/-!
DEFINITION. The floating-point lane instructions, conversions and quantization of rows 0x6_ and 0x7_
(R145-R161), and the completion of a special-function argument (R207).
-/
namespace Sys2Proof.Machine

/-! ## Shared forms (R145) -/

/-- Element e of source i of a lane as a float of the MODE type, flushed under MODE.ftz. -/
def State.srcFlt (s : State) (i : Nat) (vs : List (List Word)) (e : Nat) : FVal :=
  elemFlt (typeFmt (mType s.mode)) (mFtz s.mode) (vs.getD i []) e

/-- An element-wise instruction on codes: f gives the code of each element from the lane, sources, old destination,
element and its draw. `steps` is the draws per element. -/
def State.codeOp (s : State) (d : Reg) (srcs : List Reg) (noq : Bool) (steps : Nat)
    (f : Nat → List (List Word) → List Word → Nat → Nat → Nat) : State :=
  let t := mType s.mode
  s.vecOp (s.vecUses d srcs noq (floatType t)) d (steps * typeCount t) 1 (fun l vs old ds =>
    some (buildElems t fun e => (f l vs old e (ds.getD e 0).toNat : Int))) 1

/-- An element-wise instruction that rounds one exact result per element. -/
def State.fltOp (s : State) (d : Reg) (srcs : List Reg) (noq : Bool)
    (f : List (List Word) → List Word → Nat → Exact) : State :=
  let fm := typeFmt (mType s.mode)
  s.codeOp d srcs noq 1 fun l vs old e draw => fm.finish (mRound s.mode) draw (mFtz s.mode) l s.pc (f vs old e)

/-- A one-source instruction that rounds one exact result per element. -/
def State.fltOp1 (s : State) (d a : Reg) (f : FVal → Exact) : State :=
  s.fltOp d [a] false fun vs _ e => f (s.srcFlt 0 vs e)

/-! ## Arithmetic (R146-R151) -/

def execVfadd (d a b : Reg) (s : State) : Host.Outcome State Fault Refusal :=
  ran s (s.fltOp d [a, b] false fun vs _ e => addX (mRound s.mode) (s.srcFlt 0 vs e) (s.srcFlt 1 vs e))
def execVfsub (d a b : Reg) (s : State) : Host.Outcome State Fault Refusal :=
  ran s (s.fltOp d [a, b] false fun vs _ e => addX (mRound s.mode) (s.srcFlt 0 vs e) (s.srcFlt 1 vs e).negate)
def execVfmul (d a b : Reg) (s : State) : Host.Outcome State Fault Refusal :=
  ran s (s.fltOp d [a, b] false fun vs _ e => mulX (s.srcFlt 0 vs e) (s.srcFlt 1 vs e))
/-- The fused forms round x y + z once; NaNs are taken in the order a, b, d. -/
def execVfma (d a b : Reg) (s : State) : Host.Outcome State Fault Refusal :=
  ran s (s.fltOp d [a, b] true fun vs old e =>
    fmaX (mRound s.mode) (s.srcFlt 0 vs e) (s.srcFlt 1 vs e) (s.srcFlt 0 [old] e))
def execVfms (d a b : Reg) (s : State) : Host.Outcome State Fault Refusal :=
  ran s (s.fltOp d [a, b] true fun vs old e =>
    fmaX (mRound s.mode) (s.srcFlt 0 vs e) (s.srcFlt 1 vs e) (s.srcFlt 0 [old] e).negate)
def execVfnma (d a b : Reg) (s : State) : Host.Outcome State Fault Refusal :=
  ran s (s.fltOp d [a, b] true fun vs old e =>
    fmaX (mRound s.mode) (s.srcFlt 0 vs e).negate (s.srcFlt 1 vs e) (s.srcFlt 0 [old] e))
def execVfdiv (d a b : Reg) (s : State) : Host.Outcome State Fault Refusal :=
  ran s (s.fltOp d [a, b] false fun vs _ e => divX (s.srcFlt 0 vs e) (s.srcFlt 1 vs e))

/-- x below y, with -0 below +0 (R147). -/
def fltBelow (x y : FVal) : Bool :=
  let c := cmpVal x y
  decide (c < 0) || (decide (c = 0) && x.neg? && !y.neg?)

/-- The smaller or larger of two codes (R147): the other operand where one is a NaN, the first NaN where both are. -/
def pickCode (f : Fmt) (larger : Bool) (x y : Nat) : Nat :=
  match f.decode x, f.decode y with
  | .nan s p w, .nan _ _ _ => f.nan s p w
  | .nan _ _ _, _ => y
  | _, .nan _ _ _ => x
  | u, v => if xor larger (fltBelow v u) then y else x

/-- A code with its sign set by g, after flushing; a NaN is quieted and keeps its sign (R149). -/
def signCode (f : Fmt) (g : Bool → Bool) (c : Nat) : Nat :=
  match f.decode c with
  | .nan s p w => f.nan s p w
  | v => c % 2 ^ (f.eb + f.fb) + f.sign (g v.neg?)

/-- The flushed code of element e of source i. -/
def State.srcCode (s : State) (i : Nat) (vs : List (List Word)) (e : Nat) : Nat :=
  (typeFmt (mType s.mode)).flush (mFtz s.mode) (srcBits (mType s.mode) i vs e)

def execVfmin (d a b : Reg) (s : State) : Host.Outcome State Fault Refusal :=
  ran s (s.codeOp d [a, b] false 0 fun _ vs _ e _ => pickCode (typeFmt (mType s.mode)) false (s.srcCode 0 vs e) (s.srcCode 1 vs e))
def execVfmax (d a b : Reg) (s : State) : Host.Outcome State Fault Refusal :=
  ran s (s.codeOp d [a, b] false 0 fun _ vs _ e _ => pickCode (typeFmt (mType s.mode)) true (s.srcCode 0 vs e) (s.srcCode 1 vs e))
def execVfcmp (pd : BitVec 3) (c : Cond) (a b : Reg) (s : State) : Host.Outcome State Fault Refusal :=
  let t := mType s.mode
  ran s (s.vecPred { srcs := [(a, 1), (b, 1)], typeOk := floatType t } pd fun _ vs =>
    condVecFlt c t (mFtz s.mode) (vs.getD 0 []) (vs.getD 1 []))
def execVfabs (d a : Reg) (s : State) : Host.Outcome State Fault Refusal :=
  ran s (s.codeOp d [a] false 0 fun _ vs _ e _ => signCode (typeFmt (mType s.mode)) (fun _ => false) (s.srcCode 0 vs e))
def execVfneg (d a : Reg) (s : State) : Host.Outcome State Fault Refusal :=
  ran s (s.codeOp d [a] false 0 fun _ vs _ e _ => signCode (typeFmt (mType s.mode)) (!·) (s.srcCode 0 vs e))
def execVfsqrt (d a : Reg) (s : State) : Host.Outcome State Fault Refusal := ran s (s.fltOp1 d a sqrtX)
def execVfrcp (d a : Reg) (s : State) : Host.Outcome State Fault Refusal := ran s (s.fltOp1 d a rcpX)
def execVfrsq (d a : Reg) (s : State) : Host.Outcome State Fault Refusal := ran s (s.fltOp1 d a rsqX)
def execVfexp2 (d a : Reg) (s : State) : Host.Outcome State Fault Refusal := ran s (s.fltOp1 d a exp2X)
def execVflog2 (d a : Reg) (s : State) : Host.Outcome State Fault Refusal := ran s (s.fltOp1 d a log2X)
def execVfsinp (d a : Reg) (s : State) : Host.Outcome State Fault Refusal := ran s (s.fltOp1 d a sinpX)
def execVfcosp (d a : Reg) (s : State) : Host.Outcome State Fault Refusal := ran s (s.fltOp1 d a cospX)
def execVftanh (d a : Reg) (s : State) : Host.Outcome State Fault Refusal := ran s (s.fltOp1 d a tanhX)
def execVfsigm (d a : Reg) (s : State) : Host.Outcome State Fault Refusal := ran s (s.fltOp1 d a sigmX)

/-! ## Conversions (R152, R153) -/

/-- A floating value converted to an integer type (R44). -/
def fltToInt (t mode draw : Nat) (sat : Bool) (x : FVal) : Int :=
  match x with
  | .nan _ _ _ => 0
  | .inf s => if sat then (if s then minInt (typeBits t) (typeSigned t) else maxInt (typeBits t) (typeSigned t)) else 0
  | .num s m e => fit sat (typeBits t) (typeSigned t) (roundInt mode draw { neg := s, m, e })

/-- The conversion from type S to type D is a rounding step (R52, R153). -/
def cvtRounds (src dst : Nat) : Bool :=
  if intType src then floatType dst
  else if intType dst then true
  else src != dst && dst != 8

/-- One element converted from bits of type S to bits of type D (R153). -/
def cvtElem (src dst mode draw : Nat) (sat ftz : Bool) (lane : Nat) (pc : DWord) (x : Nat) : Nat :=
  if intType src then
    let v := wrapInt (typeBits src) (typeSigned src) (x : Int)
    if intType dst then toBits (typeBits dst) (fit sat (typeBits dst) (typeSigned dst) v)
    else (typeFmt dst).finish mode draw ftz lane pc (.fin (Mag.ofInt v))
  else
    let f := typeFmt src
    let v := f.decode (f.flush ftz x)
    if intType dst then toBits (typeBits dst) (fltToInt dst mode draw sat v)
    else (typeFmt dst).finish mode draw ftz lane pc (.ofVal v)

/-- VCVT and VCVTI: `hi` selects the upper elements where the element counts differ (R152). -/
def State.convert (s : State) (d a : Reg) (src : Nat) (hi : Bool) : State :=
  let dst := mType s.mode
  let nS := typeCount src
  let nD := typeCount dst
  let u : Uses := { srcs := [(a, typeWords src)], dsts := [(d, typeWords dst)], noq := decide (nS < nD),
                    typeOk := decide (src ≤ 10 ∧ dst ≤ 10) }
  let dst0 := if hi && decide (nS < nD) then nD - nS else 0
  let src0 := if hi && decide (nD < nS) then nS - nD else 0
  let n := min nS nD
  s.vecOp u d (if cvtRounds src dst then n else 0) (typeWords dst) (fun l vs old ds =>
    some (packElems (typeBits dst) (typeWords dst) ((List.range nD).map fun e =>
      if dst0 ≤ e ∧ e < dst0 + n then
        cvtElem src dst (mRound s.mode) (ds.getD (e - dst0) 0).toNat (mSat s.mode) (mFtz s.mode) l s.pc
          (elemNat (typeBits src) (vs.getD 0 []) (e - dst0 + src0))
      else elemNat (typeBits dst) old e))) 1

def execVcvt (d a : Reg) (imm : BitVec 8) (s : State) : Host.Outcome State Fault Refusal :=
  ran s (s.convert d a imm.toNat false)
def execVcvti (d a : Reg) (imm : BitVec 8) (s : State) : Host.Outcome State Fault Refusal :=
  ran s (s.convert d a imm.toNat true)

/-- The class bit of a code (R154). -/
def classBit (f : Fmt) (c : Nat) : Nat :=
  let sub := (c >>> f.fb) % 2 ^ f.eb == 0
  match f.decode c with
  | .nan _ p _ => if p.testBit (f.fb - 1) then 9 else 8
  | .inf s => if s then 0 else 7
  | .num s m _ => if m = 0 then (if s then 3 else 4) else if sub then (if s then 2 else 5) else (if s then 1 else 6)

def execVfclass (d a : Reg) (s : State) : Host.Outcome State Fault Refusal :=
  ran s (s.codeOp d [a] false 0 fun _ vs _ e _ => 2 ^ classBit (typeFmt (mType s.mode)) (s.srcCode 0 vs e))

/-- Rounded to an integral value (R155); a zero keeps the sign. -/
def rndInt (mode draw : Nat) (x : FVal) : Exact :=
  match x with
  | .num s m e => .fin { neg := s, m := (roundInt mode draw { neg := s, m, e }).natAbs }
  | v => .ofVal v

def execVfrnd (d a : Reg) (s : State) : Host.Outcome State Fault Refusal :=
  let fm := typeFmt (mType s.mode)
  ran s (s.codeOp d [a] false 1 fun l vs _ e draw =>
    fm.finish 0 0 (mFtz s.mode) l s.pc (rndInt (mRound s.mode) draw (s.srcFlt 0 vs e)))

/-- x 2^k exactly (R156). A count beyond 1000 in size gives the same rounded result as 1000 in every format. -/
def scaleX (x : FVal) (k : Int) : Exact :=
  match x with
  | .num s m e => .fin { neg := s, m, e := e + max (-1000) (min 1000 k) }
  | v => .ofVal v

/-- VFSCALE: b is an integer element of the same width, neither flushed nor tested for NaN. -/
def execVfscale (d a b : Reg) (s : State) : Host.Outcome State Fault Refusal :=
  let w := typeBits (mType s.mode)
  ran s (s.fltOp d [a, b] false fun vs _ e =>
    scaleX (s.srcFlt 0 vs e) (wrapInt w true (srcBits (mType s.mode) 1 vs e : Int)))

/-- The exact x0 y0 + x1 y1 + z, NaNs in the order a0, a1, b0, b1, d (R157). -/
def dot2X (mode : Nat) (x0 x1 y0 y1 z : FVal) : Exact :=
  (firstNan [x0, x1, y0, y1, z]).getD <|
    match mulVal x0 y0, mulVal x1 y1 with
    | some p, some q => sumExact mode [p, q, z]
    | _, _ => .invalid

/-- VFDOT2: two half-width products and an f32 addend, one rounding to f32. -/
def execVfdot2 (d a b : Reg) (s : State) : Host.Outcome State Fault Refusal :=
  let t := mType s.mode
  let u : Uses := { srcs := [(a, 1), (b, 1)], dsts := [(d, 1)], noq := true, typeOk := decide (t = 9 ∨ t = 10) }
  ran s (s.vecOp u d 1 1 (fun l vs old ds =>
    some [BitVec.ofNat 32 (f32.finish (mRound s.mode) (ds.getD 0 0).toNat (mFtz s.mode) l s.pc
      (dot2X (mRound s.mode) (s.srcFlt 0 vs 0) (s.srcFlt 0 vs 1) (s.srcFlt 1 vs 0) (s.srcFlt 1 vs 1)
        (elemFlt f32 (mFtz s.mode) old 0)))]) 1)

/-! ## Quantization and ternary packing (R57, R58, R61, R62, R158-R161) -/

/-- A format slot word of the launch (R62). -/
def State.slotWord (s : State) (k : Nat) : Half := s.lau.lrec.slots.getD k 0
def slotKind (w : Half) : Nat := (fld w 0 4).toNat
def slotMb (w : Half) : Nat := (fld w 4 4).toNat
def slotScale (w : Half) : Nat := (fld w 8 2).toNat

/-- The floating format of a slot kind. -/
def kindFmt (k : Nat) : Fmt :=
  match k with | 0 => e4m3 | 1 => e5m2 | 2 => e3m2 | 3 => e2m3 | 4 => e2m1 | 7 => bf16 | _ => f16

/-- Bits of an element of a kind of VQNT. -/
def kindBits (k : Nat) : Nat := match k with | 2 | 3 => 6 | 4 => 4 | _ => 8

/-- The kinds VQNT and VDQNT accept (R158). -/
def quantKind (k : Nat) : Bool := decide (k ≤ 4) || k == 9

/-- A value converted into a format of R56 (R57). -/
def quantElem (k mode draw : Nat) (sat : Bool) (x : FVal) : Nat :=
  if k = 9 then toBits 8 (fltToInt 4 mode draw sat x)
  else (kindFmt k).finish mode draw false 0 0 (.ofVal x)

/-- VQNT: four f32 values of a quad to one word of the slot's kind. -/
def execVqnt (d a : Reg) (slot : BitVec 3) (s : State) : Host.Outcome State Fault Refusal :=
  let k := slotKind (s.slotWord slot.toNat)
  let u : Uses := { srcs := [(a, 4)], dsts := [(d, 1)], typeOk := mType s.mode == 8 && quantKind k }
  ran s (s.vecOp u d 4 1 (fun _ vs _ ds =>
    some (packElems (kindBits k) 1 ((List.range 4).map fun e =>
      quantElem k (mRound s.mode) (ds.getD e 0).toNat (mSat s.mode)
        (elemFlt f32 (mFtz s.mode) (vs.getD 0 []) e)))) 1)

/-- An element of a kind as an f32 code (R159). -/
def dequantElem (k x : Nat) : Nat :=
  if k = 9 then f32.finish 0 0 false 0 0 (.fin (Mag.ofInt (wrapInt 8 true (x : Int))))
  else match (kindFmt k).decode x with
    | .nan s _ _ => f32.sign s + 0x7FC00000
    | v => f32.finish 0 0 false 0 0 (.ofVal v)

/-- VDQNT: one word of the slot's kind to four f32 values of a quad. -/
def execVdqnt (d a : Reg) (slot : BitVec 3) (s : State) : Host.Outcome State Fault Refusal :=
  let k := slotKind (s.slotWord slot.toNat)
  let u : Uses := { srcs := [(a, 1)], dsts := [(d, 4)], noq := true, typeOk := mType s.mode == 8 && quantKind k }
  ran s (s.vecOp u d 0 4 (fun _ vs _ _ =>
    some ((List.range 4).map fun e => BitVec.ofNat 32 (dequantElem k (elemNat (kindBits k) (vs.getD 0 []) e)))) 1)

/-- Five trits as a ternary byte, and the trits of one (R61). -/
def packTrits (ts : List Nat) : Nat := ts.foldr (fun t a => t + 3 * a) 0
def tritOf (byte i : Nat) : Int :=
  if 243 ≤ byte then 0 else match byte / 3 ^ i % 3 with | 0 => 0 | 1 => 1 | _ => -1

/-- VTPACK: the signs of 15 bytes of a quad as three ternary bytes. -/
def execVtpack (d a : Reg) (s : State) : Host.Outcome State Fault Refusal :=
  let u : Uses := { srcs := [(a, 4)], dsts := [(d, 1)] }
  ran s (s.vecOp u d 0 1 (fun _ vs _ _ =>
    let trit (i : Nat) : Nat :=
      let b := wrapInt 8 true (elemNat 8 (vs.getD 0 []) i : Int)
      if 0 < b then 1 else if b < 0 then 2 else 0
    let byte (j : Nat) : Nat := packTrits ((List.range 5).map fun i => trit (5 * j + i))
    some (packElems 8 1 [byte 0, byte 1, byte 2])) 1)

/-- VTUNPK: three ternary bytes to 15 signed bytes of a quad; the predicate marks a reserved byte. -/
def execVtunpk (d a : Reg) (pk : BitVec 3) (s : State) : Host.Outcome State Fault Refusal :=
  let u : Uses := { srcs := [(a, 1)], dsts := [(d, 4)], noq := true }
  ran s (s.withOperands u fun s1 vals =>
    let byte (l j : Nat) : Nat := elemNat 8 ((vals l).getD 0 []) j
    let out (l : Nat) : List Word := packElems 8 4 ((List.range 15).map fun i =>
      toBits 8 (tritOf (byte l (i / 5)) (i % 5)))
    let s2 := s1.writeDst d (s.lanes.map fun l => (l, out l))
    s.done (s2.putPreds pk.toNat fun l => (List.range 3).any fun j => decide (243 ≤ byte l j)) 1)

/-! ## The special-function unit (R207) -/

/-- The result of an argument: the selected function under the type, rounding, flush, draws and PC it carries. -/
def SfuArg.result (a : SfuArg) (lane : Nat) : Word :=
  let t := a.type.toNat
  let f := typeFmt t
  (buildElems t fun e =>
    (f.finish a.round.toNat (a.draws.getD e 0).toNat a.ftz lane a.pc
      (sfuFunction a.fn.toNat (elemFlt f a.ftz [a.value] e)) : Int)).headD 0

/-- SFU_RESULT: the lane's oldest argument becomes a result in its q5, if q5 has room. -/
def execSfuResult (group lane : Nat) (s : State) : Host.Outcome State Fault Refusal :=
  let g := s.grp group
  ran s <| match g.args lane with
    | a :: rest =>
      if 8 ≤ (g.queued 5 lane).length then s
      else s.onGrp group fun g =>
        { (g.setQueued 5 lane (g.queued 5 lane ++ [a.result lane])) with sfu := tput [] g.sfu lane rest }
    | [] => s

end Sys2Proof.Machine
end

