-- ==== Sys2Proof/Machine/Cross.lean ====
section
/-!
DEFINITION. The cross-lane instructions of row 0x8_ (R162-R170).
-/
namespace Sys2Proof.Machine

/-- An instruction whose result in a lane depends on the sources of every active lane; lanes without a result keep
their destination (R162). -/
def State.crossOp (s : State) (u : Uses) (d : Reg) (f : (Nat → List (List Word)) → List (Nat × List Word)) : State :=
  s.withOperands u fun s1 vals => s.done (s1.writeDst d (f vals)) 1

/-- Operands of the moves: a and d of the MODE type's width, b a single word; no q code in d. -/
def State.moveUses (s : State) (d a : Reg) (b : Option Reg) : Uses :=
  let n := typeWords (mType s.mode)
  { srcs := (a, n) :: (match b with | some r => [(r, 1)] | none => []), dsts := [(d, n)], noq := true }

/-- A pulling move: lane l takes the value of lane src(l), if that lane is active (R163). -/
def State.pull (s : State) (d a : Reg) (b : Option Reg) (src : Nat → Nat → Nat) : State :=
  s.crossOp (s.moveUses d a b) d fun vals =>
    s.lanes.filterMap fun l =>
      let m := src l (joinWords ((vals l).getD 1 []))
      if m < s.g.width ∧ s.active m then some (l, (vals m).getD 0 []) else none

def execVshfl (d a b : Reg) (s : State) : Host.Outcome State Fault Refusal :=
  ran s (s.pull d a (some b) fun _ x => x)
def execVrot (d a b : Reg) (s : State) : Host.Outcome State Fault Refusal :=
  ran s (s.pull d a (some b) fun l x => (l + x) % s.g.width)
def execVbcl (d a : Reg) (imm : BitVec 8) (s : State) : Host.Outcome State Fault Refusal :=
  ran s (s.pull d a none fun _ _ => imm.toNat)

/-- VSEND: a lane receives from the highest-numbered active lane that names it (R164). -/
def execVsend (d a b : Reg) (s : State) : Host.Outcome State Fault Refusal :=
  ran s (s.crossOp (s.moveUses d a (some b)) d fun vals =>
    s.lanes.filterMap fun t =>
      ((s.lanes.filter fun l => joinWords ((vals l).getD 1 []) == t).getLast?).map fun l => (t, (vals l).getD 0 []))

/-! ## Reductions and scans (R165-R167) -/

/-- The operation code is one for the MODE type. -/
def redOk (t code : Nat) : Bool := if code ≤ 5 then intType t else floatType t

/-- Combines elements, given in lane order and not empty, under an operation code, for a result in a lane. -/
def State.combine (s : State) (code lane draw : Nat) (xs : List Nat) : Nat :=
  let t := mType s.mode
  let w := typeBits t
  let f := typeFmt t
  let x0 := xs.headD 0
  let ints := xs.map fun (x : Nat) => wrapInt w (typeSigned t) (x : Int)
  let i0 := ints.headD 0
  match code with
  | 0 => toBits w (s.fitT (ints.foldl (· + ·) 0))
  | 1 => toBits w (ints.foldl min i0)
  | 2 => toBits w (ints.foldl max i0)
  | 3 => xs.foldl (· &&& ·) x0
  | 4 => xs.foldl (· ||| ·) 0
  | 5 => xs.foldl (· ^^^ ·) 0
  | 6 =>
    let vs := xs.map fun x => f.decode (f.flush (mFtz s.mode) x)
    f.finish (mRound s.mode) draw (mFtz s.mode) lane s.pc ((firstNan vs).getD (sumExact (mRound s.mode) vs))
  | c =>
    let cs := xs.map (f.flush (mFtz s.mode))
    cs.foldl (pickCode f (c == 8)) (cs.headD 0)

/-- The identity an exclusive scan writes (R165). -/
def redIdentity (t code : Nat) : Nat :=
  let w := typeBits t
  match code with
  | 1 => toBits w (maxInt w (typeSigned t))
  | 2 => toBits w (minInt w (typeSigned t))
  | 3 => 2 ^ w - 1
  | 7 => (typeFmt t).inf false
  | 8 => (typeFmt t).inf true
  | _ => 0

/-- VRED: one combination over the active lanes, written to each of them; under mode 5 the lowest active lane alone
draws (R166). -/
def execVred (d a : Reg) (imm : BitVec 8) (s : State) : Host.Outcome State Fault Refusal :=
  let t := mType s.mode
  let code := imm.toNat % 16
  let u := { s.moveUses d a none with typeOk := redOk t code }
  ran s (s.withOperands u fun s1 vals =>
    match s.lanes with
    | [] => s.done s1 1
    | l0 :: _ =>
      let n := if code = 6 then drawCount s.mode (typeCount t) else 0
      let ds := srgDraws (s.g.gen l0) n
      let out := buildElems t fun e =>
        (s.combine code l0 (ds.getD e 0).toNat (s.lanes.map fun l => srcBits t 0 (vals l) e) : Int)
      s.done ((s1.onG fun g => g.drawn l0 n).writeDst d (s.lanes.map fun l => (l, out))) 1)

/-- VSCAN: each active lane's prefix over the active lanes at or below it, or below it; under code 6 every active lane
draws (R167). -/
def execVscan (d a : Reg) (imm : BitVec 8) (s : State) : Host.Outcome State Fault Refusal :=
  let t := mType s.mode
  let code := imm.toNat % 16
  let excl := imm.getLsbD 4
  let u := { s.moveUses d a none with typeOk := redOk t code }
  ran s (s.withOperands u fun s1 vals =>
    let n := if code = 6 then drawCount s.mode (typeCount t) else 0
    let out (l : Nat) : List Word :=
      let ls := s.lanes.filter fun m => decide (m < l) || (!excl && m == l)
      let ds := srgDraws (s.g.gen l) n
      buildElems t fun e =>
        if ls.isEmpty then (redIdentity t code : Int)
        else (s.combine code l (ds.getD e 0).toNat (ls.map fun m => srcBits t 0 (vals m) e) : Int)
    s.done ((s1.drawAll n).writeDst d (s.lanes.map fun l => (l, out l))) 1)

/-! ## Ballot, match and compaction (R168-R170) -/

/-- VBALLOT. R168 gives its result for every mask, an empty one among them, where it is 0, while R17 has a vector instruction with no
active lane write no register; the model writes the 0 (DEDUCED, unsafe, log 117). -/
def execVballot (d : Reg) (pa : BitVec 3) (s : State) : Host.Outcome State Fault Refusal :=
  ran s (s.scalarOp [] d (maskOf s.lanes fun l => s.g.pr pa.toNat l) 1)

/-- VMATCH: in a pair, the mask of active lanes whose value equals the lane's own bit for bit. -/
def execVmatch (d a : Reg) (s : State) : Host.Outcome State Fault Refusal :=
  let u : Uses := { srcs := [(a, typeWords (mType s.mode))], dsts := [(d, 2)], noq := true }
  ran s (s.crossOp u d fun vals =>
    s.lanes.map fun l => (l, splitWords (maskOf s.lanes fun m => (vals m).getD 0 [] == (vals l).getD 0 []).toNat 2))

/-- VCOMP: the active lanes' values, in lane order, to the lowest running lanes. -/
def execVcomp (d a : Reg) (s : State) : Host.Outcome State Fault Refusal :=
  ran s (s.crossOp (s.moveUses d a none) d fun vals =>
    List.zipWith (fun l m => (l, (vals m).getD 0 [])) (s.g.laneNos.filter s.running) s.lanes)

end Sys2Proof.Machine
end

