-- ==== Sys2Proof/Machine/Elastic.lean ====
section
/-!
DEFINITION. The elastic-float instructions of row 0x9_: windows and their checks, arithmetic, comparison, conversion,
and the memory forms (R35, R36, R65-R70, R171-R180).
-/
namespace Sys2Proof.Machine

/-! ## Windows (R35, R36) -/

/-- n_l of a window: bits [14:12] of its header in a lane. -/
def Group.winN (g : Group) (b l : Nat) : Nat := (fld (g.vr b l) 12 3).toNat

/-- The words of a source window, header first. -/
def Group.winWords (g : Group) (b l : Nat) : List Word := (List.range (g.winN b l + 1)).map fun k => g.vr (b + k) l

/-- The value of a window's words (R65, R66). -/
def efVal : List Word → FVal
  | [] => .num false 0 0
  | h :: t => efDecode h t

def Group.winVal (g : Group) (r : Reg) (l : Nat) : FVal := efVal (g.winWords (regIdx r) l)

/-- Two register ranges, each a base and a last register, share a register. -/
def overlap (a a' b b' : Nat) : Bool := decide (a ≤ b' ∧ b ≤ a')

/-- The operand traps of an elastic-float instruction with source windows, a destination window, and plain operands: 0x03,
then 0x05, then 0x04, each with the lanes it arises in (R21, R24, R36, R171, R210). Those that the registers' names alone
decide arise in no lane of their own. A header register at or above H has no content: its stored 0 gives the window the length 0,
so that 0x04 follows unless that window overlaps already (R36; DESIGN CHOICE, unsafe, log 69). -/
def State.windowTraps (s : State) (srcs : List Reg) (dst : Option Reg) (u : Uses) : List (Nat × Trap) :=
  let g := s.g
  let np := nP s.prec
  let badWin (l : Nat) : Bool :=
    (srcs.any fun r =>
      let b := regIdx r
      let hi := b + g.winN b l
      decide (175 < hi) || (match dst with
        | some d => regIdx d != b && overlap (regIdx d) (regIdx d + np) b hi | none => false)) ||
    (match dst with | some d => decide (175 < regIdx d + np) | none => false)
  let notHeld (l : Nat) : Bool :=
    (srcs.any fun r => decide (g.held ≤ regIdx r + g.winN (regIdx r) l)) ||
    (match dst with | some d => decide (g.held ≤ regIdx d + np) | none => false)
  if mType s.mode ≠ 11 ∨ !(srcs ++ dst.toList).all isV ∨ !u.typeOk ∨ u.srcs.any (fun x => s.badSrc x.1 x.2) ∨
      u.dsts.any (fun x => s.badDst x.1 x.2 u.noq) then [(scalarLane, { cause := 0x03 })]
  else if s.lanes.any badWin then (s.lanes.filter badWin).map fun l => (l, { cause := 0x05 })
  else if (srcs ++ dst.toList).any (fun r => g.notHeld r 1) || (u.srcs ++ u.dsts).any (fun x => g.notHeld x.1 x.2) then
    [(scalarLane, { cause := 0x04 })]
  else (s.lanes.filter notHeld).map fun l => (l, { cause := 0x04 })

/-- Runs an elastic-float instruction: its operand traps, then its plain operands. -/
def State.withWindows (s : State) (srcs : List Reg) (dst : Option Reg) (u : Uses)
    (k : State → (Nat → List (List Word)) → State) : State :=
  match s.windowTraps srcs dst u with
  | t :: ts => s.trapLanes (t :: ts)
  | [] => s.withOperands u k

/-- The results of the active lanes for destination windows, from their exact values: under MODE.exact the check of R68 over
all lanes first, then one rounding to P in each lane, with one draw under mode 5 (R67, R171). `s` is the state whose trap
has no effect, `s1` the state written to. -/
def State.efRounded (s s1 : State) (x : Nat → Exact) (fin : List (Nat × List Word) → State → State) : State :=
  let short : List (Nat × Trap) := s.lanes.filterMap fun l => (efExhausted s.prec (x l)).map fun e => (l, { cause := 0x06, detail := e })
  match if mExact s.mode then short else [] with
  | t :: ts => s.trapLanes (t :: ts)
  | [] =>
    let n := drawCount s.mode 1
    let draw (l : Nat) : Nat := ((srgDraws (s.g.gen l) n).getD 0 0).toNat
    fin (s.lanes.map fun l => (l, efRound s.prec (mRound s.mode) (draw l) l s.pc (x l))) (s1.drawAll n)

/-- Writes the results to a destination window (R171). -/
def State.efWrite (s s1 : State) (d : Reg) (x : Nat → Exact) (fin : State → State) : State :=
  s.efRounded s1 x fun rs s2 => fin (s2.writeDst d rs)

/-- An instruction on source windows that writes one result window. -/
def State.efOp (s : State) (d : Reg) (srcs : List Reg) (f : (Nat → FVal) → Exact) : State :=
  s.withWindows srcs (some d) {} fun s1 _ =>
    s.efWrite s1 d (fun l => f fun i => match srcs[i]? with | some r => s.g.winVal r l | none => .num false 0 0) fun s2 => s.done s2 1

/-! ## Arithmetic (R172, R174) -/

def execEfadd (d a b : Reg) (s : State) : Host.Outcome State Fault Refusal :=
  ran s (s.efOp d [a, b] fun v => addX (mRound s.mode) (v 0) (v 1))
def execEfsub (d a b : Reg) (s : State) : Host.Outcome State Fault Refusal :=
  ran s (s.efOp d [a, b] fun v => addX (mRound s.mode) (v 0) (v 1).negate)
def execEfmul (d a b : Reg) (s : State) : Host.Outcome State Fault Refusal :=
  ran s (s.efOp d [a, b] fun v => mulX (v 0) (v 1))
/-- EFFMA: d is a source window and the destination; NaNs in the order a, b, d. -/
def execEffma (d a b : Reg) (s : State) : Host.Outcome State Fault Refusal :=
  ran s (s.efOp d [a, b, d] fun v => fmaX (mRound s.mode) (v 0) (v 1) (v 2))
def execEfdiv (d a b : Reg) (s : State) : Host.Outcome State Fault Refusal :=
  ran s (s.efOp d [a, b] fun v => divX (v 0) (v 1))
def execEfsqrt (d a : Reg) (s : State) : Host.Outcome State Fault Refusal := ran s (s.efOp d [a] fun v => sqrtX (v 0))
def execEfrnd (d a : Reg) (s : State) : Host.Outcome State Fault Refusal := ran s (s.efOp d [a] fun v => .ofVal (v 0))
def execEfneg (d a : Reg) (s : State) : Host.Outcome State Fault Refusal := ran s (s.efOp d [a] fun v => .ofVal (v 0).negate)

def FVal.abs : FVal → FVal
  | .nan s p w => .nan s p w | .inf _ => .inf false | .num _ m e => .num false m e

def execEfabs (d a : Reg) (s : State) : Host.Outcome State Fault Refusal := ran s (s.efOp d [a] fun v => .ofVal (v 0).abs)

/-- EFLEN reads the header alone and checks no window. -/
def execEflen (d a : Reg) (s : State) : Host.Outcome State Fault Refusal :=
  ran s (s.vecOp { srcs := [(a, 1)], dsts := [(d, 1)], typeOk := mType s.mode == 11 } d 0 1 (fun _ vs _ _ =>
    some [((fld ((vs.getD 0 []).headD 0) 12 3 : BitVec 3).zeroExtend 32) + 1]) 1)

/-- EFCMP (R173). -/
def execEfcmp (pd : BitVec 3) (c : Cond) (a b : Reg) (s : State) : Host.Outcome State Fault Refusal :=
  ran s (s.withWindows [a, b] none {} fun s1 _ =>
    s.done (s1.putPreds pd.toNat fun l => condFlt c (s.g.winVal a l) (s.g.winVal b l)) 1)

/-! ## Conversion (R175, R176) -/

/-- The types EFCVT and EFCVTO take. -/
def efTypes : List Nat := [0, 1, 6, 7, 8]

/-- An f32 as EFCVT takes it: a NaN brings its 12 most significant fraction bits (R54). -/
def efSource : FVal → FVal
  | .nan n p w => .nan n (nanPay p w 12) 12
  | x => x

/-- EFCVT: an integer, a pair, or an f32 into a window. -/
def execEfcvt (d a : Reg) (imm : BitVec 8) (s : State) : Host.Outcome State Fault Refusal :=
  let t := imm.toNat
  ran s (s.withWindows [] (some d) { srcs := [(a, typeWords t)], typeOk := efTypes.contains t } fun s1 vals =>
    s.efWrite s1 d (fun l =>
      let ws := (vals l).getD 0 []
      if t = 8 then .ofVal (efSource (elemFlt f32 (mFtz s.mode) ws 0)) else .fin (Mag.ofInt (elemInt t ws 0))) fun s2 => s.done s2 1)

/-- EFCVTO: a window into an integer, a pair, or an f32; MODE.exact has no effect. -/
def execEfcvto (d a : Reg) (imm : BitVec 8) (s : State) : Host.Outcome State Fault Refusal :=
  let t := imm.toNat
  let w := typeWords t
  let n := drawCount s.mode 1
  let draw (l : Nat) : Nat := ((srgDraws (s.g.gen l) n).getD 0 0).toNat
  let out (l : Nat) : List Word :=
    let x := s.g.winVal a l
    if t = 8 then [BitVec.ofNat 32 (f32.finish (mRound s.mode) (draw l) (mFtz s.mode) l s.pc (.ofVal x))]
    else splitWords (toBits (32 * w) (fltToInt t (mRound s.mode) (draw l) (mSat s.mode) x)) w
  ran s (s.withWindows [a] none { dsts := [(d, w)], typeOk := efTypes.contains t } fun s1 _ =>
    s.done ((s1.drawAll n).writeDst d (s.lanes.map fun l => (l, out l))) 1)

/-! ## Memory forms (R177-R180) -/

/-- The addresses of words i of a value at va, each with its lane. -/
def wordAccs (l va first n : Nat) : List (Nat × Nat) := (List.range n).map fun i => (l, (va + 4 * (first + i)) % 2 ^ 64)

/-- Issues the reads of the lanes' headers, after the checks of R178 and R180: the traps of the headers that fault are kept
for their turn, unless every header faults (R177). -/
def State.efIssue (s s1 : State) (vas : List (Nat × Nat)) (data : List Nat) (go : Begun → State → State) : State :=
  let bad := s.addrTraps vas 4 .read
  let ok := vas.filter fun e => (s.addrTrap e.2 4 .read).isNone
  match ok, bad with
  | [], t :: ts => s.trapLanes (t :: ts)
  | _, _ => match s.departFails 1 with
    | some t => s.trap t
    | none => (s1.keepAll ok).begin
        { held := s.g.held, fn := s.g.sfufn, accs := s.accesses ok, data
          bad := bad.map fun e => (e.1, e.2.cause, e.2.taddr.toNat, e.2.detail) } go

/-- The extension words that a lane's header names, as addresses. -/
def State.extAccs (s : State) (e : Access) : List (Nat × Nat) := wordAccs e.lane e.va 1 (fld (s.respData e) 12 3).toNat

/-- Completes issued reads of values: the headers once each, then the checks and reads of the words they name; the trap of the
lowest lane that faults. The words read are handed on, header first (R177). -/
def State.efLoad (s : State) (b : Begun) (fin : (Nat → List Word) → State → State) : State :=
  let whole (b : Begun) (s : State) : State := s.loadAll b.accs 4 fun s2 =>
    match s2.respTraps b.accs with
    | t :: ts => s2.failLanes (t :: ts)
    | [] => fin (fun l => (b.accs.filter (·.lane == l)).map fun e => (s2.respData e).setWidth 32) s2.dropResp
  if b.ext then whole b s
  else s.afterRelease (mRelease s.mode) fun s => s.loadAll b.accs 4 fun s1 =>
    let heads := b.bad.map (fun e => (e.1, ({ cause := e.2.1, taddr := BitVec.ofNat 64 e.2.2.1, detail := e.2.2.2 } : Trap))) ++
      s1.respTraps b.accs
    let ext := (b.accs.filter fun e => !(heads.map (·.1)).contains e.lane).flatMap s1.extAccs
    let traps := heads ++ s1.addrTraps ext 4 .read
    match s1.g.laneNos.flatMap fun l => traps.filter (·.1 == l) with
    | t :: ts => s1.failLanes (t :: ts)
    | [] =>
      let b1 := { b with accs := b.accs ++ s1.accesses ext, ext := true }
      whole b1 ((s1.keepAll ext).onSet fun x => { x with begun := some b1 })

/-- EFLD and EFLDW: `walk` advances the address registers by the stored lengths. -/
def State.efld (s : State) (d a b : Reg) (walk : Bool) : State :=
  let u : Uses := { srcs := [memUse a b], typeOk := !s.badMem a b }
  let w := (memUse a b).2
  s.resume (fun go =>
      let inWindow := walk && overlap (regIdx d) (regIdx d + nP s.prec) (regIdx a) (regIdx a + w - 1)
      let inside : List (Nat × Trap) := if inWindow then s.lanes.map fun l => (l, { cause := 0x05 }) else []
      match s.windowTraps [] (some d) u, inside with
      | t :: ts, i :: is => s.trapLanes (if t.2.cause = 0x04 then i :: is else t :: ts)
      | t :: ts, [] => s.trapLanes (t :: ts)
      | [], i :: is => s.trapLanes (i :: is)
      | [], [] => s.withOperands u fun s1 vals =>
        s.efIssue s1 (s.laneAddrs b vals) (s.lanes.map fun l => joinWords ((vals l).getD 0 [])) go) fun c s =>
    s.efLoad c fun words s1 => s1.efRounded s1 (fun l => .ofVal (efVal (words l))) fun rs s2 =>
      let s3 := s2.writeLate c d rs
      let s4 := if walk then s3.writeLate c a ((s1.lanes.zip c.data).map fun e => (e.1, splitWords (e.2 + 4 * (words e.1).length) w)) else s3
      s1.done (s4.acquire (mAcquire s1.mode)) 1

def execEfld (d a b : Reg) (s : State) : Host.Outcome State Fault Refusal := ran s (s.efld d a b false)
def execEfldw (d a b : Reg) (s : State) : Host.Outcome State Fault Refusal := ran s (s.efld d a b true)

/-- EFST: the source window of each active lane as it stands. -/
def execEfst (d a b : Reg) (s : State) : Host.Outcome State Fault Refusal :=
  ran s (s.resume (fun go => s.withWindows [d] none { srcs := [memUse a b], typeOk := !s.badMem a b } fun s1 vals =>
      let sts := s.lanes.flatMap fun l =>
        let ws := s.g.winWords (regIdx d) l
        (wordAccs l (s.laneAddr b ((vals l).getD 0 [])) 0 ws.length).zip ws
      s.issue s1 (sts.map (·.1)) (sts.map fun e => e.2.toNat) 4 .write go)
    fun c s => s.runStores c 4)

end Sys2Proof.Machine
end

