-- ==== Sys2Proof/Machine/System.lean ====
section
/-!
DEFINITION. The system registers: what SYSR reads of each register the block tables list and what SYSW writes
(R29, R129, R220-R222, R254, R285, R294, R319, R320, R347-R349, R379, R380, R429, R430).
-/
namespace Sys2Proof.Machine

/-- A field of a register: x, limited to w bits, placed at bit lo. -/
def at_ (lo w x : Nat) : Nat := x % 2 ^ w * 2 ^ lo

def bitAt (lo : Nat) (b : Bool) : Nat := if b then 2 ^ lo else 0

/-! ## Reading (R221, R254, R285, R294, R319, R347, R349, R379, R429) -/

/-- Per-strand registers of R29 and R221, of one strand. -/
def Strand.sysRead (x : Strand) (n : Nat) : Option Nat :=
  match n with
  | 0x006 => some x.mode.toNat
  | 0x007 => some x.prec.toNat
  | 0x008 => some (x.loop 0).count.toNat
  | 0x009 => some (x.loop 1).count.toNat
  | 0x00A => some (x.loop 2).count.toNat
  | 0x00B => some (x.lk.toNat % 2 ^ 57)
  | 0x00C => some (x.stack.length + at_ 8 4 x.amask.toNat)
  | 0x00D => some x.live.toNat
  | 0x010 => some x.tcause.toNat
  | 0x011 => some (x.tpc.toNat % 2 ^ 57)
  | 0x012 => some x.taddr.toNat
  | 0x013 => some x.tinfo.toNat
  | 0x014 => some x.barPend.toNat
  | _ => none

/-- PALHELD and PALFREE (R222). -/
def State.palheld (s : State) : Nat :=
  s.g.held / 16 + at_ 4 4 (s.lau.lrec.base / 16) + at_ 8 4 (s.lau.lrec.ceil / 16)
def State.palfree (s : State) : Nat :=
  s.freeUnits s.g.core s.g.part + at_ 8 9 ((s.core s.g.core).claims.filter (·.part == s.g.part)).length

/-- TOKSTAT (R254). -/
def Group.tokstat (g : Group) : Nat :=
  ((List.range 8).map fun k => ((g.token k).state.toNat + 4 * (g.token k).cause.toNat) * 2 ^ (8 * k)).sum

/-- THROT (R348). -/
def Core.throtWord (c : Core) : Nat := at_ 0 3 c.throt + at_ 4 3 c.throtPrev + at_ 8 24 c.throtCount.toNat

/-- Registers of the core and its groups in the core block. -/
def State.sysCore (s : State) (n : Nat) : Option Nat :=
  let g := s.g
  let c := s.core g.core
  match n with
  | 0x000 => some c.cycle.toNat
  | 0x001 => some g.core
  | 0x002 => some c.throtWord
  | 0x003 => some g.tokstat
  | 0x004 => some s.palheld
  | 0x005 => some s.palfree
  | 0x00E => some g.sfufn.toNat
  | 0x00F => some c.encerr.toNat
  | 0x015 => some c.mcdrop.toNat
  | 0x016 => some (s.l1Size g.core)
  | 0x020 => some (at_ 0 4 (s.stack (stackOf g.core)).ways + at_ 8 24 (s.stack (stackOf g.core)).epoch.toNat)
  | 0x021 => some ((s.stack (stackOf g.core)).bias % 16).toNat
  | 0x038 => some (at_ 0 9 (s.accOf g).2 + at_ 16 8 (s.accOf g).1)
  | 0x039 => some c.mats.length
  | _ =>
    if 0x018 ≤ n ∧ n ≤ 0x01F then some (g.token (n - 0x018)).row.toNat
    else if 0x028 ≤ n ∧ n ≤ 0x02F then some (g.token (n - 0x028)).addr.toNat
    else if 0x030 ≤ n ∧ n ≤ 0x037 then some (g.scale (n - 0x030)).toNat
    else none

/-- The configuration word of R300, bits [31:0]. -/
def GlzCfg.word (c : GlzCfg) : Nat :=
  c.code.toNat + bitAt 4 c.agg + bitAt 5 c.noh + bitAt 6 c.wrap + at_ 16 16 c.count.toNat

/-- GLZSTAT (R320). -/
def GlzRank.stat (z : GlzRank) : Nat :=
  (if z.joined then z.rank else 0) + bitAt 7 z.joined + bitAt 8 z.left + bitAt 9 z.cfg.isSome + bitAt 10 z.pend.isSome +
  bitAt 11 (match z.tile with | some t => !t.closed | none => false) +
  bitAt 12 z.cin.isSome + bitAt 13 z.sent +
  at_ 16 16 (match z.tile with | some t => t.elems.length | none => 0) + at_ 32 32 z.round

/-- PAIRSTAT (R294). -/
def State.pairstat (s : State) : Nat :=
  let t := s.tm
  let span := t.pair && s.g.trav.isNone
  bitAt 0 span + bitAt 1 (span && s.g.core != t.core) + at_ 2 2 ((if span then t.core else s.g.core) % 4)

/-- The cluster block (R319). -/
def State.sysCluster (s : State) (n : Nat) : Option Nat :=
  let z := s.g.glz
  match n with
  | 0x100 => some z.stat
  | 0x101 => some ((z.cfg.map GlzCfg.word).getD 0)
  | 0x102 => some ((z.cfg.map fun c => c.h0.toNat).getD 0)
  | 0x103 => some ((z.carry.map (·.toNat)).getD 0)
  | 0x104 => some (if s.lau.glaze then at_ 0 16 s.lau.lrec.chainId + at_ 16 8 s.lau.lrec.chainLen else 0)
  | 0x110 => some s.pairstat
  | _ => none

/-- The stack block (R349). -/
def State.sysStack (s : State) (n : Nat) : Option Nat :=
  let k := s.stack (stackOf s.g.core)
  match n with
  | 0x210 => some k.bypass.toNat
  | 0x211 => some k.pinfail.toNat
  | 0x212 => some (k.tier.filter fun t => t.2.pin.isSome).length
  | 0x213 => some k.srwb.toNat
  | 0x218 => some ((k.td % 256).toNat + at_ 8 8 (k.tb % 256).toNat + at_ 16 8 k.bound)
  | 0x219 => some k.periods.toNat
  | _ =>
    if 0x200 ≤ n ∧ n ≤ 0x20F then
      some (at_ 0 6 (tget [] k.queue (n - 0x200)).length + at_ 8 24 (tget 0 k.full (n - 0x200)).toNat)
    else none

/-- TRVSTAT, TRVQ, TRVFWD and TRVBUDG (R429, R430): 0 outside a travel launch. -/
def State.trvstat (s : State) : Nat :=
  match s.g.trav, (s.core s.g.core).holder with
  | some t, some h => at_ 0 32 t.id + at_ 32 16 h.segment + at_ 48 16 t.hop
  | _, _ => 0
def State.residents (s : State) (core : Nat) : Nat :=
  (s.groups.filter fun e => e.2.core == core && e.2.trav.isSome && e.2.live).length
def State.trvq (s : State) : Nat :=
  match (s.core s.g.core).holder with
  | some h => if s.lau.travel then
      at_ 0 7 h.occupancy + at_ 8 8 (s.residents s.g.core) + at_ 16 32 h.spilled.toNat else 0
  | none => 0
def State.trvfwd (s : State) : Nat :=
  match (s.core s.g.core).holder with
  | some h => if s.lau.travel then h.forwarded.toNat else 0
  | none => 0
/-- Travellers alive: those with an id, and those a SPAWN has created and that wait for theirs (R410, R420). -/
def Launch.aliveNow (l : Launch) : Nat := l.alive.length + (l.spawns.map (·.packets.length)).sum
def State.trvbudg (s : State) : Nat :=
  if s.lau.travel then at_ 0 32 s.lau.lrec.budget + at_ 32 32 s.lau.aliveNow else 0

/-- PLACEINFO (R380). The count of pages owned by the home stack has 16 bits there; of the 65,536 that a footprint may have, all
owned, it keeps the low 16 (DESIGN CHOICE, unsafe, log 106). -/
def Place.word (p : Place) : Nat :=
  at_ 0 4 p.home + at_ 4 4 p.stack + bitAt 8 (p.stack != p.home) + bitAt 9 p.fall + at_ 16 16 p.owned + at_ 32 32 p.saves

/-- The package block (R379, R429). PLACEINFO reads 0 in a travel launch, whose teams are never placed (R380; DESIGN CHOICE, unsafe,
log 127). -/
def State.sysPackage (s : State) (n : Nat) : Option Nat :=
  match n with
  | 0x300 => some s.trvstat
  | 0x301 => some (at_ 0 32 s.g.launch + at_ 32 16 s.lau.lrec.asid + at_ 48 8 s.lau.priority)
  | 0x302 => some s.tm.place.word
  | 0x303 => some s.trvq
  | 0x304 => some s.trvfwd
  | 0x305 => some s.trvbudg
  | _ => none

/-- The value of a system register as the issuing set reads it; none for a number no block table assigns (R92). -/
def State.sysRead (s : State) (n : Nat) : Option Nat :=
  match s.lead.sysRead n with
  | some x => some x
  | none => match s.sysCore n with
    | some x => some x
    | none => match s.sysCluster n with
      | some x => some x
      | none => match s.sysStack n with
        | some x => some x
        | none => s.sysPackage n

/-- SYSR (R129). -/
def execSysr (d : Reg) (imm : BitVec 16) (s : State) : Host.Outcome State Fault Refusal :=
  ran s <| match s.sysRead imm.toNat with
    | none => s.trap { cause := 0x02 }
    | some x => s.scalarOp [] d (BitVec.ofNat 64 x) 1

/-! ## Writing (R220) -/

/-- What a SYSW of x to register n does: the state with the register written, or the trap. Bits the register does not
define are dropped before every other check. -/
def State.sysWrite (s : State) (n : Nat) (x : DWord) : Except Trap State :=
  let strand (f : Strand → Strand) : Except Trap State := .ok (s.onSet f)
  match n with
  | 0x006 => if modeReserved (x.setWidth 24) then .error { cause := 0x02 } else strand fun y => { y with mode := x.setWidth 24 }
  | 0x007 => if precOk (x.setWidth 8) then strand fun y => { y with prec := x.setWidth 8 } else .error { cause := 0x06 }
  | 0x008 => strand fun y => y.setLoop 0 { y.loop 0 with count := x.setWidth 32 }
  | 0x009 => strand fun y => y.setLoop 1 { y.loop 1 with count := x.setWidth 32 }
  | 0x00A => strand fun y => y.setLoop 2 { y.loop 2 with count := x.setWidth 32 }
  | 0x00B => strand fun y => { y with lk := lk57 x }
  | 0x00D => strand fun y => { y with live := x }
  | 0x010 => strand fun y => { y with tcause := x.setWidth 8 }
  | 0x011 => strand fun y => { y with tpc := (x.setWidth 57).zeroExtend 64 }
  | 0x012 => strand fun y => { y with taddr := x }
  | 0x013 => strand fun y => { y with tinfo := x.setWidth 32 }
  | 0x00E => if 9 ≤ x.toNat % 16 then .error { cause := 0x02 } else .ok (s.onG fun g => { g with sfufn := x.setWidth 4 })
  | 0x021 =>
    if !s.lau.capable then .error { cause := 0x11, detail := 6 }
    else
      let v := (x.setWidth 4 : BitVec 4).toInt
      if v < -4 ∨ 4 < v then .error { cause := 0x02 }
      else .ok (s.onStack (stackOf s.g.core) fun k => { k with bias := v })
  | _ =>
    if 0x030 ≤ n ∧ n ≤ 0x037 then
      .ok (s.onG fun g => { g with scl := tput 0x3F800000 g.scl (n - 0x030) (x.setWidth 32) })
    else if (s.sysRead n).isSome then .error { cause := 0x11 }
    else .error { cause := 0x02 }

/-- SYSW: a number no table assigns comes before the operand class (R24, R92). -/
def execSysw (d : Reg) (imm : BitVec 16) (s : State) : Host.Outcome State Fault Refusal :=
  ran s <| if (s.sysRead imm.toNat).isNone then s.trap { cause := 0x02 }
    else s.withScalars [d] (match s.sysWrite imm.toNat (s.rdS d) with
      | .error t => s.trap t
      | .ok s1 => s.done s1 1)

end Sys2Proof.Machine
end

