-- ==== Sys2Proof/Machine/Glaze.lean ====
section
/-!
DEFINITION. The glaze: the scan engine's semirings and prefixes, its tiles, and the chain of ranks with its carries
and rounds (R295-R318).
-/
namespace Sys2Proof.Machine

/-! ## Semirings (R295, R296) -/

abbrev GPair := Word × Word

/-- An f32 result rounded to nearest even, subnormals kept, an invalid one naming lane 62 and the GLZCFG's address. -/
def glzRnd (pc : DWord) (x : Exact) : Word := BitVec.ofNat 32 (f32.finish 0 0 false 62 pc x)

def f32Val (w : Word) : FVal := f32.decode w.toNat

def glzAdd (pc : DWord) (x y : Word) : Word := glzRnd pc (addX 0 (f32Val x) (f32Val y))
def glzMul (pc : DWord) (x y : Word) : Word := glzRnd pc (mulX (f32Val x) (f32Val y))
def glzFma (pc : DWord) (x y z : Word) : Word := glzRnd pc (fmaX 0 (f32Val x) (f32Val y) (f32Val z))

/-- max or min with -0 below +0; a NaN operand gives a NaN. -/
def glzPick (larger : Bool) (x y : Word) : Word :=
  match firstNan [f32Val x, f32Val y] with
  | some n => glzRnd 0 n
  | none => if xor larger (fltBelow (f32Val y) (f32Val x)) then y else x

/-- lse2 of R296. -/
def lse2 (x y : Word) : Word :=
  match firstNan [f32Val x, f32Val y] with
  | some n => glzRnd 0 n
  | none =>
    if f32Val x = .inf true then y
    else if f32Val y = .inf true then x
    else if f32Val x = .inf false ∧ f32Val y = .inf false then x
    else
      let m := glzPick true x y
      let n := glzPick false x y
      let d := glzRnd 0 (addX 0 (f32Val n) (f32Val m).negate)
      let t := glzRnd 0 (exp2X (f32Val d))
      let u := glzAdd 0 0x3F800000 t
      let w := glzRnd 0 (log2X (f32Val u))
      glzAdd 0 m w

/-- join(x, y) of R295, x taken earlier. -/
def glzJoin (code : Nat) (pc : DWord) (x y : GPair) : GPair :=
  let (a1, b1) := x
  let (a2, b2) := y
  match code with
  | 0 => (glzMul pc a2 a1, glzFma pc a2 b1 b2)
  | 1 => (glzAdd pc a2 a1, glzPick true (glzAdd pc a2 b1) b2)
  | 2 => (glzAdd pc a2 a1, glzPick false (glzAdd pc a2 b1) b2)
  | 3 => (glzAdd pc a2 a1, lse2 (glzAdd pc a2 b1) b2)
  | 4 => (0x3F800000, glzAdd pc b1 b2)
  | _ => (1, b1 + b2)

/-- apply((A, B), c) of R295. -/
def glzApply (code : Nat) (pc : DWord) (p : GPair) (c : Word) : Word :=
  match code with
  | 0 => glzFma pc p.1 c p.2
  | 1 => glzPick true (glzAdd pc p.1 c) p.2
  | 2 => glzPick false (glzAdd pc p.1 c) p.2
  | 3 => lse2 (glzAdd pc p.1 c) p.2
  | 4 => glzAdd pc c p.2
  | _ => c + p.2

/-! ## Prefixes (R306, R307) -/

/-- The four levels within one block. -/
def glzLevels (j : GPair → GPair → GPair) (xs : List GPair) : List GPair :=
  [1, 2, 4, 8].foldl (fun xs d => xs.zipIdx.map fun e => if d ≤ e.2 then j (xs.getD (e.2 - d) e.1) e.1 else e.1) xs

/-- The prefixes of a sequence, block by block; s is the fold over the blocks before, and fuel bounds the blocks. -/
def glzPrefixes (j : GPair → GPair → GPair) : Nat → Option GPair → List GPair → List GPair
  | 0, _, _ => []
  | n + 1, s, xs =>
    if xs.isEmpty then []
    else
      let q := glzLevels j (xs.take 16)
      let ps := match s with | none => q | some s => q.map (j s)
      ps ++ glzPrefixes j n ps.getLast? (xs.drop 16)

/-- The prefixes of a tile's elements. -/
def GlzTile.prefixes (t : GlzTile) : List GPair :=
  glzPrefixes (glzJoin t.cfg.code.toNat t.cfg.pc) (t.elems.length / 16 + 1) none (t.elems.map fun e => (e.a, e.b))

/-- The value of a prefix for a carry, under the tile's code. -/
def GlzTile.applyAt (t : GlzTile) (p : GPair) (c : Word) : Word := glzApply t.cfg.code.toNat t.cfg.pc p c

/-- The carry-out for a carry-in: the carry itself for a tile of 0 elements (R307). -/
def GlzTile.carryOut (t : GlzTile) (c : Word) : Word :=
  match t.prefixes.getLast? with | some p => t.applyAt p c | none => c

/-! ## The unit of one rank (R300-R304) -/

/-- Closes the tile at its elements: its aggregate goes to the lane of its last element (R303). -/
def GlzRank.close (z : GlzRank) : GlzRank :=
  match z.tile with
  | none => z
  | some t =>
    if t.closed then z
    else
      let agg := match t.prefixes.getLast?, t.elems.getLast? with
        | some p, some e => if t.cfg.agg then [(true, e.lane, p.1), (true, e.lane, p.2)] else []
        | _, _ => []
      let owed := match agg, t.elems.getLast? with
        | _ :: _, some e => [(e.lane, t.elems.foldl (fun ls e => if ls.contains e.lane then ls else ls ++ [e.lane]) [])]
        | _, _ => []
      { z with tile := some { t with closed := true }, store := z.store ++ agg, owed := z.owed ++ owed }

/-- Produces the results of the elements accepted so far once the carry-in is there (R307). -/
def GlzRank.emit (z : GlzRank) : GlzRank :=
  match z.tile, z.cin with
  | some t, some c =>
    let out := if t.cfg.noh then []
      else ((t.elems.zip t.prefixes).drop t.moved).map fun e => (false, e.1.lane, t.applyAt e.2 c)
    { z with tile := some { t with moved := t.elems.length }, store := z.store ++ out }
  | _, _ => z

/-- The aggregates of which a word is still in the store: a lane's last, two words to each (R303). -/
def stillOwed (store : List (Bool × Nat × Word)) : List (Nat × List Nat) → List (Nat × List Nat)
  | [] => []
  | e :: t =>
    let later := 2 * (t.filter (·.1 == e.1)).length
    if later < (store.filter fun x => x.1 && x.2.1 == e.1).length then e :: stillOwed store t else stillOwed store t

/-- Drops what is no longer owed. -/
def GlzRank.trim (z : GlzRank) : GlzRank := { z with owed := stillOwed z.store z.owed }

/-- Moves stored results and aggregates into the lanes' q2 and q3 where there is room, oldest first (R303, R304). -/
def Group.glzMove (g : Group) (lanes : Nat → Bool) : Group :=
  g.glz.store.foldl (fun g e =>
    let q := if e.1 then 3 else 2
    if lanes e.2.1 && decide ((g.queued q e.2.1).length < 8) && !(g.glz.store.any fun x => x.1 == e.1 && x.2.1 == e.2.1) then
      g.setQueued q e.2.1 (g.queued q e.2.1 ++ [e.2.2])
    else { g with glz := { g.glz with store := g.glz.store ++ [e] } }) { g with glz := { g.glz with store := [] } }

/-- Delivers to the lanes' q2 and q3: an aggregate whose words have left the store is owed no longer (R305). -/
def Group.glzDeliver (g : Group) (lanes : Nat → Bool) : Group :=
  let g := g.glzMove lanes
  { g with glz := g.glz.trim }

/-- Elements whose results have not entered q2 (R304). -/
def GlzRank.kept (z : GlzRank) : Nat :=
  (z.store.filter (!·.1)).length + (match z.tile with | some t => if t.cfg.noh then 0 else t.elems.length - t.moved | none => 0)

/-- How many more elements the open tile takes. -/
def GlzRank.room (z : GlzRank) : Nat :=
  match z.tile with
  | some t => if t.closed then 0
      else min (t.cfg.count.toNat - t.elems.length) (if t.cfg.noh then t.cfg.count.toNat else 4096 - z.kept)
  | none => 0

/-- The unit takes up to n elements from the head of q0 and q1, closing the tile at its count (R301, R302). -/
def Group.glzAccept (g : Group) : Nat → Group
  | 0 => g
  | n + 1 =>
    match g.glz.tile with
    | none => g
    | some t =>
      if g.glz.room = 0 then g
      else
        let put (a : Word) (b : Nat × Word) (g : Group) : Group :=
          let t := { t with elems := t.elems ++ [{ a, b := b.2, lane := b.1 }] }
          let z := { g.glz with tile := some t }
          ({ g with glz := if t.elems.length = t.cfg.count.toNat then z.close else z }).glzAccept n
        if 4 ≤ t.cfg.code.toNat then
          match g.q1 with
          | b :: q1 => put (if t.cfg.code = 4 then 0x3F800000 else 1) b { g with q1 }
          | [] => g
        else match g.q0, g.q1 with
          | a :: q0, b :: q1 => put a.2 b { g with q0, q1 }
          | _, _ => g

/-! ## The chain (R308-R310) -/

/-- The group that holds a rank of a launch's chain, where it is resident. -/
def State.rankGroup (s : State) (launch r : Nat) : Option Nat :=
  (s.groups.find? fun e => e.2.launch == launch && e.2.glz.joined && e.2.glz.rank == r).map (·.1)

def Chain.at_ (c : Chain) (r : Nat) : RankAt := tget .never c.map r

/-- A rank's carry-out leaves for the next rank, or completes the round (R308, R309). -/
def State.glzSend (s : State) (launch r : Nat) (v : Word) : State :=
  s.onLaunch launch fun l =>
    let c := l.chain
    let n := l.lrec.chainLen
    if r + 1 < n then { l with chain := { c with slots := tset c.slots (r + 1) v, sent := c.sent ++ [r] } }
    else { l with chain := { c with
      final := some v, round := c.round + 1, sent := [], toldNot := (List.range n).reverse } }

/-- The unit of a group goes on: results, deliveries, and the carry-out once the tile is closed and the carry-in is
there, sent once (R307, R309). -/
def State.glzAdvance (s : State) (gk : Nat) : State :=
  let s := s.onGrp gk fun g => ({ g with glz := g.glz.emit }).glzDeliver fun _ => true
  let g := s.grp gk
  match g.glz.tile, g.glz.cin with
  | some t, some c =>
    if t.closed && !g.glz.sent then
      (s.onGrp gk fun g => { g with glz := { g.glz with sent := true } }).glzSend g.launch g.glz.rank (t.carryOut c)
    else s
  | _, _ => s

/-- Rank 0's carry-in under a configuration, in a round (R308). -/
def glzFirst (c : Option GlzCfg) (round : Nat) (final : Option Word) : Word :=
  match c with
  | none => 0
  | some c => if c.wrap && round != 0 then final.getD 0 else c.h0

/-- A tile opens under a configuration; at rank 0 its carry-in is received with it (R302, R308, R313). -/
def State.glzOpen (s : State) (gk : Nat) (c : GlzCfg) : State :=
  let g := s.grp gk
  let final := (s.launch g.launch).chain.final
  let s := s.onGrp gk fun g =>
    let z : GlzRank := { g.glz with cfg := some c, pend := none, tile := some { cfg := c, closed := decide (c.count = 0) } }
    let z := if z.rank = 0 then
        let v := glzFirst (some c) z.round final
        { z with cin := some v, carry := some v }
      else z
    { g with glz := z }
  s.glzAdvance gk

/-- The group leaves its rank (R311). Its round and carry stay to be read, and its configuration and tile do not (R320; DESIGN CHOICE,
unsafe, log 122). -/
def State.glzLeave (s : State) (gk : Nat) : State :=
  let g := s.grp gk
  let r := g.glz.rank
  let s := s.onLaunch g.launch fun l =>
    { l with chain := { l.chain with
      map := tset l.chain.map r .left, first := if r = 0 then g.glz.cfg else l.chain.first } }
  let s := s.onCore g.core fun c => if c.glz = some gk then { c with glz := none } else c
  s.onGrp gk fun g => { g with
    q0 := [], q1 := []
    glz := { rank := r, left := true, round := g.glz.round, carry := g.glz.carry } }

/-- Every rank of a launch's chain has left. -/
def Launch.allLeft (l : Launch) : Bool := (List.range l.lrec.chainLen).all fun r => l.chain.at_ r == .left

/-- A rank 0 that has left starts the next round (R310). -/
def State.glzRestart (s : State) (launch : Nat) : State :=
  let l := s.launch launch
  if l.allLeft then s else s.glzSend launch 0 (glzFirst l.chain.first l.chain.round l.chain.final)

/-- The completion of a round reaches the rank a group holds: the group leaves where it waited to, else the next
round begins and its tile opens (R302, R308). -/
def State.glzTold (s : State) (gk : Nat) : State :=
  let g := s.grp gk
  if g.glz.leaving then
    let s := s.glzLeave gk
    if g.glz.rank = 0 then s.glzRestart g.launch else s
  else
    let s := s.onGrp gk fun g => { g with
      glz := { g.glz with round := g.glz.round + 1, tile := none, cin := none, sent := false } }
    match (match g.glz.pend with | some c => some c | none => g.glz.cfg) with
    | some c => s.glzOpen gk c
    | none => s

/-- A carry under way reaches its rank: taken by its group, forwarded where the rank has left, and held where it has
not joined, is saved, or has not heard of the last round's end (R309, R310). -/
def State.glzArrive (s : State) (launch r : Nat) : State :=
  let c := (s.launch launch).chain
  match tfind c.slots r with
  | none => s
  | some v =>
    let taken (s : State) : State := s.onLaunch launch fun l => { l with chain := { l.chain with slots := tdel l.chain.slots r } }
    if c.toldNot.contains r then s
    else match c.at_ r with
      | .left => (taken s).glzSend launch r v
      | .core _ => match s.rankGroup launch r with
        | some gk =>
          ((taken s).onGrp gk fun g => { g with glz := { g.glz with cin := some v, carry := some v } }).glzAdvance gk
        | none => s
      | _ => s

/-- A restored group's rank: the chain map names its core, a round that completed while it was saved is told, and a
carry held in its slot is delivered (R309, R317). -/
def State.glzRestored (s : State) (gk : Nat) : State :=
  let g := s.grp gk
  if !g.glz.joined then s
  else
    let r := g.glz.rank
    let s := s.onLaunch g.launch fun l => { l with chain := { l.chain with map := tset l.chain.map r (.core g.core) } }
    let s := s.onCore g.core fun c => { c with glz := some gk }
    let c := (s.launch g.launch).chain
    let s := if c.round ≠ g.glz.round ∧ !c.toldNot.contains r then s.glzTold gk else s
    s.glzArrive g.launch r

/-- Before a save: every carry-out whose inputs are present has been sent; the unit is unbound and the rank marked
saved (R315, R316). -/
def State.glzSaved (s : State) (gk : Nat) : State :=
  let s := s.glzAdvance gk
  let g := s.grp gk
  if !g.glz.joined then s
  else
    let s := s.onLaunch g.launch fun l => { l with chain := { l.chain with map := tset l.chain.map g.glz.rank .saved } }
    s.onCore g.core fun c => if c.glz = some gk then { c with glz := none } else c

/-- close() of R311: the words of the tile are taken first; words of one kind left over within the count trap. An
unconfigured rank acts on a tile of 0 elements where `empty` says so. -/
def State.glzClose (s : State) (gk : Nat) (empty : Bool) : Except Trap State :=
  let s1 := s.onGrp gk fun g => g.glzAccept (g.q1.length + 1)
  let g := s1.grp gk
  match g.glz.tile with
  | none =>
    if empty then
      .ok ((s1.onGrp gk fun g =>
        let z : GlzRank := { g.glz with tile := some { closed := true } }
        { g with glz := if z.rank = 0 then { z with cin := some 0, carry := some 0 } else z }).glzAdvance gk)
    else .ok s1
  | some t =>
    if !t.closed && decide (t.cfg.code.toNat < 4) && min g.q0.length g.glz.room != min g.q1.length g.glz.room then
      .error { cause := 0x30, detail := 5 }
    else .ok ((s1.onGrp gk fun g => { g with glz := g.glz.close }).glzAdvance gk)

/-! ## The instructions (R297-R300, R311, R313) -/

/-- Runs a glaze instruction of a group that must hold a rank (R297, R311). -/
def State.withRank (s : State) (k : State) : State :=
  if !s.lau.glaze then s.trap { cause := 0x30, detail := 1 }
  else if !s.g.glz.joined then s.trap { cause := 0x30, detail := 3 }
  else k

/-- GLZCFG (R300). -/
def execGlzcfg (a b : Reg) (s : State) : Host.Outcome State Fault Refusal :=
  let w := s.rdS a
  ran s <| s.withScalars [a, b] <| s.withRank <|
    if w &&& 0xFFFFFFFF0000FF88 ≠ 0 ∨ 6 ≤ w.toNat % 8 then s.trap { cause := 0x30, detail := 2 }
    else
      let c : GlzCfg := { code := fld w 0 3, agg := w.getLsbD 4, noh := w.getLsbD 5, wrap := w.getLsbD 6, count := fld w 16 16,
                          h0 := (s.rdS b).setWidth 32, pc := s.pc }
      let s1 := match s.g.glz.tile with
        | none => s.glzOpen s.gk c
        | some t =>
          if t.closed then s.onG fun g => { g with glz := { g.glz with cfg := some c, pend := none } }
          else if t.elems.isEmpty then s.glzOpen s.gk c
          else s.onG fun g => { g with glz := { g.glz with pend := some c } }
      s.done s1 1

/-- GLZJOIN (R299). The rank is checked again when a wait for the unit has ended. The manual does not say whether GLZSTAT.left
stays when a group that left joins another rank: the new rank's state starts afresh, left 0 among it (R320; DESIGN CHOICE,
unsafe, log 104). -/
def execGlzjoin (a : Reg) (s : State) : Host.Outcome State Fault Refusal :=
  let r := (s.rdS a).toNat
  ran s <| s.withScalars [a] <|
    if !s.lau.glaze then s.trap { cause := 0x30, detail := 1 }
    else if s.lau.lrec.chainLen ≤ r then s.trap { cause := 0x30, detail := 4 }
    else if s.lau.chain.at_ r != .never || s.g.glz.joined then s.trap { cause := 0x30, detail := 4 }
    else if (s.core s.g.core).glz.isSome && (s.core s.g.core).glz != some s.gk then s.await .glzUnit
    else
      let s1 := s.onCore s.g.core fun c => { c with glz := some s.gk }
      let s1 := s1.onLaunch s.g.launch fun l => { l with chain := { l.chain with map := tset l.chain.map r (.core s.g.core) } }
      let s1 := s1.onG fun g => { g with glz := { rank := r, joined := true } }
      s.done (s1.glzArrive s.g.launch r) 1

/-- GLZEND (R311). -/
def execGlzend (s : State) : Host.Outcome State Fault Refusal :=
  ran s <| s.withRank <| match s.glzClose s.gk false with
    | .error t => s.trap t
    | .ok s1 => s.done s1 1

/-- The close of GLZBAR and GLZLEAVE and their wait for the current round to complete (R311). -/
def State.glzWait (s : State) (leave : Bool) : State :=
  if s.lead.issued then s.done s 1
  else s.withRank <| match s.glzClose s.gk true with
    | .error t => s.trap t
    | .ok s1 =>
      let s1 := if leave then s1.onG fun g => { g with glz := { g.glz with leaving := true } } else s1
      (s1.onSet fun x => { x with issued := true }).await (.glzRound s.g.glz.round leave)

def execGlzbar (s : State) : Host.Outcome State Fault Refusal := ran s (s.glzWait false)
def execGlzleave (s : State) : Host.Outcome State Fault Refusal := ran s (s.glzWait true)

/-- GLZCIN (R313). -/
def execGlzcin (d : Reg) (s : State) : Host.Outcome State Fault Refusal :=
  ran s <| match d with
    | .v i =>
      if s.g.notHeld d 1 then s.trap { cause := 0x04 }
      else s.withRank <| match s.g.glz.carry with
        | none => s.await .glzCarry
        | some c => s.done (s.onG fun g => s.lanes.foldl (fun g l => g.putV i.val l c) g) 1
    | _ => s.trap { cause := 0x03 }

/-! ## Events (R302, R304, R308, R309) -/

/-- The unit of a group takes up to 32 elements. -/
def execGlazeElementAccept (group : Nat) (s : State) : Host.Outcome State Fault Refusal :=
  ran s (if (tfind s.groups group).isSome && (s.grp group).glz.joined then
    (s.onGrp group fun g => g.glzAccept 32).glzAdvance group else s)

def execGlazeCarryArrive (launch rank : Nat) (s : State) : Host.Outcome State Fault Refusal :=
  ran s (if (tfind s.launches launch).isSome then s.glzArrive launch rank else s)

/-- The completion goes back along the reverse lane, from the last rank to rank 0. -/
def execGlazeRoundComplete (launch rank : Nat) (s : State) : Host.Outcome State Fault Refusal :=
  ran s <| if (s.launch launch).chain.toldNot.head? != some rank then s
    else
      let s1 := s.onLaunch launch fun l => { l with chain := { l.chain with toldNot := l.chain.toldNot.tail } }
      match (s.launch launch).chain.at_ rank with
      | .left => if rank = 0 then s1.glzRestart launch else s1
      | .core _ => match s1.rankGroup launch rank with | some gk => s1.glzTold gk | none => s1
      | _ => s1

def execGlazeResultDeliver (group lane : Nat) (s : State) : Host.Outcome State Fault Refusal :=
  ran s (if (tfind s.groups group).isSome then s.onGrp group fun g => g.glzDeliver (· == lane) else s)

end Sys2Proof.Machine
end

