-- ==== Sys2Proof/Machine/Reads.lean ====
section
/-!
DEFINITION. Which registers and predicates an instruction reads, for the error of R462: reading a register that
holds an uncorrected error raises 0x3F.
-/
namespace Sys2Proof.Machine

/-- The data words of a memory instruction's d field that it reads, and of its address field. -/
def storeReads (d a b : Reg) (n : Nat) : List (Reg × Nat) :=
  (d, n) :: (match b with | .s _ => [(a, 1), (b, 1)] | _ => [(a, 2)])
def addrReads (a b : Reg) : List (Reg × Nat) :=
  match b with | .s _ => [(a, 1), (b, 1)] | _ => [(a, 2)]

/-- The source registers of an instruction under a MODE in a group of a width, each with the words it spans; 0 words stand
for an elastic window. A conversion that keeps elements of its destination reads it (R152). SPAWN's payload is beside this list
(State.spawnReads). PREF and INVL read their address registers, so that one with an error raises 0x3F by R462, although R246
names 0x01 to 0x05 alone for them (DESIGN CHOICE, unsafe, log 102). -/
def readsOf (i : Instr) (m : BitVec 24) (width : Nat) : List (Reg × Nat) :=
  let w := typeWords (mType m)
  let sc (k : Nat) : Reg × Nat := (.s (Fin.ofNat 64 k), 1)
  match i with
  | .jmpr a | .setlive a | .hswap a | .accz a | .glzjoin a | .spopc _ a | .sclz _ a | .saddi _ a _ | .sshli _ a _
  | .sshri _ a _ | .ssrai _ a _ | .sandi _ a _ | .cpy _ _ a | .accrd _ a | .sld _ a _ => [(a, 1)]
  | .loop _ c _ => [sc c.toNat]
  | .sysw d _ | .smovxh d _ => [(d, 1)]
  | .pin a b | .unpin a b | .sadd _ a b | .ssub _ a b | .smul _ a b | .smulh _ a b | .sdiv _ a b | .sdivn _ a b
  | .srem _ a b | .sand _ a b | .sor _ a b | .sxor _ a b | .sshl _ a b | .sshr _ a b | .ssra _ a b | .smin _ a b
  | .smax _ a b | .scmp _ _ a b | .ssel _ _ a b | .cpyt _ _ a b | .accld a b | .mscl a b | .glzcfg a b | .spawn _ a b => [(a, 1), (b, 1)]
  | .smadi d a _ | .sst d a _ | .saadd d a | .accst d a _ => [(d, 1), (a, 1)]
  | .sacas d a => [(d, 1), (.s (Fin.ofNat 64 (regIdx d + 1)), 1), (a, 1)]
  | .accdr d a b _ => [(d, 1), (a, 1), (b, 1)]
  | .accwr d b => [(d, 1), (b, 256 / width)]
  | .mma sa sb _ _ c | .mmar sa sb _ _ c => [sc sa.toNat, sc sb.toNat, sc c.toNat]
  | .rfal _ a | .vaddi _ a _ | .vshli _ a _ | .vshri _ a _ | .vsrai _ a _ | .vpopc _ a | .vclz _ a | .vmov _ a
  | .vbcl _ a _ | .vred _ a _ | .vscan _ a _ | .vmatch _ a | .vcomp _ a => [(a, w)]
  | .vadd _ a b | .vsub _ a b | .vmul _ a b | .vmulh _ a b | .vand _ a b | .vor _ a b | .vxor _ a b | .vmin _ a b
  | .vmax _ a b | .vabsd _ a b | .vcmp _ _ a b | .vsel _ _ a b | .vshl _ a b | .vshr _ a b | .vsra _ a b
  | .vpacks _ a b => [(a, w), (b, w)]
  | .vmad d a b => [(d, w), (a, w), (b, w)]
  | .vshfl _ a b | .vsend _ a b | .vrot _ a b => [(a, w), (b, 1)]
  | .vfadd _ a b | .vfsub _ a b | .vfmul _ a b | .vfmin _ a b | .vfmax _ a b | .vfcmp _ _ a b
  | .vfdiv _ a b | .vfscale _ a b => [(a, 1), (b, 1)]
  | .vfma d a b | .vfms d a b | .vfnma d a b | .vfdot2 d a b => [(d, 1), (a, 1), (b, 1)]
  | .vfabs _ a | .vfneg _ a | .vfsqrt _ a | .vfrcp _ a | .vfrsq _ a | .vfexp2 _ a | .vflog2 _ a | .vfsinp _ a
  | .vfcosp _ a | .vftanh _ a | .vfsigm _ a | .vfclass _ a | .vfrnd _ a => [(a, 1)]
  | .vcvt d a t | .vcvti d a t =>
    (a, typeWords t.toNat) :: if typeCount t.toNat < typeCount (mType m) then [(d, 1)] else []
  | .vqnt _ a _ | .vtpack _ a => [(a, 4)]
  | .vdqnt _ a _ | .vtunpk _ a _ => [(a, 1)]
  | .efadd _ a b | .efsub _ a b | .efmul _ a b | .efdiv _ a b | .efcmp _ _ a b => [(a, 0), (b, 0)]
  | .effma d a b => [(d, 0), (a, 0), (b, 0)]
  | .efsqrt _ a | .efcvto _ a _ | .efrnd _ a | .efneg _ a | .efabs _ a => [(a, 0)]
  | .eflen _ a => [(a, 1)]
  | .efcvt _ a t => [(a, typeWords t.toNat)]
  | .efld _ a b | .efldw _ a b => addrReads a b
  | .efst d a b => (d, 0) :: addrReads a b
  | .ldg8 _ a b | .ldg16 _ a b | .ldg32 _ a b | .ldg64 _ a b | .ldg128 _ a b | .pref a b | .invl a b => addrReads a b
  | .stg8 d a b | .stg16 d a b | .stg32 d a b => storeReads d a b 1
  | .stg64 d a b => storeReads d a b 2
  | .stg128 d a b => storeReads d a b 4
  | .lds32 _ a _ | .lds128 _ a _ => [(a, 1)]
  | .sts32 d a _ => [(d, 1), (a, 1)]
  | .sts128 d a _ => [(d, 4), (a, 1)]
  | .aadd d a b | .amin d a b | .amax d a b | .aand d a b | .aor d a b | .axor d a b | .axchg d a b | .afadd d a b => storeReads d a b w
  | .acas d a b => storeReads d a b (2 * w)
  | _ => []

/-- The predicates an instruction names as sources (R133-R135, R139). -/
def predsOf (i : Instr) : List Nat :=
  match i with
  | .brc p _ _ => [p.toNat]
  | .ssel _ p _ _ | .vsel _ p _ _ | .smask _ p | .vballot _ p | .pnot _ p | .ptest _ p => [p.toNat]
  | .pand _ p q | .por _ p q | .pxor _ p q => [p.toNat, q.toNat]
  | _ => []

/-- The opcodes whose instructions act in the active lanes, so that their guard is read (R16, R17). -/
def guardedOp (o : Nat) : Bool :=
  decide (0x40 ≤ o ∧ o ≤ 0x9F) || decide (0xA0 ≤ o ∧ o ≤ 0xAD) || decide (0xB0 ≤ o ∧ o ≤ 0xB8) ||
    [0x3B, 0xBC, 0xBD, 0xC6, 0xC7, 0xD4].contains o

def guarded (i : Instr) : Bool := match encode i with | some w => guardedOp (fld w.1 24 8).toNat | none => false

/-- The lanes in which an instruction reads the predicates it names (R118, R133, R135, R168). -/
def State.predLanes (s : State) (i : Instr) : List Nat :=
  match i with
  | .brc _ _ _ => s.g.laneNos.filter s.running
  | .smask _ _ => s.setLanes
  | .ssel _ _ _ _ => s.setLanes.take 1
  | _ => s.lanes

/-- The lanes in which an instruction reads the v registers it names: its active ones; RFAL the lowest of them (R134). -/
def State.readLanes (s : State) (i : Instr) : List Nat :=
  match i with | .rfal _ _ => s.lanes.take 1 | _ => s.lanes

/-- What a SPAWN reads beside its s operands: s0 to s15, and v[d] up as many registers as its payload word says, in every lane
(R420). Nothing for another instruction. -/
def State.spawnReads (s : State) (i : Instr) : List Nat × List Nat :=
  match i with
  | .spawn d _ b => (List.range 16, (List.range ((s.rdS b).toNat % 128)).map (regIdx d + ·))
  | _ => ([], [])

/-- The instruction reads an s register that holds an uncorrected error (R462). -/
def State.readsBadS (s : State) (i : Instr) : Bool :=
  (readsOf i s.mode s.g.width).any (fun e => match e.1 with | .s r => s.g.bad.contains (2 ^ 14 + r.val) | _ => false) ||
    (s.spawnReads i).1.any fun r => s.g.bad.contains (2 ^ 14 + r)

/-- The lanes in which the instruction reads a v register or a predicate that holds an uncorrected error (R462). -/
def State.readsBadIn (s : State) (i : Instr) : List Nat :=
  let g := s.g
  g.laneNos.filter fun l =>
    ((s.readLanes i).contains l && (readsOf i s.mode g.width).any fun e => match e.1 with
      | .v r => (List.range (if e.2 = 0 then (fld (g.vr r.val l) 12 3).toNat + 1 else e.2)).any fun k =>
          g.bad.contains (64 * (r.val + k) + l)
      | _ => false) ||
    ((s.spawnReads i).2.any fun r => g.bad.contains (64 * r + l)) ||
    ((s.predLanes i).contains l && (predsOf i).any fun k => g.bad.contains (2 ^ 15 + 64 * k + l)) ||
    (s.running l && guarded i && mGuard s.mode && g.bad.contains (2 ^ 15 + 64 * mGuardP s.mode + l))

/-! ## The registers an instruction names (R236) -/

/-- The s registers that an instruction writes. -/
def sDest (i : Instr) : List Reg :=
  match i with
  | .sysr d _ | .tloc d | .srcfg d _ | .sadd d _ _ | .ssub d _ _ | .smul d _ _ | .smulh d _ _ | .sdiv d _ _ | .sdivn d _ _
  | .srem d _ _ | .sand d _ _ | .sor d _ _ | .sxor d _ _ | .sshl d _ _ | .sshr d _ _ | .ssra d _ _ | .smin d _ _ | .smax d _ _
  | .saddi d _ _ | .smovi d _ | .smovx d _ | .smovxh d _ | .sshli d _ _ | .sshri d _ _ | .ssrai d _ _ | .sandi d _ _
  | .smadi d _ _ | .spopc d _ | .sclz d _ | .rfal d _ | .smask d _ | .sid d _ | .ssel d _ _ _ | .vballot d _ | .sld d _ _
  | .saadd d _ | .sacas d _ => [d]
  | _ => []

/-- The numbers of the s registers that an instruction reads or writes. -/
def State.namesS (s : State) (i : Instr) : List Nat :=
  ((readsOf i s.mode s.g.width).map (·.1) ++ sDest i).filterMap (fun r => match r with | .s k => some k.val | _ => none) ++
    (s.spawnReads i).1

/-- The v registers that an instruction writes, each operand with the words it spans. -/
def State.vDest (s : State) (i : Instr) : List (Reg × Nat) :=
  let w := typeWords (mType s.mode)
  match i with
  | .vadd d _ _ | .vsub d _ _ | .vmul d _ _ | .vmulh d _ _ | .vmad d _ _ | .vand d _ _ | .vor d _ _ | .vxor d _ _ | .vshl d _ _
  | .vshr d _ _ | .vsra d _ _ | .vmin d _ _ | .vmax d _ _ | .vabsd d _ _ | .vsel d _ _ _ | .vaddi d _ _ | .vmovi d _ | .vmovx d _
  | .vshli d _ _ | .vshri d _ _ | .vsrai d _ _ | .vpopc d _ | .vclz d _ | .vlane d | .vmov d _ | .vpacks d _ _ | .vcvt d _ _
  | .vcvti d _ _ | .vshfl d _ _ | .vsend d _ _ | .vrot d _ _ | .vbcl d _ _ | .vred d _ _ | .vscan d _ _ | .vcomp d _ => [(d, w)]
  | .vfadd d _ _ | .vfsub d _ _ | .vfmul d _ _ | .vfma d _ _ | .vfms d _ _ | .vfnma d _ _ | .vfmin d _ _ | .vfmax d _ _ | .vfabs d _
  | .vfneg d _ | .vfdiv d _ _ | .vfsqrt d _ | .vfrcp d _ | .vfrsq d _ | .vfexp2 d _ | .vflog2 d _ | .vfsinp d _ | .vfcosp d _
  | .vftanh d _ | .vfsigm d _ | .vfclass d _ | .vfrnd d _ | .vfscale d _ _ | .vfdot2 d _ _ | .vqnt d _ _ | .vtpack d _ | .eflen d _
  | .ldg8 d _ _ | .ldg16 d _ _ | .ldg32 d _ _ | .lds32 d _ _ | .glzcin d => [(d, 1)]
  | .vmatch d _ | .ldg64 d _ _ => [(d, 2)]
  | .vdqnt d _ _ | .vtunpk d _ _ | .ldg128 d _ _ | .lds128 d _ _ => [(d, 4)]
  | .efadd d _ _ | .efsub d _ _ | .efmul d _ _ | .effma d _ _ | .efdiv d _ _ | .efsqrt d _ | .efcvt d _ _ | .efrnd d _ | .efneg d _
  | .efabs d _ | .efld d _ _ | .efldw d _ _ => [(d, nP s.prec + 1)]
  | .efcvto d _ t => [(d, typeWords t.toNat)]
  | .accrd d _ => [(d, 256 / s.g.width)]
  | _ => []

/-- The v registers that an instruction reads or writes in a lane, as runs: the first of each with their number. -/
def State.namesV (s : State) (i : Instr) (l : Nat) : List (Nat × Nat) :=
  ((readsOf i s.mode s.g.width ++ s.vDest i).filterMap fun e => match e.1 with
    | .v r => some (r.val, if e.2 = 0 then (fld (s.g.vr r.val l) 12 3).toNat + 1 else e.2)
    | _ => none) ++ (s.spawnReads i).2.map fun r => (r, 1)

/-- The issuing set would read a register or predicate that holds an uncorrected error (R462). -/
def State.readsBad (s : State) (i : Instr) : Bool :=
  !s.g.bad.isEmpty && s.lead.begun.isNone && (s.readsBadS i || !(s.readsBadIn i).isEmpty)

/-- The trap of reading it. -/
def State.trapBad (s : State) (i : Instr) : State :=
  if s.readsBadS i then s.trap { cause := 0x3F } else s.trapLanes ((s.readsBadIn i).map fun l => (l, { cause := 0x3F }))

/-- An execution of the issuing set's instruction raised one of the operand traps 0x01 to 0x05, which come before 0x3F (R24):
the launch stopped with it, or a strand of the set entered its handler with it. -/
def State.brokeOperandRule (s t : State) : Bool :=
  let early (c : Byte) : Bool := decide (1 ≤ c.toNat ∧ c.toNat ≤ 5)
  let was := (s.lau.stop.map (·.cause)).isSome
  (match (t.launch s.g.launch).stop with | some f => !was && early f.cause | none => false) ||
  s.ks.any fun k => let x := (t.grp s.gk).strand k; !(s.g.strand k).handler && x.handler && early x.tcause

end Sys2Proof.Machine
end

