-- ==== Sys2Proof/Machine/Issue.lean ====
section
/-!
DEFINITION. Which joined set issues next: the waits that have ended, the choice of R189 in a partition, the
issue cycles of the throttle state, and the fetch and decode of the instruction at the chosen PC.
-/
namespace Sys2Proof.Machine

/-! ## The end of a wait (R190) -/

/-- The strand of a set that stands for its wait has what it waits for. -/
def State.waitOver (s : State) (g : Group) (gk j : Nat) : Bool :=
  let ks := g.members j
  let x := g.strand (ks.headD 0)
  match x.wait with
  | none => true
  | some w =>
    match w with
    | .barrier n => ks.all fun k => !(g.strand k).barPend.getLsbD n
    | .queue needs | .glzPop needs =>
      s.queuesReady g (g.activeOf j) needs || !(s.queueTraps g (g.activeOf j) needs).isEmpty
    | .palette => (s.core g.core).claims.all fun c => !(c.group == gk && c.jset == j)
    | .token m => (List.range 8).all fun t => !m.getLsbD t || (g.token t).state != 1
    | .regang => (List.range g.strands.length).all fun k => (g.strand k).ended || (g.strand k).arrived
    | .matrix => (s.core g.core).mats.all fun m => !(m.group == gk && m.strands.any ks.contains)
    | .matrixRoom n => decide ((s.core g.core).mats.length + n ≤ 64)
    | .glzUnit => match (s.core g.core).glz with | none => true | some k => k == gk
    | .glzRound r _ => g.glz.round != r || g.glz.left
    | .glzCarry => g.glz.carry.isSome
    | .load => s.loads.all (fun r => !(r.group == gk && (r.jset == j || r.fly.isSome))) &&
        s.remotes.all fun r => !(r.group == gk && r.jset == j && r.op != .store)
    | .acks => s.msgs.all fun p => !(p.group == gk && p.jset == j)
    | .srcfg n => s.repartGoes n gk j x.issued
    | .remoteWrites => !s.remoteWrites gk x.snap
    | .performed => !s.owes gk ks
    | .engines => (s.core g.core).copies.all (·.group != gk) && (s.core g.core).mats.all (·.group != gk)
    | .departure => false

/-! ## The choice in a partition (R189) -/

/-- A group may issue: its units have been granted (R203). -/
def Group.issues (g : Group) : Bool := !g.restoring

/-- A strand may issue: a group held for a save, or of a stopped launch, issues at no instruction boundary, but completes what it
has begun (R216, R367). -/
def State.strandIssues (s : State) (g : Group) (x : Strand) : Bool :=
  x.begun.isSome || (!g.saving && ((s.launch g.launch).stop).isNone)

/-- The groups resident in a partition that may issue. -/
def State.partGroups (s : State) (core part : Nat) : List (Nat × Group) :=
  s.groups.filter fun e => e.2.core == core && e.2.part == part && e.2.issues

/-- Returns the sets of a partition whose waits have ended to the ready set, their age counted from now (R189, R190). -/
def State.wake (s : State) (core part : Nat) : State :=
  let now := s.nowAt core part
  (s.partGroups core part).foldl (fun s e =>
    e.2.sets.foldl (fun s j =>
      let g := s.grp e.1
      let x := g.strand ((g.members j).headD 0)
      if x.wait.isSome && s.strandIssues g x && s.waitOver g e.1 j then
        s.onGrp e.1 fun g => g.onSet j fun x => { x with wait := none, readyAt := now }
      else s) s) s

/-- A ready set with what R189 compares: its age in cycles and the issue cycles it has waited, its priority, group slot and
strand. -/
structure Ready where
  group : Nat
  jset : Nat
  age : Nat
  waited : Nat
  priority : Nat
  slot : Nat
  strand : Nat
deriving DecidableEq, Repr

/-- The group slot and strand number that R189 compares: a traveller stands in a carrier group of 4 strands, which occupies
one of the holder's group slots (R408). -/
def State.placeOf (s : State) (g : Group) (strand : Nat) : Nat × Nat :=
  match g.trav with
  | none => (g.slot, strand)
  | some t =>
    let own := match (s.core g.core).holder with | some h => h.carriers.getD g.part [] | none => []
    (own.getD (t.slot / 4) (t.slot / 4), t.slot % 4)

def State.readySets (s : State) (core part : Nat) : List Ready :=
  let now := s.nowAt core part
  (s.partGroups core part).flatMap fun e =>
    e.2.sets.filterMap fun j =>
      let k := (e.2.members j).headD 0
      let x := e.2.strand k
      if x.wait.isSome || !s.strandIssues e.2 x then none
      else some { group := e.1, jset := j, age := now.1 - x.readyAt.1, waited := now.2 - x.readyAt.2,
                  priority := (s.launch e.2.launch).lrec.priority, slot := (s.placeOf e.2 k).1, strand := (s.placeOf e.2 k).2 }

/-- The first of two sets: the older, then the lower slot, then the lower strand. -/
def Ready.older (a b : Ready) : Bool :=
  if a.age ≠ b.age then decide (b.age < a.age)
  else if a.slot ≠ b.slot then decide (a.slot < b.slot)
  else decide (a.strand < b.strand)

def Ready.oldest : List Ready → Option Ready
  | [] => none
  | a :: t => match Ready.oldest t with
    | none => some a
    | some b => if b.older a then some b else some a

/-- The choice of R189: a set 64 issue cycles old first, then the highest priority, then the oldest. -/
def Ready.choose (rs : List Ready) : Option Ready :=
  let late := rs.filter fun r => decide (64 ≤ r.waited)
  if late.isEmpty then
    let top := rs.foldl (fun a r => max a r.priority) 0
    Ready.oldest (rs.filter fun r => r.priority == top)
  else Ready.oldest late

/-! ## Cycles (R3, R344) -/

/-- Issue cycles per 20 in a throttle state. -/
def issueRate (t : Nat) : Nat := [20, 20, 17, 14, 14, 11, 8, 2].getD t 2

/-- Cycle c of a partition is an issue cycle in a throttle state (R344). -/
def issueCycle (t c : Nat) : Bool :=
  decide (c % 20 * issueRate t / 20 < (c % 20 + 1) * issueRate t / 20)

/-- The cycles from c on until an issue cycle, c itself counted as 0; one lies within 20. -/
def untilIssue (t : Nat) (c : Nat) : Nat → Nat
  | 0 => 0
  | n + 1 => if issueCycle t c then 0 else untilIssue t (c + 1) n + 1

/-- The core comes to the issue cycles in which a set issues: one more than the tape's stall, and as many gangs as
the set needs (R186, R187). -/
def State.passCycles (s : State) (core part gangs : Nat) : State :=
  let stall := s.stalls.headD 0
  let s := { s with stalls := s.stalls.tail }
  let t := (s.core core).throt
  let c := (s.core core).cycle.toNat + 1 + stall
  let c := c + untilIssue t c 20
  let c := if gangs = 2 then c + 1 + untilIssue t (c + 1) 20 else c
  s.onCore core fun x => { x with
    idle := x.idle + (c - x.cycle.toNat), cycle := BitVec.ofNat 64 c,
    issues := tset x.issues part (tget 0 x.issues part + gangs) }

/-! ## Which partition (log 1) -/

/-- Partitions with resident groups that may issue, as core x 4 + partition, in increasing order. -/
def State.busyParts (s : State) : List Nat :=
  (s.groups.foldl (fun (a : Table Unit) e =>
    if e.2.issues then tset a (e.2.core * 4 + e.2.part) () else a) []).map (·.1)

/-- Every set whose wait has ended returns to the ready set in the cycle in which it ends: nothing but an event or the issue
before this one can have ended it (R189, R190). -/
def State.wakeAll (s : State) : State := s.busyParts.foldl (fun s p => s.wake (p / 4) (p % 4)) s

/-- The partition that issues: the tape's next, else the next busy one with a ready set in increasing order after
the partition that issued last. -/
def State.nextPart (s : State) : Option Nat × State :=
  match s.turns with
  | t :: ts => (some t, { s with turns := ts })
  | [] =>
    let last := (s.grp s.cur.group).core * 4 + (s.grp s.cur.group).part
    let ps := s.busyParts.filter fun p => s.readySets (p / 4) (p % 4) != []
    match ps.find? fun p => decide (last < p) with
    | some p => (some p, s)
    | none => (ps.head?, s)

/-! ## Fetch and decode (R83, R89, R92, R190, R234) -/

/-- What the machine does next: an instruction or event to run, an instruction that would read a register holding an
error (R462) or that a flight of its group holds back (R236), a trap at the PC, nothing, or an agenda entry that is no event
(log 1). -/
inductive Todo where
  | event (i : Instr) | run (i : Instr) | spoiled (i : Instr) | hold | trap (t : Trap) | idle | bad
deriving DecidableEq, Repr

/-- The instruction at an address: its words fetched through the launch's translation, or the trap that fetching or
decoding it raises. A first word of an extended instruction in slot 31 raises 0x02 (R83). No PC that R80 and R81 allow is a
header slot, whose word is never executed (R79), or no multiple of 4; where a TRET resumes at such a TPC, the resumed instruction
raises there what R81 has a transfer to it raise (DESIGN CHOICE, unsafe, log 81). -/
def State.decodeAt (s : State) (g : Group) (pc : DWord) : Todo :=
  if pc.toNat % 4 ≠ 0 then .trap { cause := 0x0A, taddr := pc }
  else if pc.toNat % 128 = 0 then .trap { cause := 0x09, taddr := pc }
  else match s.fetch g pc with
  | .error (c, d) => .trap { cause := c, taddr := pc, detail := d }
  | .ok w =>
    if takesExtension (fld w 24 8) then
      if pc.toNat % 128 = 124 then .trap { cause := 0x02, taddr := 0 }
      else match s.fetch g (pc + 4) with
        | .error (c, d) => .trap { cause := c, taddr := pc + 4, detail := d }
        | .ok x => match decode w x with
          | .ok i => .run i
          | .reserved => .trap { cause := 0x02, taddr := 0 }
    else match decode w 0 with
      | .ok i => .run i
      | .reserved => .trap { cause := 0x02, taddr := 0 }

/-- A copy or a drain, which observes what its group has accessed before (R251, R281). -/
def observes (i : Instr) : Bool :=
  match i with | .cpy _ _ _ | .cpyt _ _ _ _ | .accdr _ _ _ _ => true | _ => false

/-- The issuing set's instruction names a register that a flight will write: its s register, or v registers of its lane, where that is
a lane of the set. -/
def State.namesDst (s : State) (i : Instr) (lane : Nat) : FlyDst → Bool
  | .s n => (s.namesS i).contains n
  | .v n w _ => s.ks.contains (lane / 4) && (s.namesV i lane).any fun e => decide (e.1 < n + w ∧ n < e.1 + e.2)

/-- A flight of the issuing set's group holds an instruction back: the instruction names a register that the flight will
write, or starts a copy or a drain. Everything else issues beside it (R110, R236, log 92). -/
def State.heldBack (s : State) (i : Instr) : Bool :=
  s.loads.any fun r => r.group == s.gk && match r.fly with
    | some f => observes i || s.namesDst i r.lane f.dst
    | none => false

/-- An entry of the agenda must be an event within its ranges, and not an instruction word (log 1). -/
def eventOk (i : Instr) : Bool := (encode i).isNone && WellFormed i

/-- An issue that counts for forward progress, one of a YIELD not: of the group, of the core, and of a holder's travellers
(R214, R217, R427). -/
def State.noteIssue (s : State) (core : Nat) : State :=
  let now := (s.core core).cycle.toNat
  (s.onG fun g => { g with lastIssue := now }).onCore core fun c => { c with
    idle := 0
    swapped := []
    holder := c.holder.map fun h => if s.g.trav.isSome then { h with lastBusy := now, swapped := false } else h }

/-- Brings the machine to what it does next: the agenda's next event, or the set that issues next with the
instruction at its PC. First the outside changes as the tape says. The issue of an instruction is noted with its run
(State.runIssue, State.runSpoiled). -/
def State.prepare (s : State) : State × Todo :=
  let s := s.takeOuter
  match s.agenda with
  | e :: es => ({ s with agenda := es }, if eventOk e then .event e else .bad)
  | [] =>
    match s.wakeAll.nextPart with
    | (none, s) => (s, .idle)
    | (some p, s) =>
      let core := p / 4
      let part := p % 4
      match Ready.choose (s.readySets core part) with
      | none => (s, .idle)
      | some r =>
        let s := { s with cur := { group := r.group, jset := r.jset } }
        let s := s.passCycles core part (if 8 < s.ks.length then 2 else 1)
        let s := if (s.pinnedAt s.g s.pc).isSome then s else s.keepXlate core (s.asidOf s.g) s.pc.toNat
        let todo := match s.decodeAt s.g s.pc with
          | .run i => if s.heldBack i then .hold else if s.readsBad i then .spoiled i else .run i
          | t => t
        (match todo with | .run _ | .spoiled _ | .hold => s | _ => s.noteIssue core, todo)

/-! ## A program word placed where the next step fetches (log 4) -/

/-- The code line at physical and virtual address 0x10000 with an instruction in slots 1 and 2: every slot marked,
an entry line. -/
def placedCode (w : Nat) : List Host.Cell :=
  cellsLE 0x10000 0xFFFFFFFF 4 ++ cellsLE 0x10004 (w % 2 ^ 64) 8

/-- One resident group of 32 lanes on core 0, partition 0, at slot 1 of that line. -/
def placedGroup (launch : Nat) : Group :=
  { launch, held := 176, p := [(0, 0xFFFFFFFF)], srg := (List.range 32).map fun l => (l, srgSeed 0 0 l),
    strands := List.replicate 8 { pc := 0x10004, live := BitVec.allOnes 64 } }

/-- Puts an instruction where the next step fetches: the code line, a page of a new launch's address space that maps
it, and a resident group about to issue it; nothing else of the partition issues first. -/
def State.placeWord (s : State) (w : Nat) : State :=
  let n := s.nextKey
  let s := { s with
    nextKey := n + 1, agenda := [], turns := [0], outer := [], bus := [], mem := applyBus s.mem (placedCode w),
    groups := tset (s.groups.filter fun e => !(e.2.core == 0 && e.2.part == 0)) n (placedGroup n),
    launches := tset s.launches n { lrec := { base := 176, ceil := 176, asid := n, teamsX := 1, teamsY := 1, groups := 1, widthCode := 1, prec := 24 } },
    teams := tset s.teams (teamKey n 0) { launch := n } }
  let s := s.onStack 0 fun k => { k with
    queue := tput [] k.queue (sliceOf 0x10000) ((tget [] k.queue (sliceOf 0x10000)).filter (·.line != 0x200)) }
  s.onCore 0 fun c => { c with
    tlb := [{ asid := n, va := 0x10000, leaf := { wr := true, x := true, base := 0x10000, size := 65536 } }] }

/-- The instruction's trap at the PC, as the whole effect of a step. -/
def State.trapStep (s : State) (t : Trap) : State := commit s (s.trap t)

/-- The trap of a register that holds an error, and the wait for a flight, as the whole effect of a step. -/
def State.badStep (s : State) (i : Instr) : State := commit s (s.trapBad i)
def State.holdStep (s : State) : State := commit s (s.await .load)

end Sys2Proof.Machine
end

