-- ==== Sys2Proof/Machine/Tier.lean ====
section
/-!
DEFINITION. The SRAM tier's repartition and pins, the exchange of a handle's backings, and the governor and power limit
(R324-R341, R344-R346, R465, R471, R472).
-/
namespace Sys2Proof.Machine

/-! ## SRCFG (R329, R330, R465) -/

/-- The byte writes that make the aperture way-blocks lo to hi - 1 of a stack read zero. -/
def State.zeroBlocks (s : State) (stack lo hi : Nat) : State :=
  let cells := ((s.mem ++ s.bus).filter fun c => inBlocks stack lo hi c.1).map fun c => (c.1, (0 : Byte))
  { s.pokes cells with poison := s.poison.filter fun l => !inBlocks stack lo hi (l * 128) }

/-- Brings every store to the way-blocks lo to hi - 1 of a stack to its slice and performs it. -/
def State.flushBlocks (s : State) (stack lo hi : Nat) : State :=
  let here (l : Nat) : Bool := inBlocks stack lo hi (l * 128)
  let s := s.cores.foldl (fun s c => ((linesOf c.2.cells).filter here).foldl (fun s l => s.drainLine c.1 l) s) s
  let queued := ((s.stack stack).queue.flatMap fun q => q.2.map (·.line)).filter here
  queued.foldl State.settle s

/-- A growing change of ways: the dirty lines in the ways taken are written back and counted, their pins cleared. -/
def State.growWays (s : State) (stack o n : Nat) : Nat × State :=
  let k := s.stack stack
  let gone (e : Nat × TierLine) : Bool := decide (16 - n ≤ e.1 % 16 ∧ e.1 % 16 < 16 - o)
  let c := (k.tier.filter fun e => gone e && e.2.dirty).length
  let s := s.setStack stack { k with tier := k.tier.filter fun e => !gone e, ways := n, epoch := k.epoch + 1, srwb := k.srwb + BitVec.ofNat 64 c }
  (c, s.zeroBlocks stack o n)

/-- A core's pending signature takes the lines of discarded way-blocks that its L1 still holds, as if the discard were a write of
each: its next acquire removes them (R351, R388, log 116). -/
def Core.signBlocks (c : Core) (stack lo hi : Nat) : Core :=
  let held := (c.l1.map (·.1)).filter fun l => inBlocks stack lo hi (l * 128)
  { c with psig := held.foldl (fun p l => p ||| sigBit (sigH1 l) ||| sigBit (sigH2 l)) c.psig }

/-- The end of an SRCFG: a shrink brings the stores to the ways it gives back to them, and discards what they hold. -/
def State.endRepart (s : State) (stack : Nat) : State :=
  match (s.stack stack).repart with
  | none => s
  | some r =>
    let s := if r.lo < r.hi then
        ((s.flushBlocks stack r.lo r.hi).zeroBlocks stack r.lo r.hi).mapCores fun c => c.signBlocks stack r.lo r.hi
      else s
    s.onStack stack fun k => { k with repart := none }

/-- The first part of an SRCFG from o to n ways: what a grow does to the ways it takes, and the new number in force at the
stack and on its way to every core. -/
def State.startRepart (s : State) (stack o n : Nat) : State :=
  let (c, s) := if o < n then s.growWays stack o n
    else (0, s.onStack stack fun k => { k with ways := n, epoch := k.epoch + 1 })
  let s := s.onStack stack fun k => { k with repart := some { group := s.gk, lo := n, hi := o, count := c } }
  (s.publish ((List.range 128).map fun c => .ways c stack n)).onSet fun x => { x with issued := true, begun := some {} }

/-- The set of an SRCFG goes on once its change is complete, its count in s[d]. -/
def State.goRepart (s : State) (d : Reg) (stack : Nat) : State :=
  match (s.stack stack).repart with
  | none => s.done s 1
  | some r => if s.repartReady stack r then s.done ((s.endRepart stack).wrS d (BitVec.ofNat 64 r.count)) 1 else s.await (.srcfg stack)

/-- An SRCFG takes its place among those that wait for a stack, once. -/
def Stack.queueRepart (k : Stack) (gk j : Nat) : Stack :=
  if k.repartQueue.contains (gk, j) then k else { k with repartQueue := k.repartQueue ++ [(gk, j)] }

/-- It is the turn of a set's SRCFG: no change of the stack is under way and none that issued earlier waits (R329). -/
def Stack.repartTurn (k : Stack) (gk j : Nat) : Bool :=
  k.repart.isNone && match k.repartQueue with | [] => true | e :: _ => e == (gk, j)

/-- The SRCFG whose turn it is gives up its place among those that wait. -/
def State.leaveRepartQueue (s : State) (stack : Nat) : State :=
  if (s.stack stack).repartQueue.isEmpty then s else s.onStack stack fun k => { k with repartQueue := k.repartQueue.tail }

/-- SRCFG: one change of a stack at a time, in the order they issued (R329). -/
def execSrcfg (d : Reg) (imm : BitVec 8) (s : State) : Host.Outcome State Fault Refusal :=
  let stack := stackOf s.g.core
  let n := imm.toNat
  let o := (s.stack stack).ways
  ran s <| s.withScalars [d] <|
    if s.lead.issued then s.goRepart d stack
    else if !s.lau.capable then s.trap { cause := 0x11, detail := 6 }
    else if !(s.stack stack).repartTurn s.gk s.cur.jset then
      (s.onStack stack fun k => k.queueRepart s.gk s.cur.jset).await (.srcfg stack)
    else
      let s := s.leaveRepartQueue stack
      if (s.stack stack).waysOut.any fun e => decide (16 - n ≤ e.2 ∧ e.2 < 16 - o) then s.trap { cause := 0x11, detail := 14 }
      else if n = o then s.done (s.wrS d 0) 1
      else s.beforeEffects fun s => (s.startRepart stack o n).goRepart d stack

/-! ## PIN and UNPIN (R332, R334) -/

/-- Slice and way of a line held in a stack's tier. -/
def Stack.findLine (k : Stack) (line : Nat) : Option (Nat × Nat) :=
  (List.range 16).findSome? fun sl => (k.findWay sl (setOf (line * 128)) line).map fun w => (sl, w)

/-- Pins one line of a stack's DRAM for a launch; an absent one is brought to the given slice. -/
def Stack.pinLine (k : Stack) (line sl : Nat) (key : Option Nat) (launch : Nat) : Stack :=
  let set := setOf (line * 128)
  match k.findLine line with
  | some (sl, w) =>
    match tfind k.tier (tierKey sl set w) with
    | some t => if t.pin.isSome then k else { k with tier := tset k.tier (tierKey sl set w) { t with pin := some launch } }
    | none => k
  | none =>
    match k.victim sl set with
    | some w =>
      let t : TierLine := { line, dirty := false, used := k.clock + 1, pin := some launch, key }
      { k with clock := k.clock + 1, tier := tset k.tier (tierKey sl set w) t }
    | none => { k with pinfail := k.pinfail + 1 }

def Stack.unpinLine (k : Stack) (line launch : Nat) : Stack :=
  { k with tier := k.tier.map fun e => if e.2.line == line && e.2.pin == some launch then (e.1, { e.2 with pin := none }) else e }

/-- The slice of the tile that a tensor address lies in, through the lowest valid handle of the ASID whose front or
underlayer holds it (R338, log 30). -/
def State.tileSlice (s : State) (core asid va : Nat) : Option Nat :=
  (List.range 4096).findSome? fun i =>
    let h := s.readHandle asid i
    let tile (base : Nat) : Option Nat :=
      if base ≤ va ∧ va < base + h.n0 * h.n1 * h.n2 * h.d ∧ (va - base) % h.d < h.b then some (h.slice ((va - base) / h.d)) else none
    if s.handleValid core asid h then (tile h.front).or (if h.under = 0 then none else tile h.under) else none

/-- The handles of an ASID whose entries hold something in memory, queued writes and encrypted lines among it: every other is zero, and
not valid. -/
def State.usedHandles (s : State) (asid : Nat) : List Nat :=
  let tab := (tget {} s.asids asid).handles
  let queued := (s.stackTab.flatMap fun k => k.2.queue.flatMap fun q => q.2.map (·.line)) ++ s.edge.flatMap fun q => q.2.map (·.line)
  let used := ((s.mem ++ s.bus).filterMap fun c => if tab ≤ c.1 ∧ c.1 < tab + 2 ^ 18 then some ((c.1 - tab) / 64) else none) ++
    (queued ++ s.sealed.map (·.1)).flatMap fun l => if tab ≤ l * 128 + 127 then [(l * 128 - tab) / 64, (l * 128 + 127 - tab) / 64] else []
  if used.isEmpty then [] else (List.range 4096).filter used.contains

/-- The slice of the tile of a valid handle that a physical address of a stack lies in, by one of its backings (R338). -/
def State.backedSlice (s : State) (asid : Nat) (h : Handle) (pa backing : Nat) : Option Nat :=
  (pageStarts backing (h.n0 * h.n1 * h.n2 * h.d)).findSome? fun p => match s.devXlate asid (p % 2 ^ 64) with
    | .ok leaf =>
      let lo := leaf.base + p / 65536 * 65536 % leaf.size
      let va := p / 65536 * 65536 + (pa - lo)
      if leaf.tensor ∧ lo ≤ pa ∧ pa < lo + 65536 ∧ backing ≤ va ∧ va < backing + h.n0 * h.n1 * h.n2 * h.d ∧ (va - backing) % h.d < h.b
      then some (h.slice ((va - backing) / h.d)) else none
    | .fail _ _ => none

/-- The home slice of the line of a physical address as an access from outside finds it (R441, R452): that of the tile it lies in, for
which the lowest ASID and handle whose backing holds it decide, else that of R323 (R338, log 30). -/
def State.homeSlice (s : State) (pa : Nat) : Nat :=
  (s.asids.findSome? fun a =>
    if a.2.flags % 2 = 0 ∨ a.2.handles = 0 then none
    else (s.usedHandles a.1).findSome? fun i =>
      let h := s.readHandle a.1 i
      if h.clean && decide (h.flags % 2 = 1 ∧ 0 < h.b) then
        (s.backedSlice a.1 h pa h.front).or (if h.under = 0 then none else s.backedSlice a.1 h pa h.under)
      else none).getD (sliceOf pa)

/-- The home slice of the line of a translated address in stack DRAM (R323, R338). -/
def State.lineSlice (s : State) (core asid va : Nat) : Nat :=
  let own := sliceOf (s.paOf core asid va)
  match s.xlate core asid va with
  | .ok leaf => if leaf.tensor then (s.tileSlice core asid va).getD own else own
  | .fail _ _ => own

/-- Runs PIN or UNPIN: the checks of the range, then each line of stack DRAM in increasing address. -/
def State.pinRange (s : State) (a b : Reg) (f : Stack → Nat → Nat → Option Nat → Stack) : State :=
  let va := (s.rdS a).toNat
  let n := (s.rdS b).toNat
  let core := s.g.core
  let asid := s.asidOf s.g
  s.withScalars [a, b] <|
    if !s.lau.capable then s.trap { cause := 0x11, detail := 6 }
    else if 2 ^ 24 < n then s.trap { cause := 0x11, detail := 7 }
    else
      let bad := (pageStarts va n).findSome? fun x => match s.pageCheck core asid (x % 2 ^ 64) .read true with
        | some (0x14, _) => none
        | some e => some (e, x % 2 ^ 64)
        | none => none
      match bad with
      | some (e, x) => s.trap { cause := e.1, taddr := BitVec.ofNat 64 x, detail := e.2 }
      | none =>
        let s1 := s.keepRange core asid va n
        s.done ((pieces va n 128).foldl (fun t p =>
          let pa := s.paOf core asid p.1
          match nodeOf pa with
          | .stack k => if (wayBlock pa).isSome then t else t.onStack k fun x => f x (pa / 128) (s.lineSlice core asid p.1) (s.keyOf core asid p.1)
          | _ => t) s1) 1

def execPin (a b : Reg) (s : State) : Host.Outcome State Fault Refusal :=
  ran s (s.pinRange a b fun k line slice key => k.pinLine line slice key s.g.launch)
def execUnpin (a b : Reg) (s : State) : Host.Outcome State Fault Refusal :=
  ran s (s.pinRange a b fun k line _ _ => k.unpinLine line s.g.launch)

/-! ## HSWAP (R340, R341) -/

/-- The two base words of a handle entry change places at the entry's home. -/
def State.swapEntry (s : State) (asid h : Nat) : State :=
  let a := (tget {} s.asids asid).handles + 64 * h
  s.devWrites (cellsLE a (s.homeN (a + 8) 8) 8 ++ cellsLE (a + 8) (s.homeN a 8) 8) none

/-- HSWAP: waits for the group's copies and matrix operations, releases, exchanges, and completes once every core within
the scope has dropped its copy of the entry. From its exchange on it completes, whatever stops its launch (R367). -/
def execHswap (a : Reg) (s : State) : Host.Outcome State Fault Refusal :=
  let h := (s.rdS a).toNat
  let core := s.g.core
  let asid := s.asidOf s.g
  let fin (s : State) : State := s.done (s.acquire (mAcquire s.mode)) 1
  ran s <| s.withScalars [a] <|
    if s.lead.issued then (if s.unacked then s.await .acks else fin s)
    else if 4096 ≤ h then s.trap { cause := 0x11, detail := 3 }
    else
      let (e, s1) := s.handleEntry core asid h
      if !s.handleValid core asid e then s.trap { cause := 0x11, detail := 3 }
      else if !e.shadow || e.under == 0 then s.trap { cause := 0x11, detail := 8 }
      else if (s.core core).copies.any (·.group == s.gk) || (s.core core).mats.any (·.group == s.gk) then s.await .engines
      else s1.afterRelease true fun s =>
        let s2 := (s.swapEntry asid h).publish ((s.scopeCores s.g (max 1 (mScope s.mode))).map fun c => .drop c asid h)
        if s2.unacked then (s2.onSet fun x => { x with issued := true, begun := some {} }).await .acks else fin s2

/-! ## The governor and the power limit (R344-R346, R472) -/

/-- The governor periods, of 1 ms, in 24 hours (R345). -/
def dayPeriods : Nat := 86400000

/-- The DRAM ceiling of a state (R344). -/
def dramCeiling (t : Nat) : Int := if t = 0 then 85 else if t ≤ 3 then 95 else 105

/-- A state is safe, its margins widened by `more` degrees. Everything is taken in units of 1 / (40 avail) of a degree;
m = idle / avail is the memory-boundness and `cur` the current state (R345). -/
def safeState (td tb g : Int) (idle avail cur t : Nat) (more : Int) : Bool :=
  let u : Int := 40 * avail
  let da : Int := ((issueRate t : Int) - issueRate cur) * ((avail : Int) - idle)
  let half : Int := 20 * avail
  decide (u * td + 48 * da < u * (dramCeiling t - 2 - more) - half * g) &&
    decide (u * tb + 80 * da < u * (110 - 2 - more) + half * g)

/-- The state the governor chooses (R346). `calm` counts, for each state, the periods in a row it was safe with 3 °C
more, this one included. -/
def governorState (td tb g : Int) (idle avail cur : Nat) (calm : Table Nat) : Nat :=
  if 105 ≤ td ∨ 115 ≤ tb then 7
  else if cur = 7 then (if td ≤ 100 ∧ tb ≤ 110 then 6 else 7)
  else if !safeState td tb g idle avail cur cur 0 then
    (((List.range 7).filter fun t => decide (cur < t)).find? fun t => safeState td tb g idle avail cur t 0).getD 6
  else if 0 < cur ∧ 8 ≤ tget 0 calm (cur - 1) then cur - 1
  else cur

/-- A stack's state becomes t: every core of the stack takes it and counts the change (R346, R348). -/
def State.throttle (s : State) (stack t : Nat) : State :=
  if (s.stack stack).throt = t then s
  else
    let s := s.onStack stack fun k => { k with throt := t }
    (List.range 16).foldl (fun s c => s.onCore (16 * stack + c) fun x =>
      { x with throtPrev := x.throt, throt := t, throtCount := x.throtCount + 1 }) s

/-- GOVERNOR_PERIOD: the sensors' temperatures, and of the stack's available issue cycles those idle for memory. A
period without available cycles counts as m = 0 (log 9). The first Td of a stack is its first low point (R471; DESIGN CHOICE, unsafe,
log 32). -/
def execGovernorPeriod (stack : Nat) (td tb : Int) (idle avail : Nat) (s : State) : Host.Outcome State Fault Refusal :=
  let k := s.stack stack
  let (idle, avail) := if avail = 0 then (0, 1) else (idle, avail)
  let calm := (List.range 7).foldl (fun c t =>
    tput 0 c t (if safeState td tb k.bias idle avail k.gov t 3 then min 8 (tget 0 c t + 1) else 0)) k.calm
  let gov := governorState td tb k.bias idle avail k.gov calm
  -- a rise counts once, and the next low point is where Td falls again (log 94)
  let low := if k.periods = 0 ∨ (k.risen ∧ td < k.td) then td else if k.risen then k.tdLow else min k.tdLow td
  let up := k.risen && !decide (td < k.td)
  let rise := !up && decide (low + 20 ≤ td)
  let k1 := { k with
    gov, calm, td, tb, bound := min 255 (idle * 256 / avail), periods := k.periods + 1
    wearCyc := if rise then k.wearCyc + 1 else k.wearCyc, tdLow := low, risen := up || rise
    wearHot := if 95 < td then k.wearHot + 1 else k.wearHot }
  ran s ((s.setStack stack k1).throttle stack (max gov s.ctl.floor))

/-- POWER_LIMIT_PERIOD: the average power of the last ms moves the floor of every stack's state (R472). -/
def execPowerLimitPeriod (watts : Nat) (s : State) : Host.Outcome State Fault Refusal :=
  let cool := if watts < 1500 then min 8 (s.ctl.cool + 1) else 0
  let floor := if 1600 < watts then min 6 (s.ctl.floor + 1) else if cool = 8 then s.ctl.floor - 1 else s.ctl.floor
  let s1 := s.onCtl fun c => { c with watts, cool, floor }
  let s2 := (List.range 8).foldl (fun s n => s.throttle n (max (s.stack n).gov floor)) s1
  ran s (if floor = s.ctl.floor then s2 else s2.logEvent 8 8 0 floor [])

end Sys2Proof.Machine
end

