-- ==== Sys2Proof/Machine/Travel.lean ====
section
/-!
DEFINITION. Travel mode: SPAWN and TLOC, packets and spill slots, departure, arrival and admission, the loading of a
holder, replication of a hot segment, and the forced save of a traveller (R401-R430).
-/
namespace Sys2Proof.Machine

/-! ## Packets (R413, R425) -/

/-- A word of a packet for a code address: 0 for 0, else its offset from the image base with bit 0 set. -/
def packLk (base : Nat) (lk : DWord) : Word :=
  if lk = 0 then 0 else BitVec.ofNat 32 (lk.toNat - base) ||| 1
def unpackLk (base : Nat) (x : Word) : DWord :=
  if x = 0 then 0 else lk57 (BitVec.ofNat 64 (base + (x &&& 0xFFFFFFFE).toNat))

/-- Predicates of lanes 0 to 3 as a word, p0 of lane i in bit 8 i. -/
def Group.predWord (g : Group) : Word :=
  BitVec.ofNat 32 (((List.range 4).flatMap fun l => (List.range 8).map fun k => if g.pr k l then 2 ^ (8 * l + k) else 0).sum)

/-- The packet of a traveller that leaves for an address (R412, R413). -/
def Group.packet (g : Group) (base segment : Nat) (t : DWord) : Packet :=
  let x := g.strand 0
  { launch := g.launch, id := (g.trav.map (·.id)).getD 0, target := t.toNat - base, segment, live := x.live, mode := x.mode
    prec := x.prec, pred := g.predWord, lk := packLk base x.lk, fn := g.sfufn
    hop := ((g.trav.map (·.hop)).getD 0 + 1) % 2 ^ 16
    scalars := (List.range 16).map g.sr
    loops := x.levels.map fun k => (k, (x.loop k).count, BitVec.ofNat 32 ((x.loop k).start.toNat - base), BitVec.ofNat 32 ((x.loop k).stop.toNat - base))
    regs := (liveRegs x.live).map fun r => (r, (List.range 4).map (g.vr r)) }

/-- The n bytes of a number. -/
def bytesOf (x n : Nat) : List Byte := (cellsLE 0 x n).map (·.2)

/-- A packet as its slot or the network carries it: the header of 32 bytes, then the rest. -/
def Packet.header (p : Packet) : List Byte :=
  bytesOf p.id 4 ++ bytesOf p.target 4 ++ bytesOf p.live.toNat 8 ++ bytesOf p.mode.toNat 3 ++ bytesOf p.prec.toNat 1 ++
  bytesOf p.pred.toNat 4 ++ bytesOf p.lk.toNat 4 ++ bytesOf (p.loops.map fun e => 2 ^ e.1).sum 1 ++ bytesOf p.fn.toNat 1 ++
  bytesOf p.hop 2
def Packet.bytes (p : Packet) : List Byte :=
  p.header ++ p.scalars.flatMap (fun x => bytesOf x.toNat 8) ++
  p.loops.flatMap (fun e => bytesOf e.2.1.toNat 4 ++ bytesOf e.2.2.1.toNat 4 ++ bytesOf e.2.2.2.toNat 4 ++ bytesOf 0 4) ++
  p.regs.flatMap fun e => e.2.flatMap fun w => bytesOf w.toNat 4

/-- The packet that bytes hold; `f o n` gives n bytes at offset o as a number. -/
def Packet.parse (p : Packet) (f : Nat → Nat → Nat) : Packet :=
  let live := BitVec.ofNat 64 (f 8 8)
  let levels := (List.range 3).filter fun k => decide (f 0x1C 1 / 2 ^ k % 2 = 1)
  let w (o : Nat) : Word := BitVec.ofNat 32 (f o 4)
  { p with
    id := f 0 4, target := f 4 4, live, mode := BitVec.ofNat 24 (f 0x10 3), prec := BitVec.ofNat 8 (f 0x13 1)
    pred := w 0x14, lk := w 0x18, fn := BitVec.ofNat 4 (f 0x1D 1), hop := f 0x1E 2
    scalars := (List.range 16).map fun i => BitVec.ofNat 64 (f (0x20 + 8 * i) 8)
    loops := levels.zipIdx.map fun e => (e.1, w (0xA0 + 16 * e.2), w (0xA4 + 16 * e.2), w (0xA8 + 16 * e.2))
    regs := (liveRegs live).zipIdx.map fun e =>
      (e.1, (List.range 4).map fun l => w (0xA0 + 16 * levels.length + 16 * e.2 + 4 * l)) }

/-! ## Spill slots (R410, R415, R425) -/

/-- A traveller's spill slot. -/
def Launch.slotVa (l : Launch) (id : Nat) : Nat := l.lrec.pool + 4096 * id

/-- Stops a launch for a save, a restore or a load of a team's that cannot be performed; a traveller's stands under team 0
(R367, R372, R373). -/
def State.stopSave (s : State) (launch team core : Nat) (e : Byte × Byte × Nat) : State :=
  s.stopLaunch launch { kind := 3, cause := e.1, detail := e.2.1.zeroExtend 16, team, core, tinfo := tinfoOf { cause := e.1, detail := e.2.1 },
                        taddr := BitVec.ofNat 64 e.2.2 }

/-- Writes bytes to the start of a traveller's spill slot from a core; a fault stops the launch. -/
def State.writeSlot (s : State) (core launch id : Nat) (bs : List Byte) : State :=
  let l := s.launch launch
  match s.rangeTrap core l.lrec.asid (l.slotVa id) 4096 .write false with
  | some e => s.stopSave launch 0 core e
  | none => (s.keepRange core l.lrec.asid (l.slotVa id) 4096).writeRange core l.lrec.asid (l.slotVa id) bs none

/-- How much of its slot a spilled traveller's state takes: a packet's part, or the whole slot of a saved context (R410,
R425). -/
def Packet.slotBytes (p : Packet) : Nat := if p.whole.isSome then 4096 else 1184

/-- Reads a spilled packet back from its slot; a whole context comes as it was saved. -/
def State.readSlot (s : State) (core : Nat) (p : Packet) : Except (Byte × Byte × Nat) Packet :=
  let l := s.launch p.launch
  match s.rangeTrap core l.lrec.asid (l.slotVa p.id) p.slotBytes .read false with
  | some e => .error e
  | none => if p.whole.isSome then .ok p
    else .ok (p.parse fun o n => s.readVa core l.lrec.asid (l.slotVa p.id + o) n)

/-! ## The choice of a holder (R405, R414) -/

/-- A segment's entry as a core, or the dispatcher itself, reads it. -/
def State.entryFor (s : State) (sender : Option Nat) (l : Launch) (i : Nat) : Nat :=
  match sender with
  | some c => s.segEntry c l i
  | none => s.devN l.lrec.asid (l.lrec.segmap + 0x40 + 8 * i) 8

/-- The holder a packet goes to: the lowest occupancy last heard, ties by the traveller's hash. -/
def chooseHolder (entry : Nat) (heard : Nat → Nat) (id : Nat) : Option Nat :=
  let hs := (holdersOf entry).map (·.2)
  let tied := hs.filter fun c => hs.all fun d => decide (heard c ≤ heard d)
  tied[id * 0x9E3779B1 % 2 ^ 32 / 2 ^ 30 % tied.length]?

/-- Sends a packet to a holder of its segment. One whose segment has no holder stays in its spill slot. -/
def State.sendPacket (s : State) (sender : Option Nat) (p : Packet) : State :=
  let heard (c : Nat) : Nat := match sender with | some k => tget 0 (s.core k).heard c | none => 0
  match chooseHolder (s.entryFor sender (s.launch p.launch) p.segment) heard p.id with
  | some c => { s with packets := s.packets ++ [{ p with core := c, sender }] }
  | none => s.onLaunch p.launch fun l => { l with spilled := l.spilled ++ [p] }

/-! ## Whole effects shared with forced saves (R216, R387, R400) -/

/-- A release at package scope by a group, whole: signatures cleared, the buffer drained, every core told. -/
def State.releaseWhole (s : State) (gk : Nat) : State :=
  let g := s.grp gk
  let s := (s.onGrp gk fun g => { g with wsig1 := 0, wsig2 := 0, wsig3 := 0 }).drainWcb g.core
  (List.range 128).foldl (fun s c => s.deliver (.signature c g.wsig3)) s

/-- The group's copies and matrix operations are complete. -/
def State.enginesDone (s : State) (gk : Nat) : Bool :=
  (s.core (s.grp gk).core).copies.all (·.group != gk) && (s.core (s.grp gk).core).mats.all (·.group != gk)

/-- Every access that the group has issued is performed, those that left the package too: what a release of the whole group
waits for first (R387, R400). -/
def State.allPerformed (s : State) (gk : Nat) : Bool :=
  s.loads.all (·.group != gk) && s.remotes.all (·.group != gk)

/-- The group stands at an instruction boundary: nothing it issued is outstanding (R216). -/
def State.settled (s : State) (gk : Nat) : Bool :=
  s.enginesDone gk && s.allPerformed gk && s.msgs.all (·.group != gk) && (s.grp gk).strands.all (·.begun.isNone)

/-- A copy or MMAR still reads the allocation at a base of a core (R267, R290). -/
def State.allocRead (s : State) (core base size : Nat) : Bool :=
  decide (size ≠ 0) && s.cores.any fun c =>
    (c.2.copies.any fun x => match x.src with | .loc k _ b _ _ => k == core && b == base | .glob _ => false) ||
    c.2.mats.any fun m => m.kind == .mma && ((m.aCore == core && m.aBase == base) || (m.bCore == core && m.bBase == base))

def State.dropGroup (s : State) (gk : Nat) : State := { s with groups := tdel s.groups gk }

/-- A drain of a travel launch has ended: every live traveller is in its spill slot (R424); of another launch: no team
of it is resident (R370). -/
def State.drainCheck (s : State) (launch : Nat) : State :=
  let l := s.launch launch
  let quiet := s.groups.all (fun e => e.2.launch != launch || !e.2.live) && s.teams.all (fun e => e.2.launch != launch) &&
    s.packets.all (fun p => p.launch != launch) && l.spawns.isEmpty &&
    s.cores.all fun c => match c.2.holder with | some h => h.launch != launch | none => true
  if l.draining && l.lst == 1 && l.stop.isNone && quiet then
    let s := s.onLaunch launch fun l => { l with lst := 2 }
    if s.ctl.lstateId.toNat = launch then s.onCtl fun c => { c with lstate := 2 } else s
  else s

/-- Takes a traveller into its spill slot with its whole context (R425). An SRCFG of it that waits for its turn gives up its place, as a
saved team's does (R329). -/
def State.saveTraveller (s : State) (gk : Nat) : Packet × State :=
  let s := s.releaseWhole gk
  let g := s.grp gk
  let l := s.launch g.launch
  let x := g.strand 0
  let base := s.segBase g.core l
  let here := match (s.core g.core).holder with | some h => h.segment | none => 0
  let p : Packet := { g.packet base ((s.segmentOf g.core l x.pc).getD here) x.pc with
    hop := (g.trav.map (·.hop)).getD 0, whole := some { g with saving := false }, key := gk }
  (p, ((s.writeSlot g.core g.launch p.id p.header).mapStacks (·.dropReparts [gk])).dropGroup gk)

/-! ## Admission (R408, R416, R417) -/

/-- Strand slots of a partition taken by travellers. -/
def State.slotsTaken (s : State) (core part : Nat) : List Nat :=
  s.groups.filterMap fun e => if e.2.core == core && e.2.part == part && e.2.live then e.2.trav.map (·.slot) else none

/-- Strand slots of a partition where no traveller stands. -/
def State.slotsFree (s : State) (core part : Nat) : List Nat := (List.range 32).filter fun k => !(s.slotsTaken core part).contains k

/-- The partition with the most free strand slots, the lower of a tie, with its lowest free slot. -/
def State.freeSlot (s : State) (core : Nat) : Option (Nat × Nat) :=
  let best := (List.range 4).foldl (fun (a : Option (Nat × Nat)) p =>
    let n := (s.slotsFree core p).length
    match a with
    | none => if n = 0 then none else some (p, n)
    | some (q, m) => if m < n then some (p, n) else some (q, m)) none
  best.bind fun b => (s.slotsFree core b.1).head?.map fun k => (b.1, k)

/-- The state a packet gives its traveller (R417). -/
def Packet.group (p : Packet) (l : Launch) (base core part slot : Nat) (now : Nat × Nat) : Group :=
  let seq : Word := l.lrec.seq.setWidth 32
  let addr (x : Word) : DWord := BitVec.ofNat 64 (base + x.toNat)
  let loops := p.loops.foldl (fun (t : Table LoopLevel) e =>
    tput {} t e.1 { count := e.2.1, start := addr e.2.2.1, stop := addr e.2.2.2 }) []
  let x : Strand := {
    pc := BitVec.ofNat 64 (base + p.target), mode := p.mode, prec := p.prec, live := p.live, lk := unpackLk base p.lk
    loops, readyAt := now }
  let g : Group := {
    core, part, slot, launch := p.launch, width := 4, held := l.lrec.base, strands := [x], sfufn := p.fn
    srg := (List.range 4).map fun i => (i, srgSeed seq p.id (p.hop * 4 + i))
    trav := some { id := p.id, hop := p.hop, slot } }
  let g := (p.scalars.zipIdx).foldl (fun (g : Group) e => g.putS e.2 e.1) g
  let g := (p.regs.filter fun e => decide (e.1 < l.lrec.base)).foldl (fun (g : Group) e =>
    e.2.zipIdx.foldl (fun (g : Group) w => g.putV e.1 w.2 w.1) g) g
  (List.range 4).foldl (fun (g : Group) ln => (List.range 8).foldl (fun (g : Group) k =>
    g.putP k ln (p.pred.getLsbD (8 * ln + k))) g) g

/-- The holder takes a traveller into a slot, after a system-scope acquire (R400, R417, R425). -/
def State.takeIn (s : State) (core part slot : Nat) (p : Packet) : State :=
  let s := s.acquireOn core 4
  let l := s.launch p.launch
  let now := s.nowAt core part
  let (gk, s) := if p.key = 0 then s.newKey else (p.key, s)
  let g : Group := match p.whole with
    | some g => { g with
        core, part, slot, trav := g.trav.map (fun t => { t with slot := slot })
        strands := g.strands.map (fun (x : Strand) => { x with readyAt := now }) }
    | none => p.group l (s.segBase core l) core part slot now
  s.setGrp gk { g with lastIssue := (s.core core).cycle.toNat }

/-- An arrival as its holder passes it on: one that was noticed is read back from its slot first (R416, R422). -/
def State.passOn (s : State) (core : Nat) (e : Bool × Packet) : State :=
  if e.1 then
    match s.readSlot core e.2 with
    | .ok p => s.sendPacket (some core) p
    | .error f => s.stopSave e.2.launch 0 core f
  else s.sendPacket (some core) e.2

/-- A holder admits the first arrival of its order, where a strand slot is free (R416). One for another segment is
forwarded (R423). -/
def State.admitTraveller (s : State) (core : Nat) : State :=
  match (s.core core).holder, s.freeSlot core with
  | some h, some (part, slot) =>
    match h.arrivals with
    | (spilt, p) :: rest =>
      if !h.loaded || !h.admitting || (s.launch h.launch).stop.isSome then s
      else
        let s1 := s.onCore core fun c => { c with holder := some { h with arrivals := rest } }
        if p.segment ≠ h.segment then
          (s1.onCore core fun c => { c with holder := c.holder.map fun h => { h with forwarded := h.forwarded + 1 } }).passOn core (spilt, p)
        else if spilt then
          match s1.readSlot core p with
          | .ok p => s1.takeIn core part slot p
          | .error e => s1.stopSave h.launch 0 core e
        else s1.takeIn core part slot p
    | [] => s
  | _, _ => s

/-- TRAVELLER_ADMISSION. -/
def execTravellerAdmission (core : Nat) (s : State) : Host.Outcome State Fault Refusal := ran s (s.admitTraveller core)

/-! ## Departure and arrival (R412, R415) -/

/-- The last steps of a departure: the release, the packet, and the freed slot. A register that the packet carries and that an
error has struck since the departure began raises 0x3F here (R462, log 114). -/
def State.depart (s : State) (gk : Nat) (t : DWord) : State :=
  if (s.grp gk).packBad then s.takeTrap gk [0] { cause := 0x3F } false
  else
    let s := s.releaseWhole gk
    let g := s.grp gk
    let l := s.launch g.launch
    let p := { g.packet (s.segBase g.core l) ((s.segmentOf g.core l t).getD 0) t with key := gk }
    (s.dropGroup gk).sendPacket (some g.core) p

/-- TRAVELLER_DEPARTURE, once the traveller's copies and matrix operations are complete and what its release waits for is
performed. -/
def execTravellerDeparture (group : Nat) (s : State) : Host.Outcome State Fault Refusal :=
  ran s <| match tfind s.groups group with
    | none => s
    | some g => match g.trav.bind (·.leaving) with
      | none => s
      | some t => if s.enginesDone group && s.allPerformed group && (s.launch g.launch).stop.isNone then s.depart group t else s

/-- The acknowledgement of a packet tells its sender the holder's occupancy (R414). -/
def State.acknowledge (s : State) (p : Packet) (occupancy : Nat) : State :=
  match p.sender with
  | some k => s.onCore k fun x => { x with heard := tput 0 x.heard p.core occupancy }
  | none => s

/-- A packet of a launch that drains, at a core that no longer holds it, goes to its spill slot (R424). -/
def State.slotPacket (s : State) (p : Packet) : State :=
  let s := s.onLaunch p.launch fun l => { l with spilled := l.spilled ++ [p] }
  (if p.whole.isNone then s.writeSlot p.core p.launch p.id p.bytes else s).drainCheck p.launch

/-- PACKET_ARRIVAL: into the queue, into the spill slot with a notice, or on to another holder; each way its sender hears the
occupancy. A packet whose core has not been loaded for the launch is still under way, unless the launch drains. -/
def execPacketArrival (idx : Nat) (s : State) : Host.Outcome State Fault Refusal :=
  ran s <| match s.packets[idx]? with
    | none => s
    | some p =>
      let c := p.core
      let gone := { s with packets := ldel s.packets idx }
      match (s.core c).holder.filter fun h => h.launch == p.launch with
      | none => if (s.launch p.launch).draining then gone.slotPacket p else s
      | some h =>
        if h.segment ≠ p.segment then
          ((gone.onCore c fun x => { x with holder := some { h with forwarded := h.forwarded + 1 } }).acknowledge p h.occupancy).sendPacket (some c) p
        else if !h.loaded then s
        else
          let spill := p.whole.isNone && decide (64 ≤ h.occupancy)
          let h1 := { h with
            arrivals := h.arrivals ++ [(spill || p.whole.isSome, p)], arrivedNow := h.arrivedNow + 1
            spilled := if spill then h.spilled + 1 else h.spilled }
          let s1 := (gone.onCore c fun x => { x with holder := some h1 }).acknowledge p h1.occupancy
          if spill then s1.writeSlot c p.launch p.id p.bytes else s1

/-- OCCUPANCY_REPORT: every core hears a holder's occupancy; what R422 counts over the last 100 reports moves on. -/
def execOccupancyReport (core : Nat) (s : State) : Host.Outcome State Fault Refusal :=
  ran s <| match (s.core core).holder with
    | none => s
    | some h =>
      let n := h.occupancy
      let h1 := { h with
        hot := if 48 < n then h.hot + 1 else 0
        recent := (h.recent ++ [h.arrivedNow]).drop (h.recent.length + 1 - 100), arrivedNow := 0 }
      (List.range 128).foldl (fun s c => s.onCore c fun x => { x with heard := tput 0 x.heard core n })
        (s.onCore core fun x => { x with holder := some h1 })

/-! ## Places for an allocation (R182, R224, R225, R255, R464, R465) -/

/-- The resident allocations of a core's local memory. -/
def State.resident (s : State) (core : Nat) : List (Nat × Nat) :=
  (s.teams.filterMap fun t => if t.2.core == core && t.2.size != 0 then some (t.2.base, t.2.size) else none) ++
  (match (s.core core).holder with | some h => if h.size = 0 then [] else [(h.base, h.size)] | none => [])

/-- Banks and partitions of a core in which nothing new is placed: those whose retirement is still to take effect too
(R464, log 99). -/
def Core.shutBanks (c : Core) : List Nat := c.banksOut ++ c.banksDue
def Core.shutParts (c : Core) : List Nat := c.partsOut ++ c.partsDue

/-- Extents of a core's local memory that no allocation may take: resident ones and retired banks. -/
def State.extents (s : State) (core : Nat) : List (Nat × Nat) :=
  s.resident core ++ (s.core core).shutBanks.map fun b => (b * 65536, 65536)

/-- The lowest offset where n bytes below 448 KiB are free and leave the L1 a bank. -/
def State.placeBytes (s : State) (core n : Nat) : Option Nat :=
  let ext := s.extents core
  if n = 0 then some 0
  else
    let fits (a : Nat) : Bool := decide (a + n ≤ 458752) && ext.all (fun e => decide (a + n ≤ e.1 ∨ e.1 + e.2 ≤ a)) &&
      (List.range 8).any fun b => decide (max (s.splitBanks core) ((a + n + 65535) / 65536) ≤ b) && !(s.core core).shutBanks.contains b
    (0 :: ext.map fun e => e.1 + e.2).foldl (fun best a =>
      if fits a then (match best with | some b => some (min a b) | none => some a) else best) none

/-- Runs of accumulator rows held on a core. -/
def State.rowsHeld (s : State) (core : Nat) : List (Nat × Nat) :=
  (s.teams.filterMap fun t =>
    if t.2.core == core then some (t.2.accFirst, t.2.accRows)
    else if t.2.pair && t.2.core + 1 == core then some (t.2.accFirstUp, t.2.accRows) else none) ++
  (match (s.core core).holder with | some h => [(h.accFirst, h.accRows)] | none => [])

/-- The lowest run of q free rows that starts at a multiple of 16. -/
def State.placeRows (s : State) (core q : Nat) : Option Nat :=
  if q = 0 then some 0
  else ((List.range 16).map (16 * ·)).find? fun f =>
    decide (f + q ≤ 256) && (s.rowsHeld core).all fun e => decide (e.2 = 0 ∨ f + q ≤ e.1 ∨ e.1 + e.2 ≤ f)

/-- The lowest free team slot of a core. -/
def State.placeSlot (s : State) (core : Nat) : Option Nat :=
  let held := (s.teams.filterMap fun t =>
      if t.2.core == core then some t.2.slot else if t.2.pair && t.2.core + 1 == core then some t.2.slotUp else none) ++
    (match (s.core core).holder with | some h => [h.slot] | none => [])
  (List.range 64).find? fun k => !held.contains k

/-- Group slots of a partition in use, those of a holder's carrier groups among them (R181, R408). -/
def State.groupSlots (s : State) (core part : Nat) : List Nat :=
  (match (s.core core).holder with | some h => h.carriers.getD part [] | none => []) ++
  s.groups.filterMap fun e => if e.2.core == core && e.2.part == part && e.2.trav.isNone then some e.2.slot else none

/-- A restore or a claim waits in a partition (R184). -/
def State.partWaits (s : State) (core part : Nat) : Bool :=
  (s.core core).claims.any (·.part == part) ||
    s.groups.any fun e => e.2.core == core && e.2.part == part && e.2.restoring

/-- Zeroes a run of accumulator rows. -/
def Core.zeroRows (c : Core) (f q : Nat) : Core :=
  { c with acc := c.acc.filter fun e => !(decide (f ≤ e.1 / 256 ∧ e.1 / 256 < f + q)) }

/-- Shrinks a core's L1 to its size: the oldest lines go, their buffered stores drained first (R225). -/
def State.shrinkL1 (s : State) (core : Nat) : State :=
  let order := (s.core core).l1order
  let gone := order.take (order.length - s.l1Size core * 512)
  let s := gone.foldl (fun s l => s.drainLine core l) s
  s.onCore core fun c => c.dropL1 gone.contains

/-- A core's retirements take effect once no resident allocation touches the bank, and no group stands in the partition; the
L1 gives up the bank (R464, R465). -/
def State.retireDue (s : State) (core : Nat) : State :=
  let c := s.core core
  if c.banksDue.isEmpty && c.partsDue.isEmpty then s
  else
    let held (b : Nat) : Bool := (s.resident core).any fun e => decide (e.1 < (b + 1) * 65536 ∧ b * 65536 < e.1 + e.2)
    let used (p : Nat) : Bool := c.holder.isSome || s.groups.any fun e => e.2.core == core && e.2.part == p
    (s.onCore core fun c => { c with
      banksOut := c.banksOut ++ c.banksDue.filter fun b => !held b
      banksDue := c.banksDue.filter held
      partsOut := c.partsOut ++ c.partsDue.filter fun p => !used p
      partsDue := c.partsDue.filter used }).shrinkL1 core

/-- What waits for something resident to leave a core takes effect, on every core. -/
def State.retireAll (s : State) : State := s.cores.foldl (fun s c => s.retireDue c.1) s

/-! ## Loading a holder (R406, R407, R426) -/

/-- Scratchpad bytes of a launch's teams, rounded to 128 (R225), and its accumulator rows (R255). -/
def Launch.bytes (l : Launch) : Nat := (l.lrec.scratch + 127) / 128 * 128
def Launch.rows (l : Launch) : Nat := 16 * l.lrec.accRows

/-- A core's slot in the save area of a travel launch: its address and size (R424). -/
def Launch.holderSlot (l : Launch) (core : Nat) : Nat × Nat :=
  let size := (4096 + l.bytes + 1024 * l.rows + 4095) / 4096 * 4096
  (l.lrec.save + core * size, size)

/-- Poisoned blocks of n bytes of a core's local memory from a base on, by their distance from it (R461). -/
def Core.poisonIn (c : Core) (base n : Nat) : List Nat :=
  (c.memPoison.filter fun b => decide (base ≤ 128 * b ∧ 128 * b < base + n)).map (· - base / 128)

/-- Key tags of the blocks of n bytes of a core's local memory from a base on, by their distance from it (R458). -/
def Core.keysIn (c : Core) (base n : Nat) : Table Nat :=
  (c.memKey.filter fun e => decide (base ≤ 128 * e.1 ∧ 128 * e.1 < base + n)).map fun e => (e.1 - base / 128, e.2)

/-- The bytes of an allocation with their poison and key tags become what was saved of it, and nothing else stays there (R215,
R424, R458, R461). -/
def Core.refill (c : Core) (base n : Nat) (bytes : Table Byte) (poison : List Nat) (keys : Table Nat) : Core :=
  { c with
    memKey := keys.foldl (fun t e => tset t (base / 128 + e.1) e.2)
      (c.memKey.filter fun e => !(decide (base ≤ 128 * e.1 ∧ 128 * e.1 < base + n)))
    mem := bytes.foldl (fun m e => tput 0 m (base + e.1) e.2) (c.mem.filter fun e => !(decide (base ≤ e.1 ∧ e.1 < base + n)))
    memPoison := (c.memPoison.filter fun b => !(decide (base ≤ 128 * b ∧ 128 * b < base + n))) ++ poison.map (base / 128 + ·) }

/-- The bytes of a piece that lies outside the package, as the device's own read finds them (log 21). -/
def State.outBytes (s : State) (core asid : Nat) (p : Nat × Nat × Nat) : List Byte :=
  (List.range p.2.2).map fun i => s.peek (s.paOf core asid p.1 + i)

/-- The first failure of a range behind a window (R442, R450). -/
def State.rangeDown (s : State) (core asid va n : Nat) : Option (Byte × Byte × Nat) :=
  (pieces va n 128).findSome? fun p => (s.outFail (s.paOf core asid p.1)).map fun e => (e.1, e.2, p.1)

/-- The lines of memory, queued writes and encrypted ones among them, that hold something in the n lines from a line on: every other
one reads as zero where no key is used. -/
def State.usedLines (s : State) (line n : Nat) : List Nat :=
  let queued := (s.stackTab.flatMap fun k => k.2.queue.flatMap fun q => q.2.map (·.line)) ++ s.edge.flatMap fun q => q.2.map (·.line)
  let used := ((s.mem ++ s.bus).filterMap fun c => if line ≤ c.1 / 128 ∧ c.1 / 128 < line + n then some (c.1 / 128) else none) ++
    queued ++ s.sealed.map (·.1)
  ((List.range n).map (line + ·)).filter used.contains

/-- A segment of a launch as a core pins it: its page's check and its 512 lines as they stand (R97, R403, R407, log 11). A segment lies
in one page, both being aligned to 64 KiB. -/
def State.segmentCode (s : State) (core launch segment : Nat) : Pinned :=
  let l := s.launch launch
  let va := s.segBase core l + 65536 * segment
  let line := s.paOf core l.lrec.asid va / 128
  let key := s.keyOf core l.lrec.asid va
  let at_ := if key.isSome then (List.range 512).map (line + ·) else s.usedLines line 512
  { fault := s.pageCheck core l.lrec.asid va .fetch true
    lost := (List.range 512).filterMap fun i => (s.outFail ((line + i) * 128)).map fun e => (i, e)
    lines := at_.filterMap fun n => let x := s.lineUnder n key; if x = 0 then none else some (n - line, x) }

/-- Fills a holder's resident allocation: from what the core saved for the segment, else from the resident entry, the
rest zero. A fault of the copy, or of the save area's slot, stops the launch (R372, R407, R426). -/
def State.fillResident (s : State) (core : Nat) (h : Holder) : State :=
  let l := s.launch h.launch
  let asid := l.lrec.asid
  let s := s.onCore core fun c => (c.zeroRows h.accFirst h.accRows).refill h.base h.size [] [] []
  match l.savedHolders.find? fun v => v.core == core && v.segment == h.segment with
  | some v =>
    let (at_, size) := l.holderSlot core
    match s.rangeTrap core asid at_ size .read false with
    | some e => s.stopSave h.launch 0 core e
    | none =>
      (s.onCore core fun c => { (c.refill h.base h.size v.bytes v.poison v.keys) with
        acc := v.acc.foldl (fun m e => tput 0 m (256 * h.accFirst + e.1) e.2) c.acc }).onLaunch h.launch fun l =>
          { l with savedHolders := l.savedHolders.filter fun v => v.core != core }
  | none =>
    let tab := s.readVa core asid (l.lrec.segmap + 0x10) 8
    if tab = 0 then s
    else
      let src := s.readVa core asid (tab + 16 * h.segment) 8
      let n := s.readVa core asid (tab + 16 * h.segment + 8) 4
      let fault := (((s.rangeTrap core asid (tab + 16 * h.segment) 16 .read false).or (s.rangeTrap core asid src n .read false)).or
        (s.rangeDown core asid src n)).or ((s.rangePoison core asid src n).map fun a => (0x3F, 0, a))
      match fault with
      | some e => s.stopSave h.launch 0 core e
      | none =>
        let (bs, s) := (s.keepRange core asid src n).readRange core asid src n none (s.outBytes core asid)
        let key (i : Nat) : Option Nat := s.keyOf core asid ((src + i) % 2 ^ 64)
        (s.locWrite core (bs.zipIdx.map fun e => (h.base + e.2, e.1))).onCore core fun c => c.tagBlocks h.base bs.length key

/-- The segment that a launch's map gives a core, if any. -/
def State.segmentFor (s : State) (core : Nat) (l : Launch) : Option Nat :=
  (List.range (s.segCount core l)).find? fun i => ((holdersOf (s.segEntry core l i)).map (·.2)).contains core

/-- SEGMENT_LOAD: the core becomes a holder of the first launch whose map names it, once it can supply everything; its carrier
groups take the lowest free group slots (log 85). -/
def execSegmentLoad (core : Nat) (s : State) : Host.Outcome State Fault Refusal :=
  let want := s.launches.findSome? fun e =>
    if e.2.travel && e.2.stop.isNone && !e.2.finished && !e.2.draining then (s.segmentFor core e.2).map fun i => (e.1, i) else none
  ran s <| if (s.core core).holder.isSome || (s.core core).shutBanks.length ≥ 2 || (s.core core).shutParts != [] then s
    else match want with
    | none => s
    | some (id, i) =>
      let l := s.launch id
      let units := 8 * (l.lrec.base / 16)
      let roomy := (List.range 4).all fun p =>
        decide (units ≤ s.freeUnits core p ∧ (s.groupSlots core p).length ≤ 8) && !s.partWaits core p
      match s.placeSlot core, s.placeBytes core l.bytes, s.placeRows core l.rows with
      | some slot, some base, some f =>
        if roomy then
          let h : Holder := { launch := id, segment := i, slot, base, size := l.bytes, accFirst := f, accRows := l.rows,
                              carriers := (List.range 4).map fun p =>
                                ((List.range 16).filter fun k => !(s.groupSlots core p).contains k).take 8
                              loaded := true, lastBusy := (s.core core).cycle.toNat }
          ((s.onCore core fun c => { c with holder := some { h with code := s.segmentCode core id i } }).shrinkL1 core).fillResident core h
        else s
      | _, _, _ => s

/-! ## Replication of a hot segment (R422) -/

/-- Stores a segment's entry, as the dispatcher does. The manual does not say what such a store does where the map's page may not
be written or is not mapped: it is made without a check (DESIGN CHOICE, unsafe, log 109). -/
def State.storeEntry (s : State) (l : Launch) (i x : Nat) : State :=
  let va := l.lrec.segmap + 0x40 + 8 * i
  s.devWrites (cellsLE (s.devPa l.lrec.asid va) x 8) ((s.devXlate l.lrec.asid va).key va)

/-- The donor: a holder of another segment with two holders or more that is not fixed, with the fewest arrivals of
late, the lower core of a tie; with its segment and field. -/
def State.donor (s : State) (l : Launch) (h : Nat) : Option (Nat × Nat × Nat) :=
  let n := s.devN l.lrec.asid (l.lrec.segmap + 8) 4
  let all := (List.range n).flatMap fun g =>
    let e := s.entryFor none l g
    if g = h ∨ e / 2 ^ 32 % 2 = 1 ∨ (holdersOf e).length < 2 then [] else (holdersOf e).map fun x => (x.2, g, x.1)
  let load (c : Nat) : Nat := match (s.core c).holder with | some x => x.recent.sum | none => 0
  all.foldl (fun best x => match best with
    | none => some x
    | some b => if load x.1 < load b.1 ∨ (load x.1 = load b.1 ∧ x.1 < b.1) then some x else some b) none

/-- The lowest field of an entry without a holder. -/
def freeField (e : Nat) : Option Nat := (List.range 4).find? fun f => decide (e / 2 ^ (8 * f) % 256 < 128)

/-- An entry with a field cleared. -/
def clearField (e f : Nat) : Nat := e - e / 2 ^ (8 * f) % 256 * 2 ^ (8 * f)

/-- SEGMENT_REPLICATION. It happens only where its conditions hold and the donor's residents have nothing outstanding. The
manual does not say whether the arrivals of the residents that are force-saved count in the donor's TRVFWD: they do, with the
queued and the noticed ones (DESIGN CHOICE, unsafe, log 108). -/
def execSegmentReplication (launch segment : Nat) (s : State) : Host.Outcome State Fault Refusal :=
  let l := s.launch launch
  let e := s.entryFor none l segment
  let hot := (holdersOf e).any fun x => match (s.core x.2).holder with
    | some y => y.launch == launch && y.segment == segment && decide (100 ≤ y.hot) | none => false
  ran s <| if !(tfind s.launches launch).isSome || l.stop.isSome || l.lst == 2 || !hot || e / 2 ^ 32 % 2 == 1 then s
    else match freeField e, s.donor l segment with
    | some f, some (c, g, gf) =>
      match (s.core c).holder with
      | none => s
      | some old =>
        let here := (s.groups.filter fun x => x.2.core == c && x.2.trav.isSome && x.2.live).map (·.1)
        if old.launch ≠ launch ∨ old.segment ≠ g ∨ !here.all s.settled ∨ s.allocRead c old.base old.size then s
        else
          let s1 := s.storeEntry l g (clearField (s.entryFor none l g) gf)
          let s2 := here.foldl (fun s k => match (s.grp k).trav.bind (·.leaving) with
            | some t => s.depart k t
            | none => let (p, s) := s.saveTraveller k; s.sendPacket (some c) p) s1
          let s3 := old.arrivals.foldl (fun s e => s.passOn c e) s2
          let kept := (here.filter fun k => ((s.grp k).trav.bind (·.leaving)).isNone).length + old.arrivals.length
          let new : Holder := { old with
            segment, code := s3.segmentCode c launch segment, arrivals := [], hot := 0, recent := [], arrivedNow := 0, forwarded := old.forwarded + BitVec.ofNat 64 kept }
          let s4 := (s3.onCore c fun x => { x with holder := some new }).fillResident c new
          s4.storeEntry l segment (e - e / 2 ^ (8 * f) % 256 * 2 ^ (8 * f) + (128 + c) * 2 ^ (8 * f))
    | _, _ => s

/-! ## The forward-progress swap of a holder (R427) -/

/-- The resident traveller whose latest issue is the earliest, the lowest id of a tie (R427). One whose departure is under way, which
holds its slot until step 6 of R412, is not chosen (DESIGN CHOICE, unsafe, log 119). -/
def State.idlest (s : State) (core : Nat) : Option Nat :=
  let id (k : Nat) : Nat := (((s.grp k).trav).map (·.id)).getD 0
  ((s.groups.filter fun e => e.2.core == core && e.2.live && (match e.2.trav with | some t => t.leaving.isNone | none => false)).map
    (·.1)).foldl (fun best k => match best with
    | none => some k
    | some b =>
      let x := (s.grp k).lastIssue
      let y := (s.grp b).lastIssue
      if x < y ∨ (x = y ∧ id k < id b) then some k else some b) none

/-- N of a launch: 0 means 2^20. -/
def Launch.patience (l : Launch) : Nat := if l.lrec.progress = 0 then 2 ^ 20 else l.lrec.progress

/-- Time passes on a core in which no set is ready: n cycles without an issue. -/
def State.letPass (s : State) (core n : Nat) : State :=
  if (List.range 4).all fun p => (s.wake core p).readySets core p == [] then
    s.onCore core fun c => { c with cycle := c.cycle + BitVec.ofNat 64 n, idle := c.idle + n }
  else s

/-- TRAVELLER_PROGRESS_SWAP: one traveller goes to the tail of the order, and the first arrival takes its slot, once for each
time the count is reached (log 40). -/
def execTravellerProgressSwap (core : Nat) (s : State) : Host.Outcome State Fault Refusal :=
  ran s <| match (s.core core).holder with
    | none => s
    | some h =>
      let n := (s.launch h.launch).patience
      let s := s.letPass core (n - ((s.core core).cycle.toNat - h.lastBusy))
      let due := decide (n ≤ (s.core core).cycle.toNat - h.lastBusy)
      if !due || h.swapped || h.arrivals.isEmpty || (s.freeSlot core).isSome || !h.admitting then s
      else match s.idlest core with
      | none => s
      | some k =>
        if !s.settled k then s
        else
          let (p, s1) := s.saveTraveller k
          (s1.onCore core fun c => { c with holder := c.holder.map fun h =>
            { h with arrivals := h.arrivals ++ [(true, p)], swapped := true } }).admitTraveller core

/-! ## SPAWN and TLOC (R410, R420, R421) -/

/-- Ids not alive, reserved requests taken off. -/
def Launch.freeIds (l : Launch) : Nat := l.lrec.budget - l.aliveNow

/-- The packet of a new traveller, its id still to come. -/
def State.spawnPacket (s : State) (d nv segment : Nat) (t : DWord) : Packet :=
  let g := s.g
  let x := s.lead
  { launch := g.launch, target := t.toNat - s.segBase g.core s.lau, segment, live := BitVec.ofNat 64 (2 ^ nv - 1)
    mode := x.mode, prec := x.prec, pred := 0x01010101, scalars := (List.range 16).map g.sr, core := g.core
    regs := (List.range nv).map fun r => (r, (List.range 4).map (g.vr (d + r))) }

/-- SPAWN. R420 names TINFO alone for its traps: TADDR of 0x20 holds t, as for the departures of R411, and that of 0x21 and 0x22
is 0, as R211 has it for what is not named (DESIGN CHOICE, unsafe, log 107). -/
def execSpawn (d a b : Reg) (s : State) : Host.Outcome State Fault Refusal :=
  let c := s.rdS b
  let nv := c.toNat % 128
  let t := s.rdS a
  let g := s.g
  let di := regIdx d
  let notV := match d with | .v _ => false | _ => true
  let detail (cause n : Byte) : State := s.trap { cause, taddr := t, detail := n }
  ran s <| if !s.lau.travel || notV || s.badS a || s.badS b then s.trap { cause := 0x03 }
    else if 2 ^ 7 ≤ c.toNat ∨ 64 < nv then s.trap { cause := 0x22, detail := 6 }
    else if 0 < nv ∧ 175 < di + nv - 1 then s.trap { cause := 0x03 }
    else if g.held < di + nv then s.trap { cause := 0x04 }
    else match s.checkTarget g t true with
    | some e => s.trap e
    | none => match s.segmentOf g.core s.lau t with
      | none => detail 0x20 1
      | some i =>
        if (holdersOf (s.segEntry g.core s.lau i)).isEmpty then detail 0x20 2
        else if s.lau.freeIds < s.ks.length then s.trap { cause := 0x21 }
        else
          let req : SpawnReq := { launch := g.launch, packets := s.ks.map fun _ => s.spawnPacket di nv i t }
          s.done (s.onLaunch g.launch fun l => { l with spawns := l.spawns ++ [req] }) 1

/-- SPAWN_ALLOCATE: the oldest request takes the lowest free ids and its packets leave. -/
def execSpawnAllocate (launch : Nat) (s : State) : Host.Outcome State Fault Refusal :=
  ran s <| match (s.launch launch).spawns with
    | [] => s
    | req :: rest =>
      if (s.launch launch).stop.isSome then s
      else req.packets.foldl (fun s p =>
        let l := s.launch launch
        match (List.range (l.alive.length + 1)).find? fun i => !l.alive.contains i with
        | some id =>
          (s.onLaunch launch fun l => { l with alive := l.alive ++ [id] }).sendPacket (some p.core) { p with id }
        | none => s) (s.onLaunch launch fun l => { l with spawns := rest })

/-- TLOC. -/
def State.tloc (s : State) : Nat :=
  let g := s.g
  match g.trav with
  | some t =>
    let seg := match (s.core g.core).holder with | some h => h.segment | none => 0
    at_ 0 7 g.core + bitAt 7 true + at_ 8 16 seg + at_ 24 8 (g.part * 32 + t.slot) + at_ 32 32 t.id
  | none => at_ 0 7 g.core + at_ 8 16 0xFFFF + at_ 24 8 (g.part * 32 + s.leadK) + at_ 32 32 0xFFFFFFFF

def execTloc (d : Reg) (s : State) : Host.Outcome State Fault Refusal :=
  ran s (s.scalarOp [] d (BitVec.ofNat 64 s.tloc) 1)

end Sys2Proof.Machine
end

