-- ==== Sys2Proof/Machine/Teams.lean ====
section
/-!
DEFINITION. Teams on their cores: hand-out and placement, admission, forced saves and restores, the end of a group, and
the forward-progress swap (R40, R116, R182-R185, R203, R215-R219, R312, R317, R342, R362-R365, R371, R372).
-/
namespace Sys2Proof.Machine

/-! ## Hand-out (R362-R365) -/

/-- The placement entry of a page number: 0 to 9 a node, 15 unknown (R363). -/
def State.placeEntry (s : State) (asid page : Nat) : Nat :=
  let a := tget {} s.asids asid
  if a.flags % 2 = 0 ∨ a.place = 0 ∨ page < a.p0 ∨ a.p0 + a.np ≤ page then 15
  else
    let i := page - a.p0
    let b := if (s.physFail (a.place + i / 2)).isSome then 255 else (s.home (a.place + i / 2)).toNat
    let e := if i % 2 = 0 then b % 16 else b / 16
    if 10 ≤ e then 15 else e

/-- The entries of a team's footprint pages, in order (R364). -/
def State.footprint (s : State) (l : Launch) (i : Nat) : List Nat :=
  (List.range l.lrec.fcount).map fun j =>
    s.placeEntry l.lrec.asid (((l.lrec.fbase + i * l.lrec.fstride) / 65536 + j) % 2 ^ 41)

/-- The home stack of a team, with the pages it owns, or the fallback (R364). -/
def homeStack (i : Nat) (pages : List Nat) : Place :=
  let owned (k : Nat) : Nat := pages.count k
  let best := (List.range 8).foldl (fun m k => max m (owned k)) 0
  if best = 0 then { home := i % 8, stack := i % 8, fall := true }
  else match pages.find? fun e => decide (e < 8) && owned e == best with
    | some k => { home := k, stack := k, owned := best }
    | none => { home := i % 8, stack := i % 8, fall := true }

/-- Position of a stack on the ring, and the ring distance (R365). -/
def ringPos (k : Nat) : Nat := if k < 4 then k + 1 else k + 2
def ringDist (a b : Nat) : Nat :=
  let d := max (ringPos a) (ringPos b) - min (ringPos a) (ringPos b)
  min d (10 - d)

/-- A stack's dispatcher has a free entry: saved teams take none (R365). -/
def Stack.room (k : Stack) : Bool := decide ((k.offers.filter (!·.saved)).length < 64)

/-- The stack a team goes to: its home, else the nearest with room, the lower of a tie. -/
def State.stackFor (s : State) (home : Nat) : Option Nat :=
  ((List.range 8).filter fun k => (s.stack k).room).foldl (fun best k => match best with
    | none => some k
    | some b => if ringDist home k < ringDist home b then some k else some b) none

def Rec.teams (r : Rec) : Nat := r.teamsX * r.teamsY

/-- The team a launch hands out next: the lowest that a drain returned, else the next never handed out (R362, R369). -/
def Launch.nextTeam (l : Launch) : Option Nat :=
  match l.unplaced with
  | i :: t => some (t.foldl min i)
  | [] => if l.next < l.lrec.teams then some l.next else none

/-- Among candidates, each with its priority, those of the highest. -/
def topOf (f : Nat → Nat) (ks : List Nat) : List Nat := ks.filter fun k => ks.all fun j => decide (f j ≤ f k)

/-- The first candidate after the last one served, going round. -/
def afterLast (last : Option Nat) (ks : List Nat) : Option Nat :=
  match last with
  | none => ks.head?
  | some x => match ks.find? fun k => decide (x < k) with | some k => some k | none => ks.head?

/-- A launch whose teams may be handed out. -/
def Launch.handsOut (l : Launch) : Bool := !l.travel && l.stop.isNone && !l.draining && !l.finished

/-- The team that is handed out next: the one whose hand-out paused, else the next of the launch whose queue had the highest
priority when it was consumed, round robin among equals (R355, R362, R365). -/
def State.nextHandout (s : State) : Option (Nat × Nat) :=
  match s.ctl.paused.filter fun e => (tfind s.launches e.1).any Launch.handsOut with
  | some e => some e
  | none =>
    let ready := (s.launches.filter fun e => e.2.handsOut && e.2.nextTeam.isSome).map (·.1)
    let prio (id : Nat) : Nat := (s.launch id).priority
    let top := topOf prio ready
    (top.head?.bind fun any => afterLast (tfind s.ctl.rrLaunch (prio any)) top).bind fun id =>
      (s.launch id).nextTeam.map fun i => (id, i)

/-- TEAM_HANDOUT: one team takes an entry of a stack's dispatcher; where no stack has room, hand-out pauses with it. -/
def execTeamHandout (s : State) : Host.Outcome State Fault Refusal :=
  ran s <| match s.nextHandout with
    | none => s.onCtl fun c => { c with paused := none }
    | some (id, i) =>
      let l := s.launch id
      let pl := homeStack i (s.footprint l i)
      match s.stackFor pl.home with
      | none => s.onCtl fun c => { c with paused := some (id, i) }
      | some k =>
        let s := s.onLaunch id fun l =>
          if l.unplaced.contains i then { l with unplaced := l.unplaced.erase i } else { l with next := l.next + 1 }
        let s := s.onStack k fun x => { x with offers := x.offers ++ [{ launch := id, team := i, place := { pl with stack := k } }] }
        s.onCtl fun c => { c with paused := none, rrLaunch := tset c.rrLaunch l.priority id }

/-! ## Placement on a core or a pair (R182-R184, R292) -/

/-- A group placed: core, partition, group slot and units, and whether it holds a rank. -/
structure Spot where
  core : Nat
  part : Nat
  slot : Nat
  units : Nat
  ranked : Bool
deriving DecidableEq, Repr

/-- Units of a partition held by the base allocations of its resident groups (R183). -/
def State.baseUnits (s : State) (core part : Nat) : Nat :=
  ((s.groups.filter fun e => e.2.core == core && e.2.part == part && e.2.trav.isNone).map
    fun e => unitsOf (s.launch e.2.launch).lrec.base e.2.width).sum +
  (match (s.core core).holder with | some h => 8 * ((s.launch h.launch).lrec.base / 16) | none => 0)

/-- Places groups by the units they need, in order, in the partitions of one core or a pair (R183). A group that holds a rank needs
a core whose unit is unbound, to itself (R317). The manual does not say which free group slot of the partition a group takes: it takes the lowest (DESIGN CHOICE, unsafe, log 85). -/
def State.placeGroups (s : State) (cores : List Nat) (restored : Bool) : List (Nat × Bool) → List Spot → Option (List Spot)
  | [], done => some done
  | (u, ranked) :: us, done =>
    let parts := cores.flatMap fun c => (List.range 4).map fun p => (c, p)
    let mine (x : Nat × Nat) := done.filter fun d => d.core == x.1 && d.part == x.2
    let free (x : Nat × Nat) : Int := (s.freeUnits x.1 x.2 : Int) - ((mine x).map (·.units)).sum
    let slots (x : Nat × Nat) := s.groupSlots x.1 x.2 ++ (mine x).map (·.slot)
    let ok (x : Nat × Nat) : Bool :=
      (!ranked || ((s.core x.1).glz.isNone && !done.any fun d => d.ranked && d.core == x.1)) && !(s.core x.1).shutParts.contains x.2 && decide ((slots x).length < 16) &&
      (if restored then decide (u + s.baseUnits x.1 x.2 + ((mine x).map (·.units)).sum ≤ 128) else decide ((u : Int) ≤ free x))
    let best := (parts.filter ok).foldl (fun (b : Option (Nat × Nat)) x => match b with
      | none => some x
      | some y => if free y < free x then some x else some y) none
    match best with
    | none => none
    | some x => match (List.range 16).find? fun k => !(slots x).contains k with
      | none => none
      | some slot => s.placeGroups cores restored us (done ++ [{ core := x.1, part := x.2, slot, units := u, ranked }])

/-- Where a team would stand on a core, or on the pair above it. -/
structure Plan where
  slot : Nat
  slotUp : Nat
  base : Nat
  accFirst : Nat
  accFirstUp : Nat
  spots : List Spot
deriving DecidableEq, Repr

/-- A core offered teams: fewer than two banks retired (R464). -/
def State.inDispatch (s : State) (core : Nat) : Bool := decide ((s.core core).banksOut.length < 2)

/-- Everything a team needs, all at once, on a core or a pair. -/
def State.plan (s : State) (l : Launch) (core : Nat) (pair : Bool) (units : List (Nat × Bool)) (restored : Bool) : Option Plan :=
  let cores := if pair then [core, core + 1] else [core]
  if !cores.all s.inDispatch then none
  else match s.placeSlot core, s.placeBytes core l.bytes, s.placeRows core l.rows, s.placeGroups cores restored units [] with
    | some slot, some base, some f, some spots =>
      if pair then match s.placeSlot (core + 1), s.placeRows (core + 1) l.rows with
        | some up, some fu => some { slot, slotUp := up, base, accFirst := f, accFirstUp := fu, spots }
        | _, _ => none
      else some { slot, slotUp := 0, base, accFirst := f, accFirstUp := 0, spots }
    | _, _, _, _ => none

/-- Teams resident on a core. -/
def State.teamCount (s : State) (core : Nat) : Nat :=
  (s.teams.filter fun t => t.2.core == core || (t.2.pair && t.2.core + 1 == core)).length

/-- Items in increasing order of a count, the earlier of a tie first. -/
def byCount (f : Nat → Nat) (ks : List Nat) : List Nat :=
  ks.foldl (fun a k => a.takeWhile (fun j => decide (f j ≤ f k)) ++ [k] ++ a.dropWhile (fun j => decide (f j ≤ f k))) []

/-- The first core of a stack, else the first pair where the launch spans pairs, with a plan that passes a test
(R292, R342). A team saved from a pair is placed on pairs alone (R293). -/
def State.findPlan (s : State) (l : Launch) (stack : Nat) (units : List (Nat × Bool)) (restored onPair : Bool) (good : Plan → Bool) :
    Option (Nat × Bool × Plan) :=
  let cores := (List.range 16).map (16 * stack + ·)
  let pick (pair : Bool) (c : Nat) : Option (Nat × Bool × Plan) :=
    (s.plan l c pair units restored).bind fun p => if good p then some (c, pair, p) else none
  match if onPair then none else (byCount s.teamCount cores).findSome? (pick false) with
  | some x => some x
  | none =>
    if l.pairs then (byCount (fun c => s.teamCount c + s.teamCount (c + 1)) (cores.filter (· % 2 == 0))).findSome? (pick true)
    else none

/-- The head of each priority queue of a stack, the highest priority first; offers of draining launches are passed over
(R342). -/
def State.heads (s : State) (stack : Nat) : List Offer :=
  let live := (s.stack stack).offers.filter fun o => !(s.launch o.launch).draining && (s.launch o.launch).stop.isNone
  let prio (o : Offer) : Nat := (s.launch o.launch).lrec.priority
  ((List.range 256).reverse).filterMap fun p => live.find? fun o => prio o == p

def State.dropOffer (s : State) (stack : Nat) (o : Offer) : State :=
  s.onStack stack fun k => { k with offers := k.offers.erase o }

/-! ## Admission (R40, R182, R225, R255) -/

/-- Group g of team i as R40 starts it, at a spot. The manual does not say when a team that has issued nothing since its
admission, or its restore, issued latest: it counts from that cycle (DESIGN CHOICE, unsafe, log 86). -/
def newGroup (l : Launch) (id i g : Nat) (at_ : Spot) (now : Nat × Nat) (cycle : Nat) : Group :=
  let r := l.lrec
  let w := r.width
  let seq : Word := r.seq.setWidth 32
  let scal : List Nat := [r.arg.toNat, i, i % r.teamsX, i / r.teamsX, g, r.groups]
  { core := at_.core, part := at_.part, slot := at_.slot, launch := id, team := i, index := g, width := w, held := r.base
    v := (List.range w).filterMap fun ln => if ln = 0 then none else some (ln, BitVec.ofNat 32 ln)
    s := scal.zipIdx.filterMap fun e => if e.1 = 0 then none else some (e.2, BitVec.ofNat 64 e.1)
    p := [(0, BitVec.ofNat 64 (2 ^ w - 1))]
    srg := (List.range w).map fun ln => (ln, srgSeed seq i (g * 64 + ln))
    strands := List.replicate (w / 4) {
      pc := r.entry, mode := r.mode, prec := r.prec, live := BitVec.ofNat 64 (2 ^ min 64 r.base - 1), readyAt := now }
    lastIssue := cycle }

/-- The team an offer becomes under a plan. -/
def Offer.team_ (o : Offer) (l : Launch) (core : Nat) (pair : Bool) (p : Plan) : Team :=
  { launch := o.launch, index := o.team, core, pair, slot := p.slot, slotUp := p.slotUp, base := p.base, size := l.bytes
    accFirst := p.accFirst, accFirstUp := p.accFirstUp, accRows := l.rows, place := o.place }

/-- A team takes its place: the L1 shrinks to make room and its accumulator rows become +0. The manual does not say what its
allocation holds: the bytes and the poison that stand there stay (DESIGN CHOICE, unsafe, log 88). -/
def State.seat (s : State) (t : Team) : State :=
  let s := (s.setTeam t).shrinkL1 t.core
  let s := s.onCore t.core fun c => c.zeroRows t.accFirst t.accRows
  if t.pair then s.onCore (t.core + 1) fun c => c.zeroRows t.accFirstUp t.accRows else s

/-- The saved team of an offer. -/
def State.savedOf (s : State) (o : Offer) : Option SavedTeam :=
  s.saved.find? fun v => v.team.launch == o.launch && v.team.index == o.team

/-- Where the team of an offer can be placed now: a new one by its base allocation, held back by requests that wait in its
partitions, a saved one by what it held (R182, R183, R184, R293, R317). -/
def State.placeFor (s : State) (stack : Nat) (o : Offer) : Option (Nat × Bool × Plan) :=
  let l := s.launch o.launch
  if o.saved then
    (s.savedOf o).bind fun v =>
      s.findPlan l stack (v.groups.map fun e => (unitsOf e.2.held e.2.width, e.2.glz.joined)) true v.team.pair fun _ => true
  else
    s.findPlan l stack (List.replicate l.lrec.groups (unitsOf l.lrec.base l.lrec.width, false)) false false
      fun p => p.spots.all fun x => !s.partWaits x.core x.part

/-- The head that a stack's dispatcher serves next, new or saved: the first, by priority, that a core or pair can take
(R342). -/
def State.served (s : State) (stack : Nat) : Option (Offer × Nat × Bool × Plan) :=
  (s.heads stack).findSome? fun o => (s.placeFor stack o).map fun r => (o, r)

/-- Admits a new team under a plan (R40, R182). -/
def State.admitAs (s : State) (stack : Nat) (o : Offer) (core : Nat) (pair : Bool) (p : Plan) : State :=
  let l := s.launch o.launch
  let s := (s.dropOffer stack o).seat (o.team_ l core pair p)
  p.spots.zipIdx.foldl (fun s e =>
    let (k, s) := s.newKey
    s.setGrp k (newGroup l o.launch o.team e.2 e.1 (s.nowAt e.1.core e.1.part) (s.core e.1.core).cycle.toNat)) s

/-! ## The end of a group (R116, R312) -/

/-- Frees what a team holds once none of its groups is left. -/
def State.endTeam (s : State) (launch team : Nat) : State :=
  if s.groups.any fun e => e.2.launch == launch && e.2.team == team && e.2.trav.isNone then s
  else (({ s with teams := tdel s.teams (teamKey launch team) }).onLaunch launch fun l => { l with ended := l.ended + 1 }).retireAll

/-- GROUP_END: once its accesses are performed, the leave of its rank first, then its registers and slots are freed and waiting
claims are served. A traveller's end frees its id. -/
def execGroupEnd (group : Nat) (s : State) : Host.Outcome State Fault Refusal :=
  ran s <| match tfind s.groups group with
    | none => s
    | some g =>
      let lastOne := s.groups.all fun e => e.1 == group || e.2.launch != g.launch || e.2.team != g.team
      let t := s.team g.launch g.team
      if g.live || !s.enginesDone group || s.loads.any (·.group == group) || (s.launch g.launch).stop.isSome then s
      else if g.trav.isSome then
        let id := (g.trav.map (·.id)).getD 0
        ((s.dropGroup group).onLaunch g.launch fun l => { l with alive := l.alive.erase id }).drainCheck g.launch
      else if g.glz.joined && !g.glz.leaving then
        match s.glzClose group true with
        | .error t => s.stopLaunch g.launch { kind := 1, cause := t.cause, detail := t.detail.zeroExtend 16, team := g.team, group := g.index, core := g.core, tinfo := tinfoOf t, tpc := g.endPc }
        | .ok s1 => s1.onGrp group fun g => { g with glz := { g.glz with leaving := true } }
      else if g.glz.joined then s
      else if lastOne && s.allocRead t.core t.base t.size then s
      else (((s.dropGroup group).serve g.core g.part).endTeam g.launch g.team).drainCheck g.launch

/-! ## Forced saves (R215-R219, R371, R372, R400) -/

def roundUp (x n : Nat) : Nat := (x + n - 1) / n * n

/-- Size of a team's slot in the save area (R371). -/
def Launch.saveSlot (l : Launch) : Nat :=
  let g := roundUp (8192 + 4 * l.lrec.ceil * l.lrec.width + 256 * l.lrec.width + (if l.glaze then 40960 else 0)) 4096
  roundUp (4096 + l.bytes + 1024 * l.rows + l.lrec.groups * g) 4096

/-- Groups of a team, in increasing index. -/
def State.teamGroups (s : State) (launch team : Nat) : List Nat :=
  let mine := s.groups.filter fun e => e.2.launch == launch && e.2.team == team && e.2.trav.isNone
  byCount (fun k => (s.grp k).index) (mine.map (·.1))

/-- Entries of a table with keys from a on, n of them, by their distance from a. -/
def cut {α : Type} (t : Table α) (a n : Nat) : Table α :=
  (t.filter fun e => decide (a ≤ e.1 ∧ e.1 < a + n)).map fun e => (e.1 - a, e.2)

/-- What a save keeps of a group: its claims are withdrawn, and its next issue claims again (R203, R216). -/
def Group.saved (g : Group) : Group := { g with saving := false, restoring := false }

/-- Saves a settled team whole and frees what it held; it counts one forced save (R216, R380). -/
def State.saveTeam (s : State) (launch team : Nat) : SavedTeam × State :=
  let ks := s.teamGroups launch team
  let s := ks.foldl (fun s k => (s.releaseWhole k).glzSaved k) s
  let t := s.team launch team
  let saved : SavedTeam := {
    team := { t with place := { t.place with saves := (t.place.saves + 1) % 2 ^ 32 } }
    groups := ks.map fun k => (k, (s.grp k).saved)
    bytes := cut (s.core t.core).mem t.base t.size
    poison := (s.core t.core).poisonIn t.base t.size
    keys := (s.core t.core).keysIn t.base t.size
    acc := cut (s.core t.core).acc (256 * t.accFirst) (256 * t.accRows)
    accUp := if t.pair then cut (s.core (t.core + 1)).acc (256 * t.accFirstUp) (256 * t.accRows) else [] }
  let places := ks.map fun k => ((s.grp k).core, (s.grp k).part)
  let s := ks.foldl (fun s k =>
    let c := (s.grp k).core
    (s.onCore c fun x => { x with claims := x.claims.filter (·.group != k) }).dropGroup k) s
  let s := { (s.mapStacks (·.dropReparts ks)) with teams := tdel s.teams (teamKey launch team), saved := s.saved ++ [saved] }
  (saved, (places.foldl (fun s p => s.serve p.1 p.2) s).retireAll)

/-- Stops a team's groups for a save; their claims are withdrawn at once, and claims behind them served (R203, R216). The manual
does not say whether the claims of the team's several groups go together: they go group by group, so that a claim of a later
group in the same partition can be granted in between (DESIGN CHOICE, unsafe, log 101). -/
def State.holdTeam (s : State) (launch team : Nat) : State :=
  (s.teamGroups launch team).foldl (fun s k =>
    let g := s.grp k
    ((s.onGrp k fun g => { g with saving := true }).onCore g.core fun c => { c with
      claims := c.claims.filter (·.group != k) }).serve g.core g.part) s

/-- Completes the forced save of a team held for it, once nothing of it is outstanding. A save area of 0, or a fault on
it, stops the launch. Outside a drain the saved team joins the tail of its stack's queue (R217, R342). -/
def State.trySave (s : State) (launch team : Nat) : State :=
  let l := s.launch launch
  let t := s.team launch team
  let ks := s.teamGroups launch team
  if ks.isEmpty || !ks.all (fun k => (s.grp k).saving) || l.stop.isSome then s
  else if !ks.all s.settled || s.allocRead t.core t.base t.size then s
  else if l.lrec.save = 0 then s.stopSave launch team t.core (0, 0, 0)
  else match s.rangeTrap t.core l.lrec.asid (l.lrec.save + team * l.saveSlot) l.saveSlot .write false with
    | some e => s.stopSave launch team t.core e
    | none =>
      let (v, s) := s.saveTeam launch team
      if l.draining then s.drainCheck launch
      else s.onStack (stackOf t.core) fun k => { k with offers := k.offers ++ [{ launch, team, place := v.team.place, saved := true }] }

/-- FORCED_SAVE: of a team that a swap or a drain has stopped for its save. -/
def execForcedSave (launch team : Nat) (s : State) : Host.Outcome State Fault Refusal := ran s (s.trySave launch team)

/-- The resident team of a launch on a core whose latest issue is the earliest, the lowest index of a tie (R217). -/
def State.idleTeam (s : State) (core launch : Nat) : Option Nat :=
  let mine := (s.teams.filter fun t => t.2.launch == launch && (t.2.core == core || (t.2.pair && t.2.core + 1 == core))).map (·.2.index)
  let last (i : Nat) : Nat := ((s.teamGroups launch i).map fun k => (s.grp k).lastIssue).foldl max 0
  mine.foldl (fun best i => match best with
    | none => some i
    | some b => if last i < last b ∨ (last i = last b ∧ i < b) then some i else some b) none

/-! ## Restores (R183, R203, R219, R317, R400) -/

/-- Reseats a saved team under a plan: its bytes, rows and groups, an acquire on each core, and its ranks. A team that one core
held and a pair takes finds its rows on both (R256). -/
def State.reseat (s : State) (stack : Nat) (v : SavedTeam) (core : Nat) (pair : Bool) (p : Plan) : State :=
  let t : Team := { v.team with
    core, pair, slot := p.slot, slotUp := p.slotUp, base := p.base, accFirst := p.accFirst, accFirstUp := p.accFirstUp
    place := { v.team.place with stack } }
  let rows (c : Core) (first : Nat) (acc : Table Word) : Table Word := acc.foldl (fun m e => tput 0 m (256 * first + e.1) e.2) c.acc
  let s := ({ s with saved := s.saved.erase v }).seat t
  let s := s.onCore core fun c => { (c.refill p.base t.size v.bytes v.poison v.keys) with acc := rows c p.accFirst v.acc }
  let s := if pair then s.onCore (core + 1) fun c => { c with
      acc := rows c p.accFirstUp (if v.team.pair then v.accUp else v.acc) } else s
  let s := (v.groups.zip p.spots).foldl (fun (s : State) e =>
    let x := e.2
    let now := s.nowAt x.core x.part
    s.setGrp e.1.1 { e.1.2 with
      core := x.core, part := x.part, slot := x.slot, restoring := true, lastIssue := (s.core x.core).cycle.toNat
      strands := e.1.2.strands.map fun (y : Strand) => { y with readyAt := now } }) s
  let cores := (p.spots.map (·.core)).eraseDups
  let s := cores.foldl (fun s c => s.acquireOn c 4) s
  let s := p.spots.foldl (fun s x => s.serve x.core x.part) s
  v.groups.foldl (fun s e => s.glzRestored e.1) s

/-- Restores a saved team under a plan. A fault on its slot of the save area stops the launch (R372). -/
def State.restoreAs (s : State) (stack : Nat) (o : Offer) (v : SavedTeam) (core : Nat) (pair : Bool) (p : Plan) : State :=
  let l := s.launch o.launch
  match s.rangeTrap core l.lrec.asid (l.lrec.save + o.team * l.saveSlot) l.saveSlot .read false with
  | some e => s.stopSave o.launch o.team core e
  | none => (s.dropOffer stack o).reseat stack v core pair p

/-- Places the head served next. -/
def State.place (s : State) (stack : Nat) (o : Offer) (core : Nat) (pair : Bool) (p : Plan) : State :=
  if o.saved then (match s.savedOf o with | some v => s.restoreAs stack o v core pair p | none => s)
  else s.admitAs stack o core pair p

/-- TEAM_ADMIT: the head served next, where it is no saved team. -/
def execTeamAdmit (stack : Nat) (s : State) : Host.Outcome State Fault Refusal :=
  ran s <| match s.served stack with
    | some (o, core, pair, p) => if o.saved then s else s.place stack o core pair p
    | none => s

/-- TEAM_RESTORE: the head served next, where it is a saved team. -/
def execTeamRestore (stack : Nat) (s : State) : Host.Outcome State Fault Refusal :=
  ran s <| match s.served stack with
    | some (o, core, pair, p) => if o.saved then s.place stack o core pair p else s
    | none => s

/-! ## The forward-progress swap (R217) -/

/-- The first of some launches with the smallest N. -/
def State.leastPatient (s : State) : List Nat → Option Nat
  | [] => none
  | a :: t => match s.leastPatient t with
    | none => some a
    | some b => if (s.launch b).patience < (s.launch a).patience then some b else some a

/-- FORWARD_PROGRESS_SWAP: of the launches with a waiting team, a resident team and a save area, the first whose N the core's
count reaches, once for each time it is reached: from its choice on, the team is held until its save, and no other is chosen.
Once the save is complete the dispatcher serves the waiting team. -/
def execForwardProgressSwap (core : Nat) (s : State) : Host.Outcome State Fault Refusal :=
  let stack := stackOf core
  let due := s.leastPatient (((s.heads stack).map (·.launch)).filter fun id =>
    !(s.launch id).travel && (s.launch id).lrec.save != 0 && (s.idleTeam core id).isSome && !(s.core core).swapped.contains id)
  ran s <| match due.bind fun id => (s.idleTeam core id).map fun i => (id, i) with
    | none => s
    | some (id, i) =>
      let n := (s.launch id).patience
      let s := s.letPass core (n - (s.core core).idle)
      if (s.core core).idle < n then s
      else
        let s1 := (s.onCore core fun c => { c with swapped := c.swapped ++ [id] }).holdTeam id i
        let s2 := s1.trySave id i
        if (tfind s2.teams (teamKey id i)).isSome then s2
        else match s2.served stack with
          | some (o, core, pair, p) => s2.place stack o core pair p
          | none => s2

end Sys2Proof.Machine
end

