-- ==== Sys2Proof/Machine/Launch.lean ====
section
/-!
DEFINITION. The global dispatcher: command queues, launch records and their checks, start, completion, stopping, drain
and resume, address-space invalidation, and the driver's writes to the queue registers (R353-R379, R399, R401, R409, R424,
R426, R443-R446).
-/
namespace Sys2Proof.Machine

/-! ## Launch records (R357) -/

/-- The record that 256 bytes hold; `f o n` gives n bytes at offset o as a number. -/
def parseRec (f : Nat → Nat → Nat) : Rec :=
  let w {n : Nat} (o k : Nat) : BitVec n := BitVec.ofNat n (f o k)
  { entry := w 0 8, arg := w 8 8, teamsX := f 0x10 4, teamsY := f 0x14 4, groups := f 0x18 2, widthCode := f 0x1A 1
    flags := w 0x1B 1, base := f 0x1C 2, ceil := f 0x1E 2, scratch := f 0x20 4, priority := f 0x24 1, mode := w 0x25 3
    prec := w 0x28 1, accRows := f 0x29 1, res2a := f 0x2A 2, progress := f 0x2C 4
    slots := (List.range 8).map fun k => w (0x30 + 2 * k) 2
    fbase := f 0x40 8, fstride := f 0x48 8, fcount := f 0x50 4, res54 := f 0x54 4, asid := f 0x58 2, res5a := f 0x5A 2
    drainLimit := f 0x5C 4, waits := (List.range 4).map fun i => (f (0x60 + 16 * i) 8, w (0x68 + 16 * i) 8)
    semAddr := f 0xA0 8, semValue := w 0xA8 8, segmap := f 0xB0 8, budget := f 0xB8 4, resbc := f 0xBC 4, pool := f 0xC0 8
    chainId := f 0xC8 2, chainLen := f 0xCA 2, rescc := f 0xCC 4, seq := w 0xD0 8, handler := w 0xD8 8, save := f 0xE0 8
    fault := f 0xE8 8, resf0 := f 0xF0 16 }

/-- An ASID-table entry as memory holds it, not valid where it cannot be read (R374). -/
def State.readAsid (s : State) (asid : Nat) : Asid :=
  let a := s.ctl.asidbase.toNat + 64 * asid
  let n (o k : Nat) : Nat := s.homeN (a + o) k
  if (s.physFail a).isSome then {}
  else { root := n 0 8, handles := n 8 8, place := n 0x10 8, p0 := n 0x18 8, np := n 0x20 4, flags := n 0x24 4 }

/-- The device reads an ASID entry (R374). -/
def State.takeAsid (s : State) (asid : Nat) : State := { s with asids := tset s.asids asid (s.readAsid asid) }

/-- The device reads the entry of a launch's ASID at its check and its start. While an unfinished launch uses the ASID, the
entry that one reads by stands until an invalidation (R374, R378, log 22). -/
def State.freshAsid (s : State) (asid : Nat) : State :=
  if s.launches.any fun e => e.2.lrec.asid == asid && !e.2.finished then s else s.takeAsid asid

/-! ## The check of a record (R31, R34, R63, R82, R185, R197, R255, R297, R357, R358, R401-R406) -/

/-- Slot 1 of an entry line, its header read through the ASID (R82). -/
def State.entryLine (s : State) (asid t : Nat) : Bool :=
  t % 128 == 4 && (s.devFail asid (t - 4) .fetch).isNone && s.devN asid (t - 4) 4 % 4 == 3

/-- A format slot word without a reserved value (R62, R63). -/
def slotOk (w : Half) : Bool :=
  decide (w.toNat < 1024) && decide (slotKind w < 10) && slotScale w != 3 &&
  (if slotKind w = 5 then decide (2 ≤ slotMb w ∧ slotMb w ≤ 8) else slotMb w == 0) &&
  !(slotScale w == 1 && [5, 6, 7, 8].contains (slotKind w))

/-- Groups of a team that find a place in an empty core, or pair (R183, R185). -/
def fitsEmpty (cores units : Nat) : Nat → List (Nat × Nat) → Bool
  | 0, _ => true
  | n + 1, done =>
    let used (p : Nat) : Nat := ((done.find? (·.1 == p)).map (·.2)).getD 0
    let ok := (List.range (4 * cores)).filter fun p => decide (used p < 16 ∧ (used p + 1) * units ≤ 128)
    match ok.foldl (fun (b : Option Nat) p => match b with
      | none => some p | some q => if used p < used q then some p else some q) none with
    | none => false
    | some p => fitsEmpty cores units n ((p, used p + 1) :: done.filter (·.1 != p))

/-- A segment map and resident table that keep R404 to R406. -/
def State.mapOk (s : State) (r : Rec) : Bool :=
  let rd (va n : Nat) : Nat := s.devN r.asid va n
  let can (va n : Nat) : Bool := (pageStarts va n).all fun a => (s.devFail r.asid a .read).isNone
  let m := r.segmap
  let n := rd (m + 8) 4
  let es := (List.range n).map fun i => rd (m + 0x40 + 8 * i) 8
  let cores := es.flatMap fun e => (holdersOf e).map (·.2)
  let tab := rd (m + 0x10) 8
  let z := (r.scratch + 127) / 128 * 128
  m != 0 && m % 64 == 0 && can m 0x40 && rd m 8 % 65536 == 0 && decide (1 ≤ n ∧ n ≤ 128) && rd (m + 0x0C) 4 == 0 &&
  rd (m + 0x18) 40 == 0 && can m (0x40 + 8 * n) && es.all (fun e => decide (e < 2 ^ 33)) && cores.all (fun c => cores.count c == 1) &&
  (tab == 0 || (can tab (16 * n) && (List.range n).all fun i =>
    let b := rd (tab + 16 * i + 8) 4
    rd (tab + 16 * i + 12) 4 == 0 && b % 128 == 0 && decide (b ≤ z)))

/-- The entry PC lies in a segment with a holder (R401). -/
def State.entrySegment (s : State) (r : Rec) : Option Nat :=
  let base := s.devN r.asid r.segmap 8
  let n := s.devN r.asid (r.segmap + 8) 4
  if base ≤ r.entry.toNat ∧ r.entry.toNat < base + n * 65536 then
    let i := (r.entry.toNat - base) / 65536
    if (holdersOf (s.devN r.asid (r.segmap + 0x40 + 8 * i) 8)).isEmpty then none else some i
  else none

/-- The tests of a record in the order they are made: each an offset and whether the field passes. -/
def State.recTests (s : State) (r : Rec) : List (Nat × Bool) :=
  let travel := r.flags.getLsbD 0
  let pair := r.flags.getLsbD 1
  let glaze := r.flags.getLsbD 2
  let maps (a : Nat) (acc : Acc) : Bool := a == 0 || (s.devCheck r.asid a acc).isNone
  let units := r.base / 16 * (16 * 2 ^ r.widthCode / 16)
  [(0x58, (tget {} s.asids r.asid).flags % 2 == 1),
   (0x00, s.entryLine r.asid r.entry.toNat),
   (0x10, decide (1 ≤ r.teamsX ∧ r.teamsX ≤ 2 ^ 24)),
   (0x14, decide (1 ≤ r.teamsY ∧ r.teamsY ≤ 2 ^ 24 ∧ r.teamsX * r.teamsY ≤ 2 ^ 32 - 1)),
   (0x18, decide (1 ≤ r.groups ∧ r.groups ≤ 32)),
   (0x1A, decide (r.widthCode ≤ 2) && (!travel || r.widthCode == 0)),
   (0x1B, decide (r.flags.toNat < 16) && !(travel && (pair || glaze))),
   (0x1C, decide (16 ≤ r.base ∧ r.base ≤ 176 ∧ r.base % 16 = 0) && (!travel || decide (r.base ≤ 64)) &&
      (travel || fitsEmpty (if pair then 2 else 1) units r.groups [])),
   (0x1E, decide (r.base ≤ r.ceil ∧ r.ceil ≤ 176 ∧ r.ceil % 16 = 0) && (!travel || r.ceil == r.base)),
   (0x20, decide (r.scratch ≤ 458752)),
   (0x25, !modeReserved r.mode),
   (0x28, decide (8 ≤ r.prec.toNat ∧ r.prec.toNat ≤ 237)),
   (0x29, decide (r.accRows ≤ 16)),
   (0x2A, r.res2a == 0)] ++
  (r.slots.zipIdx.map fun e => (0x30 + 2 * e.2, slotOk e.1)) ++
  [(0x40, travel || decide (r.fbase % 65536 = 0 ∧ r.fbase < 2 ^ 57)),
   (0x48, travel || r.fstride % 65536 == 0),
   (0x50, travel || decide (r.fcount ≤ 65536)),
   (0x54, r.res54 == 0),
   (0x5A, r.res5a == 0)] ++
  (r.waits.zipIdx.map fun e => (0x60 + 16 * e.2, e.1.1 % 8 == 0 && maps e.1.1 .read)) ++
  [(0xA0, r.semAddr % 8 == 0 && maps r.semAddr .write),
   (0xB0, if travel then s.mapOk r else r.segmap == 0),
   (0xB8, if travel then decide (r.teams * r.groups * 4 ≤ r.budget ∧ r.budget ≤ 2 ^ 20) else r.budget == 0),
   (0xBC, r.resbc == 0),
   (0xC0, if travel then r.pool != 0 && r.pool % 4096 == 0 else r.pool == 0),
   (0xCA, !glaze || decide (1 ≤ r.chainLen ∧ r.chainLen ≤ 128)),
   (0xCC, r.rescc == 0),
   (0xD8, r.handler == 0 || s.entryLine r.asid r.handler.toNat),
   (0xE0, r.save % 4096 == 0),
   (0xE8, r.fault % 64 == 0 && maps r.fault .write),
   (0xF0, r.resf0 == 0),
   (0x00, !travel || (s.entrySegment r).isSome)]

/-- The offset of the first test that fails. -/
def State.recFails (s : State) (r : Rec) : Option Nat := ((s.recTests r).find? fun t => !t.2).map (·.1)

/-! ## Endings (R366, R373, R445, R446) -/

/-- Stops a queue with a reason (R353). -/
def State.stopQueue (s : State) (q : Nat) (why : Byte) : State := s.onQueue q fun x => { x with stopped := some why }

/-- An ending waits for its completion record. -/
def State.ends (s : State) (q : Nat) (e : Ending) : State := s.onQueue q fun x => { x with endings := x.endings ++ [e] }

/-- The 64 bytes of a fault record (R373). -/
def FaultRec.cells (f : FaultRec) (a : Nat) : List Host.Cell :=
  cellsLE a f.kind.toNat 1 ++ cellsLE (a + 1) f.cause.toNat 1 ++ cellsLE (a + 2) f.detail.toNat 2 ++ cellsLE (a + 4) f.count.toNat 4 ++
  cellsLE (a + 8) f.launch 4 ++ cellsLE (a + 0xC) f.team 4 ++ cellsLE (a + 0x10) f.group 2 ++ cellsLE (a + 0x12) f.strand 1 ++
  cellsLE (a + 0x13) f.core 1 ++ cellsLE (a + 0x14) f.tinfo.toNat 4 ++ cellsLE (a + 0x18) f.tpc.toNat 8 ++
  cellsLE (a + 0x20) f.taddr.toNat 8 ++ cellsLE (a + 0x28) f.seq.toNat 8 ++ cellsLE (a + 0x30) 0 16

/-- A store of the device itself through a launch's ASID; one that meets a fault is dropped (R357). -/
def State.devStore (s : State) (asid va : Nat) (cells : Nat → List Host.Cell) : State :=
  if (s.devCheck asid va .write).isSome then s
  else s.devWrites (cells (s.devPa asid va)) ((s.devXlate asid va).key va)

/-- A launch error of a consumed record: its fault record, its ending, and the stop of its queue (R358). Memory gets no fault record
where the record gives no address for one (0, or no multiple of 64) or no valid ASID, whichever field has failed (DESIGN CHOICE,
unsafe, log 124). -/
def State.launchError (s : State) (q : Nat) (r : Rec) (offset : Nat) : State :=
  let f : FaultRec := { kind := 2, detail := BitVec.ofNat 16 offset, seq := r.seq }
  let s := if r.fault = 0 ∨ r.fault % 64 ≠ 0 ∨ (tget {} s.asids r.asid).flags % 2 = 0 then s else s.devStore r.asid r.fault f.cells
  (s.ends q { status := 1, seq := r.seq, fault := f }).stopQueue q 1

/-- An ended sequence number: QDONE moves past every number ended without a gap. -/
def advanceDone (done : DWord) : Nat → List DWord → DWord × List DWord
  | 0, xs => (done, xs)
  | n + 1, xs => if xs.contains (done + 1) then advanceDone (done + 1) n (xs.erase (done + 1)) else (done, xs)

/-- Clears the pins of an ended launch (R332). -/
def State.clearPins (s : State) (launch : Nat) : State :=
  s.mapStacks fun k => { k with
    tier := k.tier.map fun e => if e.2.pin = some launch then (e.1, { e.2 with pin := none }) else e }

/-- The first ending of a queue is recorded once its ring has room; a completed launch then loses its pins and its chain
id (R366, R445, R446). A queue enabled before CCFG has been written has F = 0, which R443 does not allow: its ring is taken to
have one slot (DESIGN CHOICE, unsafe, log 111). -/
def State.completion (s : State) (queue : Nat) : State :=
  let x := s.queue queue
  match x.endings with
    | [] => s
    | e :: rest =>
      if x.ctail - x.chead = BitVec.ofNat 64 (2 ^ x.csize) then s
      else
        let c := x.ctail + 1
        let a := x.cbase.toNat + 128 * (c.toNat % 2 ^ x.csize)
        let fault := if e.status = 0 ∨ e.status = 3 then cellsLE a 0 64 else e.fault.cells a
        let s := s.devWrites (fault ++ cellsLE (a + 0x40) e.seq.toNat 8 ++ cellsLE (a + 0x48) e.launch 4 ++
          cellsLE (a + 0x4C) e.status.toNat 1 ++ cellsLE (a + 0x4D) 0 43) none
        let s := s.devWrites (cellsLE (a + 0x78) c.toNat 8) none
        let (done, ahead) := advanceDone x.done (x.doneAhead.length + 1) (x.doneAhead ++ [e.seq])
        let s := s.setQueue queue { x with endings := rest, ctail := c, done, doneAhead := ahead }
        let s := if x.cint then s.onCtl fun k => { k with msix := k.msix ++ [queue] } else s
        if e.status = 0 then { (s.clearPins e.launch) with launches := tdel s.launches e.launch } else s

/-- COMPLETION_RECORD. -/
def execCompletionRecord (queue : Nat) (s : State) : Host.Outcome State Fault Refusal := ran s (s.completion queue)

/-! ## Reading records (R354, R358, R359, R444) -/

/-- The semaphore waits of a head, in order: each used wait not yet seen satisfied is read once (R357, R359). -/
def State.readWaits (s : State) (q : Nat) : State :=
  match (s.queue q).head with
  | none => s
  | some h =>
    let met := (h.lrec.waits.zipIdx.filter fun e =>
      e.1.1 == 0 || ((s.devFail h.lrec.asid e.1.1 .read).isNone && !s.poisoned (s.devPa h.lrec.asid e.1.1 / 128) &&
        decide (e.1.2.toNat ≤ s.devN h.lrec.asid e.1.1 8))).map (·.2)
    s.onQueue q fun x => { x with head := some { h with seen := h.seen ++ met.filter fun i => !h.seen.contains i } }

/-- Reads the next pending record once more: consumed and checked when its number matches, torn at the fifth copy that
does not. A copy that cannot be read does not match (log 21). -/
def State.readRecord (s : State) (q : Nat) : State :=
  let x := s.queue q
  let n := x.cons + 1
  let a := x.base.toNat + 256 * (n.toNat % 2 ^ x.size)
  let r := parseRec fun o k => s.homeN (a + o) k
  if r.seq = n ∧ (s.physFail a).isNone ∧ (s.physFail (a + 128)).isNone then
    let s := (s.setQueue q { x with cons := n, reread := 0 }).freshAsid r.asid
    match s.recFails r with
    | some o => s.launchError q r o
    | none => (s.onQueue q fun x => { x with head := some { lrec := r, priority := x.priority, seq := n } }).readWaits q
  else if 4 ≤ x.reread then
    ((s.setQueue q { x with cons := n, reread := 0 }).ends q { status := 3, seq := n }).stopQueue q 3
  else s.setQueue q { x with reread := x.reread + 1 }

/-- A queue whose next pending record may be read. -/
def Queue.reads (x : Queue) : Bool := x.enable && x.stopped.isNone && x.head.isNone && x.cons.ult x.kicked

/-- RECORD_READ: the first copy of the next pending record. -/
def execRecordRead (queue : Nat) (s : State) : Host.Outcome State Fault Refusal :=
  ran s (if (s.queue queue).reads && (s.queue queue).reread == 0 then s.readRecord queue else s)

/-- RECORD_REREAD: a further copy of a record that did not match. -/
def execRecordReread (queue : Nat) (s : State) : Host.Outcome State Fault Refusal :=
  ran s (if (s.queue queue).reads && (s.queue queue).reread != 0 then s.readRecord queue else s)

/-- WAIT_REREAD. The waits of a head are read, and count as seen, while its queue is stopped or disabled too (R359; DESIGN CHOICE,
unsafe, log 125). -/
def execWaitReread (queue : Nat) (s : State) : Host.Outcome State Fault Refusal := ran s (s.readWaits queue)

/-! ## Start (R359-R361, R399, R409) -/

/-- A head that meets the conditions of R359. -/
def State.headReady (s : State) (q : Nat) : Bool :=
  let x := s.queue q
  match x.head with
  | none => false
  | some h => x.enable && x.stopped.isNone && (List.range 4).all h.seen.contains && decide (s.launches.length < 256) &&
      (!h.lrec.flags.getLsbD 2 || decide ((s.launches.filter fun l => l.2.glaze).length < 64))

/-- The next launch id: 0 and the ids of unfinished launches are skipped (R360). -/
def nextId (used : List Nat) (x : Nat) : Nat → Nat
  | 0 => x
  | n + 1 => if x = 0 ∨ used.contains x then nextId used ((x + 1) % 2 ^ 32) n else x

/-- A kernel boundary is an acquire by every core: it drops its L1, its handle entries and, at a start, its published
signatures; at a completion its buffer is drained first (R341, R388, R399). -/
def State.boundary (s : State) (drain : Bool) : State :=
  let s := if drain then (s.cores.foldl (fun s c => s.drainWcb c.1) s).performQueued else s
  s.mapCores fun c =>
    let x := { (c.dropL1 fun _ => true) with handles := [] }
    if drain then x else { x with psig := 0 }

/-- The first packet of traveller (i, g, k) of a travel launch (R409). -/
def firstPacket (r : Rec) (launch base segment : Nat) (i g k : Nat) : Packet :=
  { launch, id := (i * r.groups + g) * 4 + k, target := r.entry.toNat - base, segment, mode := r.mode, prec := r.prec
    live := BitVec.ofNat 64 (2 ^ min 64 r.base - 1), pred := 0x01010101
    scalars := ([r.arg.toNat, i, i % r.teamsX, i / r.teamsX, g, r.groups] ++ List.replicate 10 0).map (BitVec.ofNat 64)
    regs := (List.range (min 64 r.base)).map fun v =>
      (v, (List.range 4).map fun p => if v = 0 then BitVec.ofNat 32 (4 * k + p) else 0) }

/-- Every traveller of a starting launch is sent to a holder of the entry segment. -/
def State.sendFirst (s : State) (id : Nat) : State :=
  let r := (s.launch id).lrec
  let base := s.devN r.asid r.segmap 8
  match s.entrySegment r with
  | none => s
  | some seg =>
    let all := (List.range r.teams).flatMap fun i => (List.range r.groups).flatMap fun g => (List.range 4).map fun k => firstPacket r id base seg i g k
    all.foldl (fun s p => s.sendPacket none p) (s.onLaunch id fun l => { l with alive := all.map (·.id) })

/-- HEAD_START: the head of the enabled queue of highest priority, round robin among equals; a glaze head whose chain id
is held fails instead (R297, R361). -/
def execHeadStart (s : State) : Host.Outcome State Fault Refusal :=
  let ready := (s.queues.map (·.1)).filter s.headReady
  let prio (q : Nat) : Nat := (s.queue q).priority
  let top := topOf prio ready
  ran s <| match top.head? with
    | none => s
    | some any => match afterLast (tfind s.ctl.rrQueue (prio any)) top with
      | none => s
      | some q => match (s.queue q).head with
        | none => s
        | some h =>
          let s := s.onQueue q fun x => { x with head := none }
          if h.lrec.flags.getLsbD 2 && s.launches.any fun l => l.2.glaze && l.2.lrec.chainId == h.lrec.chainId then
            s.launchError q h.lrec 0xC8
          else
            let used := s.launches.map (·.1)
            let id := nextId used ((s.ctl.lastId + 1) % 2 ^ 32) 258
            let s := (s.onCtl fun c => { c with lastId := id, rrQueue := tset c.rrQueue (prio q) q }).boundary false
            let s := (s.freshAsid h.lrec.asid).setLaunch id { queue := q, priority := h.priority, lrec := h.lrec }
            if (s.launch id).travel then s.sendFirst id else s

/-! ## Completion and stop (R366, R367, R428) -/

/-- The launch's part of LSTATE changes, and with it LSTATE when it names the launch (R370). -/
def State.setLst (s : State) (id n : Nat) : State :=
  let s := s.onLaunch id fun l => { l with lst := n }
  if s.ctl.lstateId.toNat = id then s.onCtl fun c => { c with lstate := n } else s

/-- Nothing of a launch runs any more: every team or traveller has ended. -/
def State.allEnded (s : State) (id : Nat) : Bool :=
  let l := s.launch id
  if l.travel then l.alive.isEmpty && l.spawns.isEmpty && s.packets.all (·.launch != id) && s.groups.all fun e => e.2.launch != id
  else l.ended == l.lrec.teams

/-- Serves what waits for units in every partition of some cores. -/
def State.serveCores (s : State) (cores : List Nat) : State :=
  cores.foldl (fun s c => (List.range 4).foldl (fun s p => s.serve c p) s) s

/-- Frees the holders of a launch and serves what waits for their units; no core has heard of them any more (R198). -/
def State.freeHolders (s : State) (id : Nat) : State :=
  let mine := (s.cores.filter fun c => match c.2.holder with | some h => h.launch == id | none => false).map (·.1)
  let s : State := { s with cores := s.cores.map fun (c : Nat × Core) => (c.1, { c.2 with
      heard := c.2.heard.filter fun e => !mine.contains e.1
      holder := if mine.contains c.1 then none else c.2.holder }) }
  (s.serveCores mine).retireAll

/-- LAUNCH_COMPLETE: the kernel boundary, then the semaphore; the completion record follows (R366). -/
def execLaunchComplete (launch : Nat) (s : State) : Host.Outcome State Fault Refusal :=
  ran s <| match tfind s.launches launch with
    | none => s
    | some l =>
      if l.stop.isSome || l.finished || !s.allEnded launch || s.remotes.any (·.launch == launch) then s
      else
        let s := s.boundary true
        let s := if l.lrec.semAddr = 0 then s
          else s.devStore l.lrec.asid l.lrec.semAddr fun pa => cellsLE pa l.lrec.semValue.toNat 8
        let s := s.freeHolders launch
        let s := if l.draining then s.setLst launch 6 else s
        (s.onLaunch launch fun l => { l with finished := true }).ends l.queue { status := 0, launch, seq := l.lrec.seq }

/-- Everything of a stopped launch goes: groups, teams, saved contexts, offers, packets, holders, ranks and claims; and with the launch
its id and chain id, before its completion record may find room (R360, R367, R446; DEDUCED, unsafe, log 126). -/
def State.freeLaunch (s : State) (id : Nat) : State :=
  let mine := (s.groups.filter fun e => e.2.launch == id).map (·.1)
  let places := s.groups.filterMap fun e => if e.2.launch == id then some (e.2.core, e.2.part) else none
  let s := { s with
    groups := s.groups.filter fun e => e.2.launch != id
    teams := s.teams.filter fun t => t.2.launch != id
    saved := s.saved.filter fun v => v.team.launch != id
    packets := s.packets.filter fun p => p.launch != id
    loads := s.loads.filter fun r => !mine.contains r.group
    msgs := s.msgs.filter fun p => !mine.contains p.group }
  let s := s.mapStacks fun k => (k.dropOffers id).dropReparts mine
  let s := s.mapCores fun c => { c with
    claims := c.claims.filter fun x => !mine.contains x.group
    glz := if c.glz.any mine.contains then none else c.glz
    drains := tdel c.drains id }
  let s := { (s.freeHolders id) with launches := tdel s.launches id }
  (places.foldl (fun s p => s.serve p.1 p.2) (s.clearPins id)).retireAll

/-- The SRCFGs under way of a launch's groups. -/
def State.repartsOf (s : State) (id : Nat) : List (Nat × Repart) :=
  s.stackTab.filterMap fun k => k.2.repart.bind fun r => if (s.grp r.group).launch == id then some (k.1, r) else none

/-- Everything of a stopping launch has come to an instruction boundary and run out: what its strands have begun, its flights, its
copies, its matrix operations, its requests to the outside, and an SRCFG that one of its groups has begun (R367). -/
def State.runOut (s : State) (id : Nat) : Bool :=
  s.groups.all (fun e => e.2.launch != id || (e.2.strands.all (·.begun.isNone) && s.loads.all (·.group != e.1))) &&
  (s.cores.all fun c => (c.2.copies.all fun x => x.launch != id) && c.2.mats.all fun m => m.launch != id) &&
    s.remotes.all (fun r => r.launch != id) && (s.repartsOf id).all fun r => s.repartReady r.1 r.2

/-- Every core takes the messages of some groups that it has not acknowledged. -/
def State.deliverAll (s : State) (gs : List Nat) : State :=
  (s.msgs.filter fun p => gs.contains p.group).foldl (fun s p => s.deliver p.msg)
    { s with msgs := s.msgs.filter fun p => !gs.contains p.group }

/-- The last steps of a stop: what its groups stored is released, what they published arrives, resources are freed, then the
fault record, the ending and the stop of the queue (R367, R370). -/
def State.finishStop (s : State) (launch : Nat) (l : Launch) (f : FaultRec) : State :=
  let s := if l.draining && l.lst != 4 then s.setLst launch 6 else s
  let s := (s.repartsOf launch).foldl (fun s r => s.endRepart r.1) s
  let mine := (s.groups.filter fun e => e.2.launch == launch).map (·.1)
  let s := (mine.foldl State.releaseWhole s).deliverAll mine
  let s := s.performQueued.freeLaunch launch
  let s := if l.lrec.fault = 0 then s else s.devStore l.lrec.asid l.lrec.fault f.cells
  let abort := f.kind = 4
  (s.ends l.queue { status := if abort then 4 else 2, launch, seq := l.lrec.seq, fault := f }).stopQueue l.queue (if abort then 5 else 2)

/-- The numbers of a queue start again (R356). -/
def Queue.renumber (x : Queue) : Queue :=
  { x with cons := 0, done := 0, doneAhead := [], ctail := 0, chead := 0, kicked := 0, reread := 0 }

/-- Changes every queue. -/
def State.mapQueues (s : State) (f : Queue → Queue) : State := { s with queues := s.queues.map fun q => (q.1, f q.2) }

/-- Records the endings of a queue while its ring has room, at most n of them. -/
def State.recordEndings (s : State) (q : Nat) : Nat → State
  | 0 => s
  | n + 1 => (s.completion q).recordEndings q n

/-- The end of a function-level reset, once its launches have stopped: their endings are recorded while the rings have room,
the queues are renumbered, and the event ring is disabled (R356, R473). -/
def State.finishReset (s : State) : State :=
  if !s.ctl.resetting || s.launches.any fun l => !l.2.finished then s
  else
    let s1 := s.queues.foldl (fun (s : State) q => s.recordEndings q.1 q.2.endings.length) s
    let s2 := s1.launches.foldl (fun (s : State) l => { (s.clearPins l.1) with launches := tdel s.launches l.1 }) s1
    (s2.mapQueues fun q => { q.renumber with enable := false, head := none, endings := [] }).onCtl fun c => { c with
      heven := false, resetting := false }

/-- LAUNCH_STOP: once what the launch has begun has run out. -/
def execLaunchStop (launch : Nat) (s : State) : Host.Outcome State Fault Refusal :=
  ran s <| match tfind s.launches launch with
    | none => s
    | some l => match l.stop with
      | none => s
      | some f => if s.runOut launch then (s.finishStop launch l f).finishReset else s

/-! ## The driver's queue writes (R353-R356, R443, R446) -/

/-- What the host writes to the queue registers arrives only while the device runs (R455). -/
def State.whenRunning (s : State) (f : State) : State := if s.ctl.boot = 1 then f else s

/-- QKICK. -/
def State.qkick (s : State) (q : Nat) (t : DWord) : State :=
  let x := s.queue q
  if t.ule x.kicked then s
  else if BitVec.ult (BitVec.ofNat 64 (2 ^ x.size)) (t - x.cons) then s.stopQueue q 4
  else s.setQueue q { x with kicked := t }
def execQkick (queue : Nat) (value : BitVec 64) (s : State) : Host.Outcome State Fault Refusal :=
  ran s (s.whenRunning (s.qkick queue value))

/-- QCFG: an enabled queue keeps its E; an E outside 4 to 16 makes the write void, but where the queue is enabled and E is ignored:
priority and enable are taken then (R353; DESIGN CHOICE, unsafe, log 120). Enabling resumes a stopped queue. -/
def State.qcfg (s : State) (q : Nat) (v : DWord) : State :=
  let x := s.queue q
  let e := (fld v 0 5).toNat
  let on := v.getLsbD 16
  if !x.enable && !(decide (4 ≤ e ∧ e ≤ 16)) then s
  else s.setQueue q { x with
    size := if x.enable then x.size else e
    priority := (fld v 8 8).toNat, enable := on
    stopped := if on then none else x.stopped
    reread := if on then x.reread else 0 }
def execQcfg (queue : Nat) (value : BitVec 64) (s : State) : Host.Outcome State Fault Refusal :=
  ran s (s.whenRunning (s.qcfg queue value))

/-- QCTL bit 0: the waiting head is discarded (R356). -/
def State.qcancel (s : State) (q : Nat) : State :=
  match (s.queue q).head with
  | none => s
  | some h =>
    ((s.onQueue q fun x => { x with head := none }).ends q { status := 4, seq := h.seq, fault := { kind := 4, seq := h.seq } }).stopQueue q 5
def execQctlCancel (queue : Nat) (s : State) : Host.Outcome State Fault Refusal :=
  ran s (s.whenRunning (s.qcancel queue))

/-- QCTL bit 1. A consumed record that has not started, and an ending whose completion record is to come, hold it back too: their
numbers are the old ones, and after the next enable numbers start at 1 (R356; DESIGN CHOICE, unsafe, log 118). -/
def State.qrenumber (s : State) (q : Nat) : State :=
  let x := s.queue q
  if x.enable || x.head.isSome || !x.endings.isEmpty || s.launches.any fun l => l.2.queue == q then s else s.onQueue q Queue.renumber
def execQctlRenumber (queue : Nat) (s : State) : Host.Outcome State Fault Refusal :=
  ran s (s.whenRunning (s.qrenumber queue))

/-- CHEAD: releases completions that wait for room. -/
def State.setChead (s : State) (q : Nat) (v : DWord) : State := s.onQueue q fun x => { x with chead := v }
def execChead (queue : Nat) (value : BitVec 64) (s : State) : Host.Outcome State Fault Refusal :=
  ran s (s.whenRunning (s.setChead queue value))

/-! ## LCMD (R369, R370, R424, R426) -/

/-- LSTATE names a launch: 5 where it is not unfinished. -/
def State.nameLaunch (s : State) (id : Nat) : State :=
  let n := match tfind s.launches id with | some l => if l.finished then 5 else l.lst | none => 5
  s.onCtl fun c => { c with lstateId := BitVec.ofNat 32 id, lstate := n }

/-- The launch an LCMD acts on. -/
def State.commands (s : State) (id : Nat) : Bool :=
  match tfind s.launches id with | some l => !l.finished | none => false

/-- Drain: nothing more is handed out or admitted, offers not admitted return, and the limit starts on each core. A launch
that is stopping ends in the drain (R370). -/
def State.lcmdDrain (s : State) (id : Nat) : State :=
  let l := s.launch id
  let s := s.nameLaunch id
  if !s.commands id || l.draining then s
  else
    let back := s.stackTab.flatMap fun k => (k.2.offers.filter fun o => o.launch == id && !o.saved).map (·.team)
    let s := s.onLaunch id fun l => { l with draining := true, unplaced := l.unplaced ++ back }
    let s := s.mapStacks fun k => { k with offers := k.offers.filter fun o => o.launch != id || o.saved }
    let s := s.mapCores fun c => { c with
      drains := tset c.drains id c.cycle
      holder := c.holder.map fun h => if h.launch = id then { h with admitting := false } else h }
    (s.setLst id 1).drainCheck id
def execLcmdDrain (launch : Nat) (s : State) : Host.Outcome State Fault Refusal := ran s (s.lcmdDrain launch)

/-- A spilled packet as its slot holds it, read by the dispatcher. -/
def State.fromSlot (s : State) (p : Packet) : Except (Byte × Byte × Nat) Packet :=
  let l := s.launch p.launch
  let bad := (pageStarts (l.slotVa p.id) p.slotBytes).findSome? fun a => (s.devFail l.lrec.asid a .read).map fun e => (e.1, e.2, a)
  match bad with
  | some e => .error e
  | none => if p.whole.isSome then .ok p
    else .ok (p.parse fun o n => s.devN l.lrec.asid (l.slotVa p.id + o) n)

/-- Resume of a travel launch: saved allocations of cores that hold another segment now are lost, and every live
traveller is sent from its slot, in increasing id (R426). -/
def State.resumeTravel (s : State) (id : Nat) : State :=
  let l := s.launch id
  let kept := l.savedHolders.filter fun v =>
    ((holdersOf (s.entryFor none l v.segment)).map (·.2)).contains v.core
  let ps := byCount (fun i => (l.spilled.getD i {}).id) (List.range l.spilled.length)
  let s := s.onLaunch id fun l => { l with savedHolders := kept, spilled := [] }
  ps.foldl (fun s i => match s.fromSlot (l.spilled.getD i {}) with
    | .ok p => s.sendPacket none p
    | .error e => s.stopSave id 0 0 e) s

/-- Resume: of a drained launch only. -/
def State.lcmdResume (s : State) (id : Nat) : State :=
  let l := s.launch id
  let s := s.nameLaunch id
  if !s.commands id || l.lst != 2 then s
  else
    let s := s.mapCores fun c => { c with drains := tdel c.drains id }
    let s := (s.onLaunch id fun l => { l with draining := false }).setLst id 3
    let offered (v : SavedTeam) : Bool := (s.stack v.team.place.stack).offers.any fun o => o.launch == id && o.team == v.team.index
    let s := ((s.saved.filter fun v => v.team.launch == id && !offered v)).foldl (fun s v =>
      s.onStack v.team.place.stack fun k => { k with
        offers := k.offers ++ [{ launch := id, team := v.team.index, place := v.team.place, saved := true }] }) s
    if l.travel then s.resumeTravel id else s
def execLcmdResume (launch : Nat) (s : State) : Host.Outcome State Fault Refusal := ran s (s.lcmdResume launch)

/-- Abort: the launch stops with a record of kind 4. -/
def State.lcmdAbort (s : State) (id : Nat) : State :=
  let s := s.nameLaunch id
  if !s.commands id then s else (s.stopLaunch id { kind := 4 }).setLst id 4
def execLcmdAbort (launch : Nat) (s : State) : Host.Outcome State Fault Refusal := ran s (s.lcmdAbort launch)

/-! ## The drain limit on a core (R218, R372, R424) -/

/-- A holder at the limit: its residents and arrivals go to their spill slots and its allocation to the save area, and what was to
be retired with it is (R464). It waits until no resident has anything outstanding. -/
def State.saveHolder (s : State) (core : Nat) (h : Holder) : State :=
  let l := s.launch h.launch
  let here := (s.groups.filter fun e => e.2.core == core && e.2.launch == h.launch && e.2.trav.isSome && e.2.live).map (·.1)
  let s := here.foldl (fun s k => s.onGrp k fun g => { g with saving := true }) s
  let (at_, size) := l.holderSlot core
  let leaving := here.any fun k => ((s.grp k).trav.bind (·.leaving)).isSome
  if leaving || !here.all s.settled || s.allocRead core h.base h.size then s
  else match s.rangeTrap core l.lrec.asid at_ size .write false with
    | some e => s.stopSave h.launch 0 core e
    | none =>
      let s := here.foldl (fun s k =>
        let (p, s) := s.saveTraveller k
        s.onLaunch h.launch fun l => { l with spilled := l.spilled ++ [p] }) s
      let s := h.arrivals.foldl (fun s e =>
        let s := if e.1 || e.2.whole.isSome then s else s.writeSlot core h.launch e.2.id e.2.bytes
        s.onLaunch h.launch fun l => { l with spilled := l.spilled ++ [e.2] }) s
      let v : SavedHolder := { core, segment := h.segment, bytes := cut (s.core core).mem h.base h.size,
                               poison := (s.core core).poisonIn h.base h.size, keys := (s.core core).keysIn h.base h.size
                               acc := cut (s.core core).acc (256 * h.accFirst) (256 * h.accRows) }
      let s := s.onLaunch h.launch fun l => { l with savedHolders := l.savedHolders.filter (·.core != core) ++ [v] }
      (((s.onCore core fun c => { c with holder := none }).mapCores fun c => { c with heard := tdel c.heard core }).serveCores
        [core]).retireAll

/-- DRAIN_LIMIT_SAVE: at a core's drain limit every resident team of the launch is held and saved; without a save area
the launch stops. -/
def execDrainLimitSave (core launch : Nat) (s : State) : Host.Outcome State Fault Refusal :=
  let l := s.launch launch
  ran s <| match tfind (s.core core).drains launch with
    | none => s
    | some c0 =>
      let limit := c0.toNat + 2400 * l.lrec.drainLimit
      let s := s.letPass core (limit - (s.core core).cycle.toNat)
      let mine := (s.teams.filter fun t => t.2.launch == launch && (t.2.core == core || (t.2.pair && t.2.core + 1 == core))).map (·.2.index)
      let holds := match (s.core core).holder with | some h => h.launch == launch | none => false
      if (s.core core).cycle.toNat < limit || !l.draining || l.stop.isSome then s
      else if mine.isEmpty && !holds then s
      else if l.lrec.save = 0 then s.stopSave launch (mine.headD 0) core (0, 0, 0)
      else
        let s := mine.foldl (fun s i => (s.holdTeam launch i).trySave launch i) s
        let s := match (s.core core).holder with
          | some h => if h.launch = launch then s.saveHolder core h else s
          | none => s
        s.drainCheck launch

/-! ## Invalidations (R378) -/

/-- An INVCMD: matching translations leave every TLB, and cached handle entries of the ASID every core, with a new read
of its entry; busy until INVALIDATION_COMPLETE. -/
def State.invalidate (s : State) (asid : Nat) (all tlb hnd : Bool) : State :=
  if s.ctl.inv.isSome then s
  else
    let lo := s.ctl.invaddr.toNat
    let hi := lo + s.ctl.invpages.toNat * 65536
    let hit (e : TlbEntry) : Bool := e.asid == asid && (all || decide (e.va < hi ∧ lo < e.va + e.leaf.size))
    let s := s.onCtl fun c => { c with inv := some (asid, all, tlb, hnd) }
    let s := s.mapCores fun c => { c with
      tlb := if tlb then c.tlb.filter fun e => !hit e else c.tlb
      handles := if hnd then c.handles.filter fun e => e.1 / 4096 != asid else c.handles }
    if hnd then s.takeAsid asid else s
def execInvcmdTlb (asid : BitVec 16) (all hnd : Bool) (s : State) : Host.Outcome State Fault Refusal :=
  ran s (s.invalidate asid.toNat all true hnd)
def execInvcmdHnd (asid : BitVec 16) (s : State) : Host.Outcome State Fault Refusal :=
  ran s (s.invalidate asid.toNat false false true)

/-- Accesses of an ASID that use a translation, or a handle entry where those are dropped, made earlier: loads, requests that
left the package, accesses begun, drains, and copies: a row under way, or a tile copy, which keeps its handle's entry (R252,
R280, R337). -/
def State.usesAsid (s : State) (asid : Nat) (hnd : Bool) : Bool :=
  let of (launch : Nat) : Bool := (s.launch launch).lrec.asid == asid
  s.loads.any (fun r => of (s.grp r.group).launch) || s.remotes.any (·.asid == asid) ||
    s.groups.any (fun e => of e.2.launch && e.2.strands.any (·.begun.isSome)) ||
    s.cores.any fun c => (c.2.mats.any fun m => of m.launch && (m.tilePa.isSome || m.merge.isSome)) ||
      c.2.copies.any fun x => of x.launch && (x.sent || (hnd && x.tile.isSome))

/-- Performs every store on its way: the buffers of all cores, then what every slice and edge die has queued. -/
def State.performAll (s : State) : State :=
  (s.cores.foldl (fun s c => s.drainWcb c.1) s).performQueued

/-- INVALIDATION_COMPLETE: once every access that used what was dropped has been performed. -/
def execInvalidationComplete (s : State) : Host.Outcome State Fault Refusal :=
  ran s <| match s.ctl.inv with
    | none => s
    | some (asid, _, _, hnd) =>
      if s.usesAsid asid hnd then s
      else s.performAll.onCtl fun c => { c with inv := none, invdone := c.invdone + 1 }

end Sys2Proof.Machine
end

