-- ==== Sys2Proof/Machine/Health.lean ====
section
/-!
DEFINITION. The management core: storage errors, self-tests and retirement, the wait-for table and the breaking of its
knots, and the prediction of end of life (R192, R196, R204, R318, R460-R471).
-/
namespace Sys2Proof.Machine

/-! ## Storage errors (R460-R462) -/

/-- The unit code and place of an event record (R475). A place in a buffer has no unit code. -/
def placeUnit (p : EccPlace) : Nat × Nat :=
  match p with
  | .dram pa => (1, pa)
  | .sram stack slice way _ => (2, stack * 2 ^ 16 + slice * 2 ^ 8 + way)
  | .localMem core block => (3, core * 2 ^ 8 + block / 512)
  | .l1Data core bank _ => (3, core * 2 ^ 8 + bank)
  | .regFile core part _ _ => (4, core * 2 ^ 8 + part)
  | .accStore core row => (5, core * 2 ^ 8 + row)
  | .parity core _ _ _ => (6, core * 2 ^ 8)
  | .buffer core _ => (0, core * 2 ^ 8)

/-- Poisons a line where it is held. -/
def State.poisonLine (s : State) (line : Nat) : State := { s with poison := s.poison.filter (· != line) ++ [line] }

/-- The launch that owns an accumulator row of a core (R255, R462). -/
def State.rowOwner (s : State) (core row : Nat) : Option Nat :=
  let has (f n : Nat) : Bool := decide (f ≤ row ∧ row < f + n)
  match s.teams.find? fun t => (t.2.core == core && has t.2.accFirst t.2.accRows) ||
      (t.2.pair && t.2.core + 1 == core && has t.2.accFirstUp t.2.accRows) with
  | some t => some t.2.launch
  | none => match (s.core core).holder with
    | some h => if has h.accFirst h.accRows then some h.launch else none
    | none => none

/-- The effect of an uncorrected error. -/
def State.uncorrected (s : State) (p : EccPlace) : State :=
  match p with
  | .dram pa => s.poisonLine (pa / 128)
  | .sram _ _ _ pa => s.poisonLine (pa / 128)
  | .localMem core block => s.onCore core fun c => { c with memPoison := c.memPoison.filter (· != block) ++ [block] }
  | .l1Data core _ line => s.onCore core fun c =>
      if (tfind c.l1 line).isSome then { c with l1poison := c.l1poison.filter (· != line) ++ [line] } else c
  | .regFile _ _ group reg =>
      if (tfind s.groups group).isSome then s.onGrp group fun g => { g with bad := g.bad.filter (· != reg) ++ [reg] } else s
  | .accStore core row => match s.rowOwner core row with
      | some id => s.stopLaunch id { kind := 1, cause := 0x3F, core, taddr := BitVec.ofNat 64 row }
      | none => s
  | .parity core tlb handle line => s.onCore core fun c => { (match line with | some l => c.dropL1 (· == l) | none => c) with
      tlb := match tlb with | some i => ldel c.tlb i | none => c.tlb
      handles := match handle with | some k => tdel c.handles k | none => c.handles }
  | .buffer core line =>
      if (s.core core).wcb.any fun b => b.pa / 128 == line then
        s.onCore core fun c => { c with wcbPoison := c.wcbPoison.filter (· != line) ++ [line] }
      else
        let mark (q : List SliceReq) : List SliceReq := q.map fun r => if r.line = line then { r with poison := true } else r
        match nodeOf (line * 128) with
        | .stack n => s.onStack n fun k => { k with queue := k.queue.map fun e => (e.1, mark e.2) }
        | .edge e => { s with edge := tset s.edge e (mark (tget [] s.edge e)) }
        | _ => s

/-- The stack whose controller tests a place and whose governor periods, of 1 ms, date its errors; an edge die's goes by
stack 0's (R345, R463). -/
def placeStack (p : EccPlace) : Nat :=
  match p with
  | .dram pa => match nodeOf pa with | .stack n => n | _ => 0
  | .sram stack _ _ _ => stack
  | .localMem core _ | .l1Data core _ _ | .regFile core _ _ _ | .accStore core _ | .parity core _ _ _ | .buffer core _ => stackOf core

/-- The corrected errors of a place in the 24 hours up to now (R464). -/
def State.errorsAt (s : State) (p : EccPlace) : Nat :=
  (s.ctl.errors.filter fun e => e.1 == p && decide ((s.stack (placeStack p)).periods.toNat < e.2 + dayPeriods)).length

/-- A corrected error is counted; those that 24 hours have passed since are forgotten. -/
def State.countError (s : State) (p : EccPlace) : State :=
  let old (e : EccPlace × Nat) : Bool := decide (e.2 + dayPeriods ≤ (s.stack (placeStack e.1)).periods.toNat)
  s.onCtl fun c => { c with errors := c.errors.filter (fun e => !old e) ++ [(p, (s.stack (placeStack p)).periods.toNat)] }

/-- ECC_ERROR: the data is corrected in place and counted, or the error takes its effect; a test of the place is due and an
event is logged. A discarded entry counts as corrected. -/
def execEccError (place : EccPlace) (corrected : Bool) (s : State) : Host.Outcome State Fault Refusal :=
  let (unit, at_) := placeUnit place
  let parity := match place with | .parity _ _ _ _ => true | _ => false
  let owner := match place with | .accStore core row => (s.rowOwner core row).getD 0 | _ => 0
  let s1 := if corrected || parity then s.countError place else s
  let s2 := if corrected && !parity then s1 else s1.uncorrected place
  let s3 := s2.onCtl fun c => { c with tests := c.tests ++ [place] }
  ran s (s3.logEvent (if corrected || parity then 1 else 2) unit (if corrected then 0 else owner) at_ [])

/-! ## Self-tests and retirement (R463, R464) -/

/-- Adds an item to a list that holds it at most once. -/
def addOnce {α : Type} [DecidableEq α] (xs : List α) (x : α) : List α := if xs.contains x then xs else xs ++ [x]

/-- The retirement that a lasting fault leads to: at once, or for a bank or a partition in use once what is resident there has
left (R464). -/
def State.retireUnit (s : State) (p : EccPlace) : State :=
  let bank (core b : Nat) : State :=
    (s.onCore core fun c => if c.shutBanks.contains b then c else { c with banksDue := c.banksDue ++ [b] }).retireDue core
  match p with
  | .dram pa => s.onCtl fun c => { c with framesOut := (pa / 65536 :: Config.rowFrames pa).foldl addOnce c.framesOut }
  | .sram stack slice way _ => s.onStack stack fun k => { k with
      waysOut := addOnce k.waysOut (slice, way)
      tier := k.tier.filter fun e => !(e.1 % 16 == way && e.1 / (16 * 8192) == slice) }
  | .localMem core block => bank core (block / 512)
  | .l1Data core b _ => bank core b
  | .regFile core part _ _ =>
    (s.onCore core fun c => if c.shutParts.contains part then c else { c with partsDue := c.partsDue ++ [part] }).retireDue core
  | _ => s

/-- The test of a way of the SRAM tier writes back or drops its cache lines; a pinned line, which R332 writes back in three other
cases only, stays as it is (R332, R463, log 96). -/
def Stack.testWay (k : Stack) (slice way : Nat) : Stack :=
  { k with tier := k.tier.filter fun e => !(e.1 % 16 == way && e.1 / (16 * 8192) == slice && e.2.pin.isNone) }

/-- SELF_TEST of a place whose error is still to be tested: a soft error, or a lasting fault and its retirement; a third
corrected error within 24 hours makes it lasting whatever the test shows. Units without a test have none. -/
def execSelfTest (place : EccPlace) (passed : Bool) (s : State) : Host.Outcome State Fault Refusal :=
  let (unit, at_) := placeUnit place
  ran s <| if !s.ctl.tests.contains place then s
    else
      let s := s.onCtl fun c => { c with tests := c.tests.erase place }
      let s := match place with
        | .sram stack slice way _ => s.onStack stack fun k => k.testWay slice way
        | _ => s
      if unit = 0 ∨ 5 ≤ unit then s
      else if passed && decide (s.errorsAt place < 3) then s.logEvent 3 unit 0 at_ []
      else (s.retireUnit place).logEvent 4 unit 0 at_ []

/-- WEAR_PREDICTION: once a day, a stack's predicted end of life, made now, and the day's electromigration reading. Its age is
counted from here (State.ctlRead). -/
def execWearPrediction (stack eol em : Nat) (s : State) : Host.Outcome State Fault Refusal :=
  ran s (s.onStack stack fun k => { k with wearEol := BitVec.ofNat 64 (eol % 2 ^ 32), wearDay := some k.periods.toNat, wearEm := k.wearEm + BitVec.ofNat 64 em })

/-! ## The wait-for table (R190, R299, R305, R311, R313, R468) -/

/-- An agent: a joined set of a group. -/
abbrev Agent := Nat × Nat

/-- The waits that enter the table. -/
def Wait.listed (w : Wait) : Bool :=
  match w with
  | .barrier _ | .queue _ | .palette | .token _ | .regang | .glzUnit | .glzRound _ _ | .glzCarry | .glzPop _ => true
  | .matrix | .matrixRoom _ | .load | .acks | .srcfg _ | .remoteWrites | .performed | .engines | .departure => false

/-- The wait of an agent, and its sequence number. -/
def State.waitOf (s : State) (a : Agent) : Option Wait :=
  let g := s.grp a.1
  (g.strand ((g.members a.2).headD 0)).wait
def State.seqOf (s : State) (a : Agent) : Nat :=
  let g := s.grp a.1
  (g.strand ((g.members a.2).headD 0)).waitSeq

/-- The agents in the table: those whose listed wait has not ended. -/
def State.waiters (s : State) : List Agent :=
  s.groups.flatMap fun e =>
    if (s.launch e.2.launch).stop.isSome then []
    else (e.2.sets.filter fun j => (match s.waitOf (e.1, j) with | some w => w.listed | none => false) && !s.waitOver e.2 e.1 j).map
      fun j => (e.1, j)

/-- Every joined set of a resident group; none when the group has ended or is not resident. -/
def State.agentsOf (s : State) (gk : Nat) : Option (List Agent) :=
  match tfind s.groups gk with
  | some g => if g.live then some (g.sets.map fun j => (gk, j)) else none
  | none => none

/-- The agents of several groups. -/
def State.agentsOfAll (s : State) (ks : List Nat) : Option (List Agent) :=
  ks.foldl (fun a k => match a, s.agentsOf k with | some x, some y => some (x ++ y) | _, _ => none) (some [])

/-- The group of a rank that is resident. -/
def State.rankAgents (s : State) (launch r : Nat) : Option (List Agent) := (s.rankGroup launch r).bind s.agentsOf

/-- The signallers of a queue wait: the special-function unit and the glaze unit are no agents. -/
def State.queueSignals (s : State) (gk j : Nat) (needs : List (Nat × Nat)) : Option (List Agent) :=
  let g := s.grp gk
  let lacking := (needs.filter fun e => (g.activeOf j).any fun l => !s.queueReady g l e.1 e.2).map (·.1)
  lacking.foldl (fun a q =>
    let one := if q = 6 ∨ q = 7 then (s.partner g).bind s.agentsOf
      else if (q = 2 ∨ q = 3) ∧ g.glz.cin.isNone ∧ 0 < g.glz.rank then s.rankAgents g.launch (g.glz.rank - 1)
      else none
    match a, one with | some x, some y => some (x ++ y) | _, _ => none) (some [])

/-- The expected signallers of an agent's wait; none for a wait that is never a member of a knot. Of the groups of a
partition, those that hold units stand for a palette wait, travellers among them, whose registers are units of their carrier groups
(R402, R408); a group still to be restored holds none (log 95). -/
def State.signals (s : State) (a : Agent) : Option (List Agent) :=
  let g := s.grp a.1
  match s.waitOf a with
  | some (.barrier n) =>
    some ((s.groups.filter fun e => e.2.launch == g.launch && e.2.team == g.team).flatMap fun e =>
      (e.2.strands.filter fun x => !x.ended && !x.barPend.getLsbD n).map fun x => (e.1, x.jset))
  | some (.queue needs) | some (.glzPop needs) => s.queueSignals a.1 a.2 needs
  | some .palette => s.agentsOfAll ((s.groups.filter fun e =>
      e.2.core == g.core && e.2.part == g.part && !e.2.restoring && (e.2.trav.isNone || e.2.live)).map (·.1))
  | some .regang => some ((g.strands.filter fun x => !x.ended && !x.arrived).map fun x => (a.1, x.jset))
  | some .glzUnit => (s.core g.core).glz.bind s.agentsOf
  | some (.glzRound r _) =>
    let c := (s.launch g.launch).chain
    if c.round ≠ r then none
    else ((List.range (s.launch g.launch).lrec.chainLen).find? fun k => !c.sent.contains k).bind (s.rankAgents g.launch)
  | some .glzCarry => if g.glz.rank = 0 then none else s.rankAgents g.launch (g.glz.rank - 1)
  | _ => none

/-! ## Knots (R469) -/

/-- Takes out, n times, the agents with a signaller outside the set. -/
def State.shrink (s : State) : Nat → List Agent → List Agent
  | 0, xs => xs
  | n + 1, xs => s.shrink n (xs.filter fun a => match s.signals a with | some ys => ys.all xs.contains | none => false)

/-- What an agent waits for, directly or through others, itself included. -/
def State.reach (s : State) : Nat → List Agent → List Agent
  | 0, xs => xs
  | n + 1, xs => s.reach n (xs.foldl (fun acc a => ((s.signals a).getD []).foldl addOnce acc) xs)

/-- The knots that hold no smaller knot, each as its members in the order of the table. -/
def State.knots (s : State) : List (List Agent) :=
  let all := s.waiters
  let n := all.length
  let w := s.shrink n all
  let closed (a : Agent) := s.reach n [a]
  (w.filter fun a => (closed a).all fun b => (closed b).contains a).foldl (fun ks a =>
    if ks.any (·.contains a) then ks else ks ++ [w.filter (closed a).contains]) []

/-- The member whose wait is the youngest. -/
def State.youngest (s : State) : List Agent → Agent
  | [] => (0, 0)
  | [a] => a
  | a :: b :: t => let y := s.youngest (b :: t)
                   if s.seqOf y < s.seqOf a then a else y

/-- WAIT_FOR_WALK: each knot is logged and its youngest member chosen. -/
def execWaitForWalk (s : State) : Host.Outcome State Fault Refusal :=
  ran s (s.knots.foldl (fun t k =>
    let a := s.youngest k
    let members := k.map s.seqOf
    let b : Break := { seq := s.seqOf a, group := a.1, jset := a.2, members }
    (t.onCtl fun c => { c with knots := c.knots + 1, breaks := c.breaks ++ [b] }).logEvent 5 7 (s.grp a.1).launch b.seq members) s)

/-- TINFO[15:8] of a broken wait (R212). -/
def Wait.code (w : Wait) : Byte :=
  match w with
  | .palette => 1 | .queue _ => 2 | .barrier _ => 3 | .regang => 4 | .token _ => 5 | _ => 6

/-- What the waiting instruction of a broken wait entered is withdrawn: an arrival, a palette claim, or the leaving that a
GLZLEAVE asked for, unless another set of the group asks for it, and which it asks for again when TRET executes it (R196, R204,
R318). -/
def State.withdraw (s : State) (a : Agent) (w : Wait) : State :=
  match w with
  | .barrier _ => s.onGrp a.1 fun g => g.onSet a.2 fun x => match x.barMark with
    | some n => { x with barPend := x.barPend &&& ~~~((1 : BitVec 16) <<< n) }
    | none => x
  | .palette => s.onCore (s.grp a.1).core fun c => { c with
      claims := c.claims.filter fun c => !(c.group == a.1 && c.jset == a.2) }
  | .glzRound _ true => s.onGrp a.1 fun g =>
      let other (j : Nat) : Bool := j != a.2 && match (g.strand ((g.members j).headD 0)).wait with
        | some (.glzRound _ leave) => leave
        | _ => false
      { g with glz := { g.glz with leaving := g.sets.any other } }
  | _ => s

/-- The trap of a broken wait (R192, R196, R204, R318). -/
def State.breakWait (s : State) (a : Agent) (w : Wait) : State :=
  let s := (s.withdraw a w).takeTrap a.1 ((s.grp a.1).members a.2) { cause := 0x32, detail := w.code } false
  if w = .palette then s.serve (s.grp a.1).core (s.grp a.1).part else s

/-- KNOT_BREAK_DELIVER: only while the chosen agent is still in the same wait (R470). -/
def execKnotBreakDeliver (seq : Nat) (s : State) : Host.Outcome State Fault Refusal :=
  ran s <| match s.ctl.breaks.find? (·.seq == seq) with
    | none => s
    | some b =>
      let a : Agent := (b.group, b.jset)
      let s1 := s.onCtl fun c => { c with breaks := c.breaks.erase b }
      let launch := (s.grp b.group).launch
      if s.waiters.contains a && s.seqOf a == seq then
        match s.waitOf a with
        | some w => (s1.breakWait a w).logEvent 6 7 launch seq b.members
        | none => s1
      else (s1.onCtl fun c => { c with abandoned := c.abandoned + 1 }).logEvent 7 7 launch seq b.members

end Sys2Proof.Machine
end

