-- ==== Sys2Proof/Machine/Matrix.lean ====
section
/-!
DEFINITION. The matrix engine: operand rows and their decoding, the block sums of R64, stores and drains through a
format slot, the accumulator instructions, and the events of the engine (R255-R284).
-/
namespace Sys2Proof.Machine

/-! ## Slot kinds and rows (R261-R264) -/

/-- K of a slot word (R261). -/
def slotK (w : Half) : Nat :=
  match slotKind w with
  | 7 | 8 => 32 | 4 | 6 => 128 | 5 => if slotMb w ≤ 4 then 128 else 64 | _ => 64

def wideKind (w : Half) : Bool := slotKind w == 7 || slotKind w == 8

/-- Bits of an element of a kind that is packed without blocks. -/
def matBits (k : Nat) : Nat := match k with | 2 | 3 => 6 | 4 => 4 | 7 | 8 => 16 | _ => 8

/-- Bytes of the elements of a row of n elements (R262). -/
def elemBytes (w : Half) (n : Nat) : Nat :=
  match slotKind w with
  | 5 => n / 16 * (1 + 2 * slotMb w) | 6 => (n + 4) / 5 | k => n * matBits k / 8

/-- Bytes of a row, its scale bytes included. -/
def rowBytes (w : Half) (n : Nat) : Nat := elemBytes w n + if slotScale w = 1 then n / 16 else 0

/-- Element i of a row whose bytes are given (R56, R60, R61, R264). -/
def rowElem (w : Half) (byte : Nat → Byte) (i : Nat) : FVal :=
  match slotKind w with
  | 5 =>
    let mb := slotMb w
    let a := i / 16 * (1 + 2 * mb)
    let e := (byte a).toNat
    let field := bytesLE byte (a + 1) (2 * mb)
    let m := wrapInt mb true ((field / 2 ^ (mb * (i % 16)) % 2 ^ mb : Nat) : Int)
    if e = 255 then .nan false 0 23 else .num (decide (m < 0)) m.natAbs ((e : Int) - 127 - (mb - 1 : Int))
  | 6 =>
    let t := tritOf (byte (i / 5)).toNat (i % 5)
    .num (decide (t < 0)) t.natAbs 0
  | 9 =>
    let x := wrapInt 8 true ((byte i).toNat : Int)
    .num (decide (x < 0)) x.natAbs 0
  | k =>
    let b := matBits k
    (kindFmt k).decode (bytesLE byte (b * i / 8) 2 / 2 ^ (b * i % 8) % 2 ^ b)

/-- An E8M0 scale (R59). -/
def e8m0 (b : Byte) : FVal := if b = 255 then .nan false 0 23 else .num false 1 ((b.toNat : Int) - 127)

/-- The E8M0 scale of block b of a row of n elements, 1 where the slot has none. -/
def rowScale (w : Half) (n : Nat) (byte : Nat → Byte) (b : Nat) : FVal :=
  if slotScale w = 1 then e8m0 (byte (elemBytes w n + b)) else .num false 1 0

/-! ## Block sums (R64) -/

/-- An exact result as a value; an invalid one is a NaN. -/
def Exact.val : Exact → FVal
  | .nan s p w => .nan s p w | .invalid => .nan false 0 23 | .inf s => .inf s | .fin x => .num x.neg x.m x.e

/-- The exact product of values, a NaN where one is or where 0 meets an infinity. -/
def mulNan (x y : FVal) : FVal := (mulX x y).val

/-- One block: the exact sum of products times the scales, rounded to f32; every NaN is that of R53. An exact zero sum has the
sign R47 gives it, and a negative scale then changes that sign as it does any other: R64 does not say whether R47 is applied
before or after the scales (DESIGN CHOICE, unsafe, log 80). -/
def blockSum (pc : DWord) (ps : List (FVal × FVal)) (scales : List FVal) : Nat :=
  let products := ps.map fun e => mulNan e.1 e.2
  let s := ((firstNan products).getD (sumExact 0 products)).val
  match scales.foldl mulNan s with
  | .nan _ _ _ => f32.invalid 63 pc
  | v => f32.finish 0 0 false 63 pc (.ofVal v)

/-- Adds a block sum to an element, which keeps its bits where it is a NaN. -/
def accAdd (pc : DWord) (c : Word) (s : Nat) : Word :=
  if (f32Val' c).isNan then c else BitVec.ofNat 32 (f32.finish 0 0 false 63 pc (addX 0 (f32Val' c) (f32.decode s)))
where f32Val' (w : Word) : FVal := f32.decode w.toNat

/-! ## Conversion through a slot (R278) -/

/-- An exact value converted to a kind under rounding mode 0. -/
def convExact (k : Nat) (pc : DWord) (x : Exact) : Nat :=
  if k = 9 then
    toBits 8 (match x with
      | .fin m => satInt 8 true (roundInt 0 0 m)
      | .inf s => if s then -128 else 127
      | _ => 0)
  else (kindFmt k).finish 0 0 false 63 pc x

/-- x / SCL as IEEE division; the NaN it produces is that of R53 as an f32. -/
def divScale (pc : DWord) (x s : FVal) : Exact :=
  match divX x s with | .invalid => .ofVal (f32.decode (f32.invalid 63 pc)) | r => r

/-- The largest finite value of a kind. -/
def kindMax (k : Nat) : FVal := if k = 9 then .num false 127 0 else (kindFmt k).decode (kindFmt k).maxCode

/-- The smallest t with |m| at most M 2^t, for m and M not 0. -/
def ceilLog (m big : Mag) : Int :=
  let t := m.top - big.top
  let q := min m.e (big.e + t)
  if ({ m with neg := false } : Mag).scaled q ≤ ({ big with e := big.e + t } : Mag).scaled q then t else t + 1

/-- The scale byte of a block (R278). -/
def blockExp (k : Nat) (xs : List FVal) : Nat :=
  if xs.any FVal.isNan then 255
  else
    let ms := (xs.filter fun x => !x.isInf && !x.isZero).map FVal.mag
    match ms with
    | [] => 127
    | _ => (min 254 (max 0 (127 + (ms.map fun m => ceilLog m (kindMax k).mag).foldl max (-1000)))).toNat

/-- A row of elements converted through a slot: the bytes of its elements, then its scale bytes. -/
def convRow (w : Half) (scl : Word) (pc : DWord) (xs : List Word) : List Byte :=
  let k := slotKind w
  let vals := xs.map fun x => f32.decode x.toNat
  let n := xs.length
  let exps := (List.range (n / 16)).map fun b => blockExp k ((vals.drop (16 * b)).take 16)
  let code (e : Nat × FVal) : Nat :=
    let (i, x) := e
    match slotScale w with
    | 1 =>
      let ex := exps.getD (i / 16) 127
      if ex = 255 then convExact k pc (.nan x.neg? 0 23)
      else convExact k pc (match x with | .num s m q => .fin { neg := s, m, e := q + 127 - ex } | y => .ofVal y)
    | 2 => convExact k pc (divScale pc x (f32.decode scl.toNat))
    | _ => convExact k pc (.ofVal x)
  let codes := (List.range n).zip vals |>.map code
  let packed := codes.foldr (fun c a => c + 2 ^ matBits k * a) 0
  (List.range (elemBytes w n)).map (fun i => BitVec.ofNat 8 (packed / 256 ^ i)) ++
    (if slotScale w = 1 then exps.map (BitVec.ofNat 8) else [])

/-! ## Accumulator records (R258-R260) -/

def accRow (r : Nat) : Nat := r % 256
def accCol (r : Nat) : Nat := r / 256 % 256
def accPs (r : Nat) : Bool := decide (r / 2 ^ 16 % 2 = 1)
def accHs (r : Nat) : Nat := r / 2 ^ 24 % 16
def accWs (r : Nat) : Nat := r / 2 ^ 28 % 16

/-- The strands that perform an operation each, by k of ps = 1; one operation with k = 0 under ps = 0 (R260, R402). -/
def State.opKs (s : State) (r : Nat) : List Nat := if accPs r then s.ks else [0]

/-- The check of R259. -/
def State.accTrap (s : State) (r : Nat) (single noPs : Bool) : Option Trap :=
  let q := (s.accOf s.g).2
  if r / 2 ^ 17 % 128 ≠ 0 ∨ 2 ^ 32 ≤ r ∨ accRow r % 16 ≠ 0 ∨ accCol r % 16 ≠ 0 ∨ (single && decide (accHs r ≠ 0 ∨ accWs r ≠ 0)) ∨
      (accPs r && (decide (accHs r ≠ 0) || noPs)) ∨
      (s.opKs r).any (fun k => decide (q < accRow r + 16 * k + 16 * (accHs r + 1))) ∨ 256 < accCol r + 16 * (accWs r + 1) then
    some { cause := 0x12, taddr := BitVec.ofNat 64 r, detail := 4 }
  else none

/-- Base and stride of a record are multiples of 4 (R263). -/
def alignTrap (r : Nat) : Option Trap :=
  if recBase r % 4 ≠ 0 ∨ recStride r % 4 ≠ 0 then some { cause := 0x0A, taddr := BitVec.ofNat 64 r } else none

/-- The spans of rows 0 to n - 1 of len bytes, shifted by 16 k for each operation: the last row reaches furthest. -/
def rowsSpan (r : Nat) (ks : List Nat) (n len : Nat) : List (Int × Nat) :=
  ks.map fun k => (0, (16 * k + n - 1) * recStride r + len)

/-! ## Issue (R265, R270, R271) -/

/-- A set that brings n operations waits while the engine has no room for them (R270). -/
def State.withRoom (s : State) (n : Nat) (k : State) : State :=
  if 64 < (s.core s.g.core).mats.length + n then s.await (.matrixRoom n) else k

/-- The operation of strand k on a record's region, with what every kind of operation holds. -/
def State.matOp (s : State) (kind : MatKind) (r k : Nat) : MatOp :=
  { kind, group := s.gk, strands := if accPs r then [k] else s.ks, launch := s.g.launch, team := s.g.team, pc := s.pc
    arrived := (s.core s.g.core).cycle.toNat, row := (s.accOf s.g).1 + accRow r + 16 * k, col := accCol r
    rows := 16 * (accHs r + 1), cols := 16 * (accWs r + 1) }

/-- Queues operations in the engine. -/
def State.queueOps (s : State) (ops : List MatOp) : State :=
  ops.foldl (fun s m =>
    let (id, s) := s.newKey
    s.onCore s.g.core fun c => { c with mats := c.mats ++ [{ m with id }] }) s

def State.slotScl (s : State) (k : Nat) : Word := if slotScale (s.slotWord k) = 2 then s.g.scale k else 0x3F800000

/-- MMA and MMAR (R265, R267). -/
def State.mma (s : State) (sa sb : BitVec 6) (fa fb : BitVec 3) (sc : BitVec 6) (remote : Bool) : State :=
  let ra := (s.g.sr sa.toNat).toNat
  let rb := (s.g.sr sb.toNat).toNat
  let rc := (s.g.sr sc.toNat).toNat
  let wa := s.slotWord fa.toNat
  let wb := s.slotWord fb.toNat
  let n := min (slotK wa) (slotK wb)
  let ks := s.opKs rc
  if s.foreignS sa.toNat || s.foreignS sb.toNat || s.foreignS sc.toNat then s.trap { cause := 0x03 }
  else s.withRoom ks.length <|
    if wideKind wa != wideKind wb then s.trap { cause := 0x03 }
    else match (alignTrap ra).or <| (alignTrap rb).or <| (s.recTrap ra remote (rowsSpan ra ks 16 (rowBytes wa n))).or <|
        (s.recTrap rb remote (rowsSpan rb [0] 16 (rowBytes wb n))).or (s.accTrap rc true false) with
    | some t => s.trap t
    | none => match s.recTarget ra, s.recTarget rb with
      | some ta, some tb =>
        s.done (s.queueOps (ks.map fun k => { s.matOp .mma rc k with
          fa := wa, fb := wb, fbSlot := fb.toNat, ta := s.slotScl fa.toNat, tb := s.slotScl fb.toNat
          aCore := ta.core, aOff := ta.base + recBase ra + 16 * k * recStride ra, aStride := recStride ra
          bCore := tb.core, bOff := tb.base + recBase rb, bStride := recStride rb, aBase := ta.base, bBase := tb.base })) 1
      | _, _ => s.trap { cause := 0x12, detail := 1 }

def execMma (sa sb : BitVec 6) (fa fb : BitVec 3) (sc : BitVec 6) (s : State) : Host.Outcome State Fault Refusal :=
  ran s (s.mma sa sb fa fb sc false)
def execMmar (sa sb : BitVec 6) (fa fb : BitVec 3) (sc : BitVec 6) (s : State) : Host.Outcome State Fault Refusal :=
  ran s (s.mma sa sb fa fb sc true)

/-- ACCZ (R275). -/
def execAccz (a : Reg) (s : State) : Host.Outcome State Fault Refusal :=
  let r := (s.rdS a).toNat
  ran s <| s.withScalars [a] <| s.withRoom (s.opKs r).length <|
    match s.accTrap r false false with
    | some t => s.trap t
    | none => s.done (s.queueOps ((s.opKs r).map (s.matOp .zero r))) 1

/-- The scratchpad side of an operation on a record, rows of len bytes: checked, then given to each operation. R276 and R277
give no order between this check and that of the accumulator record: this one comes first (DESIGN CHOICE, unsafe, log 89). -/
def State.withRows (s : State) (r racc n len : Nat) (k : (Nat → MatOp → MatOp) → State) : State :=
  match (alignTrap r).or (s.recTrap r false (rowsSpan r (s.opKs racc) n len)) with
  | some t => s.trap t
  | none =>
    let t := s.ownTarget
    k fun i m => { m with aCore := t.core, aOff := t.base + recBase r + 16 * i * recStride r, aStride := recStride r, aBase := t.base }

/-- ACCLD (R276). -/
def execAccld (a b : Reg) (s : State) : Host.Outcome State Fault Refusal :=
  let ra := (s.rdS a).toNat
  let rb := (s.rdS b).toNat
  ran s <| s.withScalars [a, b] <| s.withRoom (s.opKs ra).length <|
    s.withRows rb ra (16 * (accHs ra + 1)) (64 * (accWs ra + 1)) fun f =>
      match s.accTrap ra false false with
      | some t => s.trap t
      | none => s.done (s.queueOps ((s.opKs ra).map fun k => f k (s.matOp .load ra k))) 1

/-- The kinds ACCST and ACCDR take (R277). -/
def storeKind (w : Half) : Bool := slotKind w != 5 && slotKind w != 6

/-- ACCST (R277). -/
def execAccst (d a : Reg) (slot : BitVec 3) (s : State) : Host.Outcome State Fault Refusal :=
  let rd := (s.rdS d).toNat
  let ra := (s.rdS a).toNat
  let w := s.slotWord slot.toNat
  ran s <| s.withScalars [d, a] <| s.withRoom (s.opKs ra).length <|
    if !storeKind w then s.trap { cause := 0x03 }
    else s.withRows rd ra (16 * (accHs ra + 1)) (rowBytes w (16 * (accWs ra + 1))) fun f =>
      match s.accTrap ra false false with
      | some t => s.trap t
      | none => s.done (s.queueOps ((s.opKs ra).map fun k =>
          { f k (s.matOp .store ra k) with fa := w, ta := s.slotScl slot.toNat })) 1

/-- Where the merge of a drain goes: nothing, a physical address, or a trap at issue (R279, R280). -/
def State.mergeAt (s : State) (va : Nat) : Except Trap (Option Nat) :=
  if va = 0 then .ok none
  else match s.addrTrap va 4 (.atomic false) with
    | some t => .error t
    | none => .ok (some (s.pa va))

/-- The operations of a drain, with its merge. -/
def State.drainOps (s : State) (ra va : Nat) (merge : Option Nat) (w : Half) (scl : Word) (f : Nat → MatOp → MatOp) : State :=
  s.done ((s.queueOps ((s.opKs ra).map fun k => { f k (s.matOp .drain ra k) with
    fa := w, ta := scl, merge, mergeKey := s.vkey va, mergeVa := BitVec.ofNat 64 va, mode := s.mode })).keepXlate s.g.core (s.asidOf s.g) va) 2

/-- ACCDR (R279-R281). After the order that R279 and R280 give, a scratchpad target is checked before the accumulator record, and
a tile's pages before the merge word (DESIGN CHOICE, unsafe, log 89). -/
def execAccdr (d a b : Reg) (slot : BitVec 3) (s : State) : Host.Outcome State Fault Refusal :=
  let o := (s.rdS d).toNat
  let ra := (s.rdS a).toNat
  let va := (s.rdS b).toNat
  let at_ : DWord := BitVec.ofNat 64 o
  let w := s.slotWord slot.toNat
  let scl := s.slotScl slot.toNat
  let rows := 16 * (accHs ra + 1)
  let len := rowBytes w (16 * (accWs ra + 1))
  ran s <| s.withScalars [d, a, b] <| s.withRoom (s.opKs ra).length <|
    if !storeKind w then s.trap { cause := 0x03 }
    else match s.descTrap o 32 with
    | some t => s.trap t
    | none =>
      let target := s.descN o 8
      let mode := s.descN (o + 8) 4
      let t0 := s.descN (o + 0x0C) 4
      let t1 := s.descN (o + 0x10) 4
      let t2 := s.descN (o + 0x14) 4
      if 2 ≤ mode ∨ s.descN (o + 0x18) 8 ≠ 0 ∨ (mode = 0 ∧ (t0 ≠ 0 ∨ t1 ≠ 0 ∨ t2 ≠ 0)) ∨ (mode = 1 ∧ 4096 ≤ target) then
        s.trap { cause := 0x12, taddr := at_, detail := 2 }
      else if mode = 0 then
        s.withRows target ra rows len fun f =>
          match s.accTrap ra false false, s.mergeAt va with
          | some t, _ => s.trap t
          | none, .error t => s.trap t
          | none, .ok m => s.drainOps ra va m w scl f
      else match s.accTrap ra false true with
        | some t => s.trap t
        | none =>
          let core := s.g.core
          let asid := s.asidOf s.g
          let (h, s1) := s.handleEntry core asid target
          if !s.handleValid core asid h then s.trap { cause := 0x11, taddr := at_, detail := 3 }
          else if h.n0 ≤ t0 ∨ h.n1 ≤ t1 ∨ h.n2 ≤ t2 then s.trap { cause := 0x11, taddr := at_, detail := 4 }
          else if rows * len ≠ h.b then s.trap { cause := 0x11, taddr := at_, detail := 5 }
          else
            let l := h.linear t0 t1 t2
            let tva := (if h.shadow then h.under else h.front) + l * h.d
            match s.rangeTrap core asid tva h.b .write true, s.mergeAt va with
            | some e, _ => s.trap { cause := e.1, taddr := BitVec.ofNat 64 e.2.2, detail := e.2.1 }
            | none, .error t => s.trap t
            | none, .ok m => (s1.keepRange core asid tva h.b).drainOps ra va m w scl fun _ op =>
                { op with tilePa := some (s.paOf core asid tva), tileSlice := h.slice l, tileKey := s.keyOf core asid tva }

/-! ## ACCRD, ACCWR, MWAIT, MSCL (R274, R282-R284) -/

/-- Registers that hold a tile in a group of a width. -/
def tileRegs (w : Nat) : Nat := 256 / w

/-- The operand trap of ACCRD and ACCWR on their register base (R282). -/
def State.tileTrap (s : State) (r : Reg) : Option Trap :=
  match r with
  | .v i => if 176 < i.val + tileRegs s.g.width then some { cause := 0x03 }
      else if s.g.held < i.val + tileRegs s.g.width then some { cause := 0x04 } else none
  | _ => some { cause := 0x03 }

/-- The matrix operations of the issuing set's strands have completed. -/
def State.matDone (s : State) : Bool :=
  (s.core s.g.core).mats.all fun m => !(m.group == s.gk && m.strands.any s.ks.contains)

def State.accWord (s : State) (core row col : Nat) : Word := tget 0 (s.core core).acc (256 * row + col)
def State.putAcc (s : State) (core row col : Nat) (x : Word) : State :=
  s.onCore core fun c => { c with acc := tput 0 c.acc (256 * row + col) x }

/-- The elements of a tile that belong to a lane: element number and register offset. -/
def laneElems (w l : Nat) : List (Nat × Nat) := (List.range (256 / w)).map fun k => (k * w + l, k)

def execAccrd (d a : Reg) (s : State) : Host.Outcome State Fault Refusal :=
  let r := (s.rdS a).toNat
  let f := (s.accOf s.g).1
  ran s <| s.withScalars [a] <| match (s.tileTrap d).or (s.accTrap r true true) with
    | some t => s.trap t
    | none =>
      if s.matDone then
        s.done (s.onG fun g => s.lanes.foldl (fun g l => (laneElems g.width l).foldl (fun g e =>
          g.putV (regIdx d + e.2) l (s.accWord g.core (f + accRow r + e.1 / 16) (accCol r + e.1 % 16))) g) g) 1
      else s.await .matrix

def execAccwr (d b : Reg) (s : State) : Host.Outcome State Fault Refusal :=
  let r := (s.rdS d).toNat
  ran s <| s.withScalars [d] <| s.withRoom 1 <| match (s.tileTrap b).or (s.accTrap r true true) with
    | some t => s.trap t
    | none =>
      let words := s.lanes.flatMap fun l => (laneElems s.g.width l).map fun e => (e.1, s.g.vr (regIdx b + e.2) l)
      s.done (s.queueOps [{ s.matOp .write r 0 with words }]) 1

def execMwait (s : State) : Host.Outcome State Fault Refusal :=
  ran s (if s.matDone then s.done s 1 else s.await .matrix)

def execMscl (a b : Reg) (s : State) : Host.Outcome State Fault Refusal :=
  ran s (s.withScalars [a, b] (s.done (s.onG fun g =>
    { g with scl := tput 0x3F800000 g.scl ((s.rdS a).toNat % 8) ((s.rdS b).setWidth 32) }) 1))

/-! ## The effect of an operation (R264, R266, R275-R281) -/

/-- A byte the engine reads of local memory: a free value in a block that holds poison (log 3). -/
def State.engByte (s : State) (core off : Nat) : Byte :=
  if s.locPoison core off 1 then (Config.freeWord (s.free * 2 ^ 32 + core * 2 ^ 20 + off)).setWidth 8 else s.locByte core off

/-- The elements of a row of n as values, with the row's scales by block. -/
structure MatRow where
  vals : List FVal
  scales : List FVal

/-- n elements of a row from its bytes. -/
def matRow (w : Half) (n : Nat) (bytes : List Byte) : MatRow :=
  let byte (i : Nat) : Byte := bytes.getD i 0
  { vals := (List.range n).map (rowElem w byte), scales := (List.range (n / 16)).map (rowScale w n byte) }

/-- The bytes of 16 rows of len bytes that the engine reads of local memory. -/
def State.engRows (s : State) (core off stride len : Nat) : List (List Byte) :=
  (List.range 16).map fun i => (List.range len).map fun b => s.engByte core (off + i * stride + b)

/-- The reserved ternary bytes among the rows of an operand, as places (R264). -/
def badTrits (w : Half) (n core off stride : Nat) (rows : List (List Byte)) : List (Nat × Nat) :=
  if slotKind w != 6 then []
  else rows.zipIdx.flatMap fun r => (r.1.take (elemBytes w n)).zipIdx.filterMap fun b =>
    if 243 ≤ b.1.toNat then some (core, off + r.2 * stride + b.2) else none

/-- A list with each item once. -/
def onceEach (xs : List (Nat × Nat)) : List (Nat × Nat) := xs.foldl (fun a x => if a.contains x then a else a ++ [x]) []

/-- The 16 x 16 update of one strand operation, with the B its pass read (R64, R266, R269). -/
def State.mmaEffect (s : State) (core : Nat) (m : MatOp) : State :=
  let n := min (slotK m.fa) (slotK m.fb)
  let aRows := s.engRows m.aCore m.aOff m.aStride (rowBytes m.fa n)
  let bRows := m.bRows.getD []
  let as_ := aRows.map (matRow m.fa n)
  let bs := bRows.map (matRow m.fb n)
  let ta := f32.decode m.ta.toNat
  let tb := f32.decode m.tb.toNat
  let sums (a b : MatRow) : List Nat := (List.range (n / 16)).map fun k =>
    blockSum m.pc (((a.vals.drop (16 * k)).take 16).zip ((b.vals.drop (16 * k)).take 16))
      [a.scales.getD k (.num false 1 0), b.scales.getD k (.num false 1 0), ta, tb]
  let bad := onceEach (badTrits m.fa n m.aCore m.aOff m.aStride aRows ++ badTrits m.fb n m.bCore m.bOff m.bStride bRows)
  let s1 := as_.zipIdx.foldl (fun s a => bs.zipIdx.foldl (fun s b =>
    s.putAcc core (m.row + a.2) (m.col + b.2) ((sums a.1 b.1).foldl (accAdd m.pc) (s.accWord core (m.row + a.2) (m.col + b.2)))) s) s
  s1.onCore core fun c => { c with encerr := BitVec.ofNat 32 (min (c.encerr.toNat + bad.length) (2 ^ 32 - 1)) }

/-- The words of row r of an operation's region. -/
def State.regionRow (s : State) (core : Nat) (m : MatOp) (r : Nat) : List Word :=
  (List.range m.cols).map fun c => s.accWord core (m.row + r) (m.col + c)

/-- The bytes a store or drain writes, row by row. -/
def State.converted (s : State) (core : Nat) (m : MatOp) : List (List Byte) :=
  (List.range m.rows).map fun r => convRow m.fa m.ta m.pc (s.regionRow core m r)

/-- Writes converted rows to scratchpad. -/
def State.storeRows (s : State) (core : Nat) (m : MatOp) : State :=
  (s.converted core m).zipIdx.foldl (fun s r =>
    s.locWrite m.aCore (r.1.zipIdx.map fun e => (m.aOff + r.2 * m.aStride + e.2, e.1))) s

/-- The largest element of a region with the sign bit cleared, read as n32 (R281). -/
def State.regionMax (s : State) (core : Nat) (m : MatOp) : Word :=
  BitVec.ofNat 32 (((List.range m.rows).flatMap fun r => s.regionRow core m r).foldl (fun a x => max a (x.toNat % 2 ^ 31)) 0)

/-- The effect of an operation when it completes; a drain's writes, before its merge. -/
def State.matEffect (s : State) (core : Nat) (m : MatOp) : State :=
  match m.kind with
  | .mma => { s.mmaEffect core m with free := s.free + 1 }
  | .zero => (List.range m.rows).foldl (fun s r => (List.range m.cols).foldl (fun s c => s.putAcc core (m.row + r) (m.col + c) 0) s) s
  | .load =>
    let s1 := (List.range m.rows).foldl (fun t r => (List.range m.cols).foldl (fun t c =>
      t.putAcc core (m.row + r) (m.col + c) (BitVec.ofNat 32 (bytesLE (s.engByte m.aCore) (m.aOff + r * m.aStride + 4 * c) 4))) t) s
    { s1 with free := s.free + 1 }
  | .store => s.storeRows core m
  | .write => m.words.foldl (fun s e => s.putAcc core (m.row + e.1 / 16) (m.col + e.1 % 16) e.2) s
  | .drain =>
    match m.tilePa with
    | none => s.storeRows core m
    | some pa => s.writesHome ((s.converted core m).flatten.zipIdx.map fun e => (pa + e.2, e.1)) (some m.tileSlice) m.tileKey

/-! ## Events (R266, R269, R281) -/

/-- An operation that no earlier one of its strands precedes (R271). -/
def readyOp (ms : List MatOp) (idx : Nat) : Option MatOp :=
  match ms[idx]? with
  | some m => if (ms.take idx).any fun x => x.group == m.group && x.strands.any m.strands.contains then none else some m
  | none => none

/-- Two operations read the same B in one pass (R269). -/
def samePass (a b : MatOp) : Bool :=
  a.bCore == b.bCore && a.bOff == b.bOff && a.bStride == b.bStride && a.fbSlot == b.fbSlot && a.tb == b.tb &&
    decide (b.arrived < a.arrived + 8)

/-- A multiply whose pass has not started may be read for: no earlier operation of its strands that writes scratchpad is
outstanding, whose bytes it must see (R271). -/
def mayStart (ms : List MatOp) (m : MatOp) : Bool :=
  m.kind == .mma && m.bRows.isNone &&
    (ms.takeWhile (·.id != m.id)).all fun x => !((x.kind == .store || x.kind == .drain) && x.group == m.group && x.strands.any m.strands.contains)

/-- MATRIX_PASS_START: the pass of the oldest multiply that may start starts, with the operations that join it: its B is read
once for them all. -/
def execMatrixPassStart (core : Nat) (s : State) : Host.Outcome State Fault Refusal :=
  let ms := (s.core core).mats
  ran s <| match ms.find? (mayStart ms) with
    | none => s
    | some a =>
      let pass := (ms.filter fun m => mayStart ms m && samePass a m).take 16
      let len := (pass.map fun m => rowBytes m.fb (min (slotK m.fa) (slotK m.fb))).foldl max 0
      let rows := s.engRows a.bCore a.bOff a.bStride len
      let ids := pass.map (·.id)
      let began (m : MatOp) : MatOp := if ids.contains m.id then { m with bRows := some rows } else m
      ({ s with free := s.free + 1 }).onCore core fun c => { c with mats := c.mats.map began }

/-- MATRIX_OP_COMPLETE: an operation takes effect and completes; a multiply must belong to a started pass, and a drain
with a merge completes with ACCDR_MERGE. -/
def execMatrixOpComplete (core idx : Nat) (s : State) : Host.Outcome State Fault Refusal :=
  let ms := (s.core core).mats
  ran s <| match readyOp ms idx with
    | none => s
    | some m =>
      if (m.kind == .mma && m.bRows.isNone) || m.drained then s
      else
        let s1 := s.matEffect core m
        if m.kind == .drain && m.merge.isSome then
          s1.onCore core fun c => { c with mats := lset c.mats idx { m with drained := true, mergeMax := s.regionMax core m } }
        else s1.onCore core fun c => { c with mats := ldel c.mats idx }

/-- The joined-set number under which a drain's merge waits for acknowledgements and answers. -/
def mergeSet (m : MatOp) : Nat := 2 ^ 65 + m.id

/-- A launch stops at a merge (R280). -/
def State.mergeStop (s : State) (core : Nat) (m : MatOp) (cause detail : Byte) : State :=
  let g := s.grp m.group
  s.stopLaunch m.launch { kind := 1, cause, detail := detail.zeroExtend 16, team := m.team, group := g.index,
                          strand := m.strands.headD 0, core, tinfo := tinfoOf { cause, detail }, tpc := m.pc, taddr := m.mergeVa }

/-- ACCDR_MERGE: the drain's largest magnitude merged at the merge word's home, after the release its order asks for;
a merge that leaves the package is sent, and completes with its answer (R281). But for that release it has no order against what
else the group does to the merge word (R237, R274; DESIGN CHOICE, unsafe, log 121). -/
def execAccdrMerge (core idx : Nat) (s : State) : Host.Outcome State Fault Refusal :=
  ran s <| match (s.core core).mats[idx]? with
  | none => s
  | some m => match m.drained, m.merge with
    | true, some pa =>
      let cur := s.cur
      let set := mergeSet m
      let fin (s : State) : State := { s.onCore core fun c => { c with mats := ldel c.mats idx } with cur }
      let s := { s with cur := { group := m.group, jset := set } }
      let needs := mRelease m.mode && mScope m.mode != 0
      let owes := mRelease m.mode && !m.released && s.owes m.group m.strands
      let s := if needs && !m.released && !owes then
          (s.releaseBy m.group (mScope m.mode)).onCore core fun c =>
            { c with mats := lset c.mats idx { m with released := true, snap := s.nextKey } }
        else s
      let snap := ((s.core core).mats.getD idx {}).snap
      if owes || (needs && (s.unacked || (mScope m.mode == 4 && s.remoteWrites m.group snap))) then { s with cur }
      else if outsidePa pa then
        match s.respOf 0 pa with
        | some r => match r.fail with
          | some f => fin (s.dropResp.mergeStop core m f.1 f.2)
          | none => fin s.dropResp
        | none => if s.pending 0 pa then { s with cur }
            else { s.sendRemote 0 .max pa m.mergeVa 4 (BitVec.ofNat 128 m.mergeMax.toNat) with cur }
      else match s.atomicAt pa 4 m.mergeKey (fun old => max old m.mergeMax.toNat) with
        | (none, s) => fin (s.mergeStop core m 0x3F 0)
        | (some _, s) => fin s
    | _, _ => s

end Sys2Proof.Machine
end

