-- ==== Sys2Proof/Machine/Outside.lean ====
section
/-!
DEFINITION. The outside of the package: answers from the host and from other packages, accesses of theirs, ports, the
control space, the mailbox and its keys, and bring-up and reset (R353, R440-R459, R473, R474).
-/
namespace Sys2Proof.Machine

/-! ## Answers to requests that left the package (R442, R450, R452) -/

/-- An answer reaches the group that asked, if it still exists. -/
def State.answer (s : State) (r : Remote) (data : BitVec 128) (fail : Option (Byte × Byte)) : State :=
  if (tfind s.groups r.group).isSome then
    s.onGrp r.group fun g => { g with resp := g.resp ++ [{ jset := r.jset, lane := r.lane, pa := r.pa, data, fail }] }
  else s

/-- A store that failed outside stops its launch, TPC 0, with the place of the strand that issued it (R373, R442, R452). -/
def State.storeLost (s : State) (r : Remote) (detail : Byte) : State :=
  if (tfind s.launches r.launch).isSome then s.stopLaunch r.launch {
    kind := 1, cause := 0x11, detail := detail.zeroExtend 16, team := r.team, group := r.index, strand := r.strand
    core := r.core, tinfo := tinfoOf { cause := 0x11, detail }, taddr := r.va }
  else s

/-- Ends a request: answered with data or a failure, a store acknowledged or lost. -/
def State.endRemote (s : State) (r : Remote) (data : BitVec 128) (fail : Option (Byte × Byte)) (lost : State → State) : State :=
  let s := { s with remotes := s.remotes.filter fun x => x.id != r.id }
  if r.op = .store then (if fail.isSome then lost s else s) else s.answer r data fail

/-- A host-window request that fails (R442). -/
def State.hostFails (s : State) (r : Remote) : State :=
  s.endRemote r 0 (some (0x10, 3)) fun s => (s.onCtl fun c => { c with hosterr := c.hosterr + 1 }).storeLost r 13

/-- The request of a number, if it went to the host. -/
def State.hostReq (s : State) (id : Nat) : Option Remote := s.remotes.find? fun r => r.id == id && r.window.isNone

/-- HOST_WINDOW_COMPLETION. -/
def execHostWindowCompletion (id : Nat) (data : BitVec 128) (good : Bool) (s : State) : Host.Outcome State Fault Refusal :=
  ran s <| match s.hostReq id with
    | none => s
    | some r => if good then s.endRemote r data none fun s => s else s.hostFails r

/-- HOST_REQUEST_TIMEOUT. -/
def execHostRequestTimeout (id : Nat) (s : State) : Host.Outcome State Fault Refusal :=
  ran s <| match s.hostReq id with | none => s | some r => s.hostFails r

/-- The request of a number, if it went through a window and no request of that window under an earlier port set is
still under way (R450). -/
def State.fabricReq (s : State) (id : Nat) : Option Remote :=
  s.remotes.find? fun r => r.id == id && r.window.isSome &&
    s.remotes.all fun q => q.window != r.window || decide (r.epoch ≤ q.epoch)

/-- A refused store of a window is counted and stops its launch (R452). -/
def State.refuse (s : State) (r : Remote) : State :=
  let w := r.window.getD 0
  (s.onCtl fun c => { c with outw := tset c.outw w { tget {} c.outw w with refused := (tget {} c.outw w).refused + 1 } }).storeLost r 11

/-- FABRIC_RESPONSE. -/
def execFabricResponse (id : Nat) (data : BitVec 128) (accepted : Bool) (s : State) : Host.Outcome State Fault Refusal :=
  ran s <| match s.fabricReq id with
    | none => s
    | some r => s.endRemote r data (if accepted then none else some (0x11, 11)) fun s => s.refuse r

/-- FABRIC_RESPONSE_TIMEOUT: as with no port; a store that gets no answer counts as refused. -/
def execFabricResponseTimeout (id : Nat) (s : State) : Host.Outcome State Fault Refusal :=
  ran s <| match s.fabricReq id with
    | none => s
    | some r => s.endRemote r 0 (some (0x10, 3)) fun s => s.refuse r

/-- The allowed ports of a window that are up, as a mask. -/
def State.usable (s : State) (w : Nat) : DWord := (s.window w).ports &&& s.ctl.portup

/-- Windows whose usable ports a change alters begin another epoch (R450). -/
def State.newPorts (s t : State) : State :=
  (List.range 32).foldl (fun t w =>
    if s.usable w = t.usable w then t
    else t.onCtl fun c => { c with outw := tset c.outw w { tget {} c.outw w with epoch := (tget {} c.outw w).epoch + 1 } }) t

/-- PORT_STATE_CHANGE. -/
def execPortStateChange (port : BitVec 6) (up : Bool) (s : State) : Host.Outcome State Fault Refusal :=
  let bit : DWord := (1 : DWord) <<< port.toNat
  ran s (s.newPorts (s.onCtl fun c => { c with portup := if up then c.portup ||| bit else c.portup &&& ~~~bit }))

/-! ## Accesses from outside (R441, R452) -/

/-- Drops a line cached under a key from every slice of its stack, unless it is pinned (R441). -/
def State.dropKeyed (s : State) (line : Nat) : State :=
  match nodeOf (line * 128) with
  | .stack n => s.onStack n fun k => { k with
      tier := k.tier.filterMap fun e =>
        if e.2.line = line ∧ e.2.key.isSome then (if e.2.pin.isSome then some (e.1, { e.2 with dirty := false }) else none) else some e }
  | _ => s

/-- The key tag under which a line is cached in the tier of its stack (R458). -/
def State.tagOf (s : State) (line : Nat) : Option Nat :=
  match nodeOf (line * 128) with
  | .stack n => (s.stack n).tier.findSome? fun e => if e.2.line = line then e.2.key else none
  | _ => none

/-- A host write to a line as DRAM holds it. A line that stays cached under its key is refilled from there (R441). -/
def State.writeRaw (s : State) (line addr : Nat) (x : BitVec 512) : State :=
  let raw := s.lineRaw line
  let s1 := (({ s with sealed := tdel s.sealed line }).pokes (cellsLE (line * 128) raw.toNat 128)).pokes (cellsLE addr x.toNat 64)
  s1.useKey line (s.tagOf line)

/-- HOST_HDM_ACCESS: 64 bytes, as they stand in DRAM; the line's home slice is its tile's on a tensor page (R338, R441). -/
def execHostHdmAccess (addr : Nat) (write : Option (BitVec 512)) (s : State) : Host.Outcome State Fault Refusal :=
  let line := addr / 128
  let reply (s : State) (x : BitVec 512) (bad : Bool) : State := s.onCtl fun c => { c with hdmData := x, hdmPoison := bad }
  ran s <| if s.ctl.boot ≠ 1 ∨ !s.reachable addr then
      (match write with | some _ => s | none => reply s (BitVec.allOnes 512) false)
    else
      let s := s.settle line
      match s.tagOf line with
      | none => match write with
        | some x => s.writeHome line (cellsLE addr x.toNat 64) (some (s.homeSlice addr)) none
        | none => reply (s.touch (some (s.homeSlice addr)) line false none) (BitVec.ofNat 512 (bytesLE (s.homeK none) addr 64)) (s.poisoned line)
      | some k =>
        let s := (s.useKey line (some k)).dropKeyed line
        match write with
        | some x => s.writeRaw line addr x
        | none => reply s (BitVec.ofNat 512 (bytesLE (s.homeK none) addr 64)) (s.poisoned line)

/-- An inbound aperture accepts a request (R452). -/
def State.accepts (s : State) (r : Inbound) : Bool :=
  s.reachable r.addr && s.ctl.inw.any fun e =>
    let c := e.2.cfg
    winValid c && fld c 8 12 == r.src && decide (e.2.base.toNat ≤ r.addr ∧ r.addr < e.2.base.toNat + 2 ^ winSize c) &&
    (r.op == .load || c.getLsbD 25)

/-- FABRIC_INBOUND_REQUEST: performed at the home slice (R338) under the key tag of its line, where the tier caches it under one, or refused. The answer of a poisoned line says
so, and an atomic on one is not performed, as within the package (R243, R461). -/
def execFabricInboundRequest (req : Inbound) (s : State) : Host.Outcome State Fault Refusal :=
  let line := req.addr / 128
  ran s <| if !s.accepts req then s.onCtl fun c => { c with inbound := some (false, 0), inboundPoison := false }
    else
      let s := s.settle line
      let key := s.tagOf line
      let s := s.useKey line key
      let old := bytesLE s.home req.addr req.size
      let bad := s.poisoned line
      let w := 8 * req.size
      let y := req.data.toNat % 2 ^ w
      let t := mType req.mode
      let new := atomicNew req.op w (typeSigned t) (mRound req.mode) req.draw.toNat (mFtz req.mode) req.lane req.pc old y (req.data.toNat / 2 ^ w % 2 ^ w)
      let slice := some (s.homeSlice req.addr)
      let s := if req.op = .load ∨ (req.op ≠ .store ∧ bad) then s.touch slice line false key
        else s.writeHome line (cellsLE req.addr new req.size) slice key
      s.onCtl fun c => { c with inbound := some (true, BitVec.ofNat 128 old), inboundPoison := bad && req.op != .store }

/-! ## The mailbox (R456-R459) -/

def Ctl.mbByte (c : Ctl) (i : Nat) : Byte := tget 0 c.mbdata i
def Ctl.mbBytes (c : Ctl) (n : Nat) : List Byte := (List.range n).map c.mbByte

/-- Puts bytes into MBDATA from its start. -/
def Ctl.putMb (c : Ctl) (bs : List Byte) : Ctl :=
  { c with mbdata := (bs.take 2048).zipIdx.foldl (fun t e => tput 0 t e.2 e.1) c.mbdata }

/-- The mailbox takes a command only while none is under way (R456). -/
def State.mailbox (s : State) (k : State) : State := if s.ctl.mbslot.isSome then s else k

/-- A command ends with a result code. -/
def State.mbEnd (s : State) (result : Byte) : State := s.onCtl fun c => { c with mbresult := result }

/-- The fused security version: how many fuses of the thermometer are blown (R454, log 97). -/
def Ctl.svnFloor (c : Ctl) : Nat := ((List.range 64).filter fun i => c.fusedSvn.getLsbD i).length

/-- The report of R457 without its signature. -/
def Ctl.report (c : Ctl) : List Byte :=
  let three (f : FwImage → List Byte) (n : Nat) : List Byte :=
    (List.range 3).flatMap fun i => match c.images[i]? with | some x => f x | none => List.replicate n 0
  let slots := ((List.range 64).map fun k => if (tfind c.keys k).isSome then 2 ^ k else 0).sum
  c.mbBytes 64 ++ bytesOf Config.serial.toNat 16 ++ bytesOf c.svnFloor 8 ++ bytesOf slots 8 ++
  three (fun x => bytesOf x.digest.toNat 64) 64 ++ three (fun x => bytesOf x.svn.toNat 8) 8 ++ List.replicate 8 0

/-- MB_ATTEST. -/
def State.mbAttest (s : State) : State :=
  (s.onCtl fun c => c.putMb (c.report ++ bytesOf (Config.pssSign c.report).toNat 512)).mbEnd 0
def execMbAttest (s : State) : Host.Outcome State Fault Refusal := ran s (s.mailbox s.mbAttest)

/-- MB_CERTIFICATE. -/
def State.mbCertificate (s : State) : State := (s.onCtl fun c => c.putMb Config.certificate).mbEnd 0
def execMbCertificate (s : State) : Host.Outcome State Fault Refusal := ran s (s.mailbox s.mbCertificate)

/-- MB_KEY_LOAD. -/
def State.mbKeyLoad (s : State) (slot : Nat) (wrap : Bool) : State :=
  let c := s.ctl
  if (tfind c.keys slot).isSome then s.mbEnd 2
  else
    let k := if wrap then Config.oaepUnwrap (c.mbBytes 512) else some (BitVec.ofNat 512 (bytesLE c.mbByte 0 64))
    match k with
    | none => s.mbEnd 4
    | some k => (s.onCtl fun c => { c with keys := tset c.keys slot k }).mbEnd 0
def execMbKeyLoad (slot : BitVec 6) (wrap : Bool) (s : State) : Host.Outcome State Fault Refusal :=
  ran s (s.mailbox (s.mbKeyLoad slot.toNat wrap))

/-- Accesses that have passed their key check under a slot and are not performed yet, stores apart (R459). -/
def State.usesKey (s : State) (slot : Nat) : Bool :=
  s.loads.any (fun r => r.key == some slot) ||
    s.groups.any (fun e => e.2.strands.any fun x => match x.begun with
      | some b => b.accs.any fun a => a.key == some slot
      | none => false) ||
    s.cores.any fun c => c.2.mats.any fun m => m.tileKey == some slot || m.mergeKey == some slot

/-- The lines of a key in memory and tier become what DRAM holds, and the slot becomes empty. -/
def State.forgetKey (s : State) (slot : Nat) : State :=
  let mine := (s.sealed.filter fun e => e.2 == slot).map (·.1)
  let s := mine.foldl (fun s l =>
    let raw := s.lineRaw l
    { (s.pokes (cellsLE (l * 128) raw.toNat 128)) with sealed := tdel s.sealed l }) s
  (s.mapStacks fun k => { k with tier := k.tier.filter fun e => e.2.key != some slot }).onCtl fun c => { c with keys := tdel c.keys slot }

/-- MB_KEY_UNLOAD: while accesses under the slot are outstanding the mailbox stays busy with it. -/
def State.mbKeyUnload (s : State) (slot : Nat) : State :=
  if s.ctl.mbslot.any (· != slot) then s
  else if (tfind s.ctl.keys slot).isNone then s.mbEnd 3
  else if s.usesKey slot then s.onCtl fun c => { c with mbslot := some slot }
  else ((s.performAll.forgetKey slot).mbEnd 0).onCtl fun c => { c with mbslot := none }
def execMbKeyUnload (slot : BitVec 6) (s : State) : Host.Outcome State Fault Refusal := ran s (s.mbKeyUnload slot.toNat)

/-- MB_RAISE_SVN: at most the svn of the running management image, and what 64 fuses can hold; the counter never falls
(R454, log 97). -/
def State.mbRaiseSvn (s : State) : State :=
  let v : DWord := BitVec.ofNat 64 (bytesLE s.ctl.mbByte 0 8)
  let top : DWord := match s.ctl.images[0]? with | some x => x.svn | none => 0
  if top.ult v ∨ 64 < v.toNat then s.mbEnd 5
  else (s.onCtl fun c => { c with fusedSvn := c.fusedSvn ||| BitVec.ofNat 64 (2 ^ v.toNat - 1) }).mbEnd 0
def execMbRaiseSvn (s : State) : Host.Outcome State Fault Refusal := ran s (s.mailbox s.mbRaiseSvn)

/-- A write to MBCMD (R456). -/
def State.mbCmd (s : State) (v : DWord) : State :=
  let slot := (fld v 8 6).toNat
  s.mailbox <|
  if v &&& 0xFFFFFFFFFFFEC000 ≠ 0 then s.mbEnd 1
  else match (fld v 0 8).toNat with
  | 1 => s.mbAttest
  | 2 => s.mbCertificate
  | 3 => s.mbKeyLoad slot (v.getLsbD 16)
  | 4 => s.mbKeyUnload slot
  | 5 => s.mbRaiseSvn
  | _ => s.mbEnd 1

/-! ## The control space (R353, R443, R449, R451, R474) -/

/-- A value with the bits below an alignment cleared. -/
def aligned (v : DWord) (n : Nat) : DWord := v >>> n <<< n

/-- A write to a register of a queue's block (R353, R443). A write to CCFG of an enabled queue leaves F as it is, so that one whose F
lies outside 4 to 16 takes effect in bit 8 alone (DESIGN CHOICE, unsafe, log 110). -/
def State.queueWrite (s : State) (q r : Nat) (v : DWord) : State :=
  let x := s.queue q
  match r with
  | 0x00 => if x.enable then s else s.setQueue q { x with base := aligned v 8 }
  | 0x08 => s.qcfg q v
  | 0x10 => s.qkick q v
  | 0x30 => if x.enable then s else s.setQueue q { x with cbase := aligned v 7 }
  | 0x38 =>
    let f := (fld v 0 5).toNat
    if x.enable then s.setQueue q { x with cint := v.getLsbD 8 }
    else if 4 ≤ f ∧ f ≤ 16 then s.setQueue q { x with csize := f, cint := v.getLsbD 8 } else s
  | 0x40 => s.setChead q v
  | 0x50 =>
    if v &&& ~~~3 ≠ 0 then s
    else
      let s := if v.getLsbD 0 then s.qcancel q else s
      if v.getLsbD 1 then s.qrenumber q else s
  | _ => s

/-- A write to an outbound or inbound window's register (R449, R451). -/
def State.windowWrite (s : State) (off : Nat) (v : DWord) : State :=
  let w := off / 32 % 128
  let cfg : DWord := v &&& 0x030FFF3F
  if off < 0x1400 then
    let x := s.window w
    let put (x : OutWindow) : State := s.newPorts (s.onCtl fun c => { c with outw := tset c.outw w x })
    match off % 32 with
    | 0x00 => put { x with base := aligned v 16 }
    | 0x08 => put { x with cfg }
    | 0x10 => put { x with ports := v }
    | _ => s
  else if 0x2000 ≤ off ∧ off < 0x2400 then
    let x := tget {} s.ctl.inw w
    let put (x : InWindow) : State := s.onCtl fun c => { c with inw := tset c.inw w x }
    match off % 32 with
    | 0x00 => put { x with base := aligned v 16 }
    | 0x08 => put { x with cfg }
    | _ => s
  else s

/-- A host write of 64 bits to the control space. Read-only registers and offsets not listed ignore it; until the device
runs only offsets below 0x5000 are served (R455). -/
def State.ctlWrite (s : State) (off : Nat) (v : DWord) : State :=
  let c := s.ctl
  let set (f : Ctl → Ctl) : State := s.onCtl f
  if off % 8 ≠ 0 ∨ (c.boot ≠ 1 ∧ 0x5000 ≤ off) then s
  else match off with
  | 0x00010 => if c.outw.any fun e => winValid e.2.cfg then s else set fun c => { c with fabid := v &&& 0xFFF }
  | 0x00100 => set fun c => { c with asidbase := aligned v 22 }
  | 0x00108 => if 2 ^ 19 ≤ v.toNat then s
      else s.invalidate (fld v 0 16).toNat (v.getLsbD 16) (v.getLsbD 17) (v.getLsbD 18)
  | 0x00110 => set fun c => { c with invaddr := aligned v 16 }
  | 0x00118 => set fun c => { c with invpages := v }
  | 0x00200 =>
    let id := (fld v 0 32).toNat
    match (fld v 32 2).toNat with
    | 1 => s.lcmdDrain id
    | 2 => s.lcmdResume id
    | 3 => s.lcmdAbort id
    | _ => s
  | 0x03000 => s.mbCmd v
  | 0x05000 => if c.heven then s else set fun c => { c with hevbase := aligned v 12 }
  | 0x05008 =>
    let g := (fld v 0 5).toNat
    if !c.heven && !(decide (4 ≤ g ∧ g ≤ 16)) then s
    else set fun c => { c with hevsize := if c.heven then c.hevsize else g, hevint := v.getLsbD 8, heven := v.getLsbD 9 }
  | 0x05010 => set fun c => { c with hevhead := v }
  | _ =>
    if 0x1000 ≤ off ∧ off < 0x3000 then s.windowWrite off v
    else if 0x4000 ≤ off ∧ off < 0x4800 then
      set fun c => { c with mbdata := (cellsLE (off - 0x4000) v.toNat 8).foldl (fun t e => tput 0 t e.1 e.2) c.mbdata }
    else if 0x10000 ≤ off ∧ off < 0x30000 then s.queueWrite ((off - 0x10000) / 128) ((off - 0x10000) % 128) v
    else s

/-- CONTROL_REGISTER_WRITE. -/
def execControlRegisterWrite (offset : Nat) (value : BitVec 64) (s : State) : Host.Outcome State Fault Refusal :=
  ran s (s.ctlWrite offset value)

/-- QSTAT (R353). Running is an enabled queue with a pending record or an unfinished launch; any other queue that neither waits nor is
stopped is idle (DESIGN CHOICE, unsafe, log 123). -/
def State.qstat (s : State) (q : Nat) : Nat :=
  let x := s.queue q
  match x.stopped with
  | some why => 3 + 2 ^ 8 * why.toNat
  | none => if x.head.isSome then 2 else if x.enable && (x.cons.ult x.kicked || s.launches.any fun l => l.2.queue == q) then 1 else 0

/-- RETCNT (R474). -/
def State.retcnt (s : State) : Nat :=
  let n (f : Core → Nat) : Nat := (s.cores.map fun c => f c.2).sum
  at_ 0 16 s.ctl.framesOut.length + at_ 16 8 (s.stackTab.map fun k => k.2.waysOut.length).sum +
  at_ 24 8 (n fun c => c.shutBanks.length) + at_ 32 8 (n fun c => c.shutParts.length) +
  at_ 40 8 (n fun c => if 2 ≤ c.banksOut.length then 1 else 0)

/-- A read of 64 bits of a queue's block. -/
def State.queueRead (s : State) (q r : Nat) : Nat :=
  let x := s.queue q
  match r with
  | 0x00 => x.base.toNat
  | 0x08 => at_ 0 5 x.size + at_ 8 8 x.priority + bitAt 16 x.enable
  | 0x18 => x.cons.toNat
  | 0x20 => x.done.toNat
  | 0x28 => s.qstat q
  | 0x30 => x.cbase.toNat
  | 0x38 => at_ 0 5 x.csize + bitAt 8 x.cint
  | 0x40 => x.chead.toNat
  | 0x48 => x.ctail.toNat
  | _ => 0

/-- WEAREOL: the predicted day, and the days of governor periods since it was predicted; 0 before the first prediction (R474, log
53). -/
def Stack.eolWord (k : Stack) : Nat :=
  k.wearEol.toNat % 2 ^ 32 + match k.wearDay with
    | some d => at_ 32 32 ((k.periods.toNat - d) / dayPeriods)
    | none => 0

/-- What a host read of 64 bits of the control space gives. -/
def State.ctlRead (s : State) (off : Nat) : Nat :=
  let c := s.ctl
  let stack := s.stack ((off - 0x5100) / 32)
  if off % 8 ≠ 0 ∨ (c.boot ≠ 1 ∧ 0x5000 ≤ off) then 0
  else match off with
  | 0x00000 => 0x0B08 + at_ 16 16 Config.stepping.toNat + at_ 32 32 Config.serial.toNat
  | 0x00008 => at_ 0 2 c.boot + at_ 8 4 c.bootImage + at_ 12 4 c.bootWhy
  | 0x00010 => c.fabid.toNat
  | 0x00018 => c.portup.toNat
  | 0x00020 => c.hosterr.toNat
  | 0x00100 => c.asidbase.toNat
  | 0x00110 => c.invaddr.toNat
  | 0x00118 => c.invpages.toNat
  | 0x00120 => bitAt 0 c.inv.isSome + at_ 32 32 c.invdone.toNat
  | 0x00208 => at_ 0 32 c.lstateId.toNat + at_ 32 4 c.lstate
  | 0x03008 => bitAt 0 c.mbslot.isSome + at_ 8 8 c.mbresult.toNat
  | 0x05000 => c.hevbase.toNat
  | 0x05008 => at_ 0 5 c.hevsize + bitAt 8 c.hevint + bitAt 9 c.heven
  | 0x05010 => c.hevhead.toNat
  | 0x05018 => c.hevtail.toNat
  | 0x05020 => c.hevlost.toNat
  | 0x05028 => at_ 0 32 c.knots.toNat + at_ 32 32 c.abandoned.toNat
  | 0x05030 => s.retcnt
  | 0x05038 => at_ 0 11 c.watts + at_ 12 3 c.floor
  | _ =>
    if 0x1000 ≤ off ∧ off < 0x1400 then
      let w := (off - 0x1000) / 32
      let x := s.window w
      match off % 32 with
      | 0x00 => x.base.toNat
      | 0x08 => x.cfg.toNat
      | 0x10 => x.ports.toNat
      | _ => x.refused.toNat + bitAt 32 (winValid x.cfg && s.usable w == 0)
    else if 0x2000 ≤ off ∧ off < 0x2400 then
      let x := tget {} c.inw ((off - 0x2000) / 32)
      match off % 32 with | 0x00 => x.base.toNat | 0x08 => x.cfg.toNat | _ => 0
    else if 0x4000 ≤ off ∧ off < 0x4800 then bytesLE c.mbByte (off - 0x4000) 8
    else if 0x5100 ≤ off ∧ off < 0x5200 then
      match off % 32 with
      | 0x00 => stack.wearCyc.toNat | 0x08 => stack.wearHot.toNat / 3600000 | 0x10 => stack.wearEm.toNat | _ => stack.eolWord
    else if 0x10000 ≤ off ∧ off < 0x30000 then s.queueRead ((off - 0x10000) / 128) ((off - 0x10000) % 128)
    else 0

/-! ## Bring-up and reset (R454, R455, R473) -/

/-- The bytes of an image's header before its signature. -/
def headerBytes (x : FwImage) : List Byte :=
  bytesOf x.magic.toNat 4 ++ bytesOf x.kind.toNat 4 ++ bytesOf x.svn.toNat 8 ++ bytesOf x.length.toNat 8 ++
  bytesOf x.digest.toNat 64 ++ bytesOf x.modulus.toNat 512 ++ bytesOf x.exponent.toNat 4 ++ bytesOf x.reserved.toNat 4

/-- Why an image that should be of a kind is not accepted, as BOOTSTAT's code (R454, R455). -/
def imageFails (svn kind : Nat) (x : Option FwImage) : Option Nat :=
  match x with
  | none => some 1
  | some x =>
    if x.magic ≠ 0x464B4850 ∨ x.kind.toNat ≠ kind ∨ x.reserved ≠ 0 then some 1
    else if sha512 (bytesOf x.modulus.toNat 512 ++ bytesOf x.exponent.toNat 4) ≠ Config.vendorDigest then some 2
    else if !pssVerify x.modulus x.exponent (headerBytes x) x.signature then some 3
    else if x.length.toNat ≠ x.body.length ∨ sha512 x.body ≠ x.digest then some 4
    else if x.svn.toNat < svn then some 5
    else none

/-- BRING_UP in the order of R473: the management image, the edge dies and the ring, the other two images, the stacks' training
and self-tests, the host port; the first failure ends it. The images accepted by then are kept: they run (R456). -/
def execBringUp (images : List FwImage) (trained : Training) (s : State) : Host.Outcome State Fault Refusal :=
  let svn := s.ctl.svnFloor
  let fail (kept image why : Nat) : State := s.onCtl fun c => { c with
    boot := 2, bootImage := image, bootWhy := why, images := images.take kept }
  ran s <| if s.ctl.boot ≠ 0 then s
    else match imageFails svn 1 images[0]? with
    | some w => fail 0 1 w
    | none => if !trained.ring then fail 1 0 0
      else match imageFails svn 2 images[1]? with
      | some w => fail 1 2 w
      | none => match imageFails svn 3 images[2]? with
        | some w => fail 2 3 w
        | none => if !trained.memory || !trained.port then fail 3 0 0
          else s.onCtl fun c => { c with boot := 1, images := images.take 3 }

/-- FUNCTION_LEVEL_RESET: every launch is told to stop and every queue is disabled. What has run out stops at once, the rest
with its LAUNCH_STOP; when all have, the reset ends. -/
def execFunctionLevelReset (s : State) : Host.Outcome State Fault Refusal :=
  let ids := s.launches.map (·.1)
  let s1 := (ids.foldl (fun s id => if (s.launch id).finished then s else s.stopLaunch id { kind := 4 }) s).mapQueues fun q =>
    { q with enable := false, reread := 0, head := none }
  let s2 := s1.onCtl fun c => { c with resetting := true }
  ran s (ids.foldl (fun (s : State) id => match (s.launch id).stop with
    | some f => if s.runOut id then s.finishStop id (s.launch id) f else s
    | none => s) s2).finishReset

end Sys2Proof.Machine
end

