-- ==== Sys2Proof/Machine/Dispatch.lean ====
section
/-!
DEFINITION. The meaning of every instruction and event: one arm per constructor, each one direct call.
-/
namespace Sys2Proof.Machine

def exec (i : Instr) (s : State) : Host.Outcome State Fault Refusal :=
  match i with
  | .nop => Sys2Proof.Machine.execNop s
  | .exit => Sys2Proof.Machine.execExit s
  | .bra off => Sys2Proof.Machine.execBra off s
  | .brc p neg off => Sys2Proof.Machine.execBrc p neg off s
  | .call off => Sys2Proof.Machine.execCall off s
  | .ret => Sys2Proof.Machine.execRet s
  | .jmpr a => Sys2Proof.Machine.execJmpr a s
  | .regang => Sys2Proof.Machine.execRegang s
  | .loop k cnt len => Sys2Proof.Machine.execLoop k cnt len s
  | .leave k => Sys2Proof.Machine.execLeave k s
  | .setm imm => Sys2Proof.Machine.execSetm imm s
  | .setp imm => Sys2Proof.Machine.execSetp imm s
  | .setlive a => Sys2Proof.Machine.execSetlive a s
  | .trap imm => Sys2Proof.Machine.execTrap imm s
  | .waitt imm => Sys2Proof.Machine.execWaitt imm s
  | .sysr d imm => Sys2Proof.Machine.execSysr d imm s
  | .sysw d imm => Sys2Proof.Machine.execSysw d imm s
  | .bar imm => Sys2Proof.Machine.execBar imm s
  | .bara imm => Sys2Proof.Machine.execBara imm s
  | .barw imm => Sys2Proof.Machine.execBarw imm s
  | .paltake imm => Sys2Proof.Machine.execPaltake imm s
  | .paltry pd imm => Sys2Proof.Machine.execPaltry pd imm s
  | .palgive imm => Sys2Proof.Machine.execPalgive imm s
  | .yield => Sys2Proof.Machine.execYield s
  | .spawn d a b => Sys2Proof.Machine.execSpawn d a b s
  | .tloc d => Sys2Proof.Machine.execTloc d s
  | .fence => Sys2Proof.Machine.execFence s
  | .hswap a => Sys2Proof.Machine.execHswap a s
  | .srcfg d imm => Sys2Proof.Machine.execSrcfg d imm s
  | .pin a b => Sys2Proof.Machine.execPin a b s
  | .unpin a b => Sys2Proof.Machine.execUnpin a b s
  | .tret => Sys2Proof.Machine.execTret s
  | .sadd d a b => Sys2Proof.Machine.execSadd d a b s
  | .ssub d a b => Sys2Proof.Machine.execSsub d a b s
  | .smul d a b => Sys2Proof.Machine.execSmul d a b s
  | .smulh d a b => Sys2Proof.Machine.execSmulh d a b s
  | .sdiv d a b => Sys2Proof.Machine.execSdiv d a b s
  | .sdivn d a b => Sys2Proof.Machine.execSdivn d a b s
  | .srem d a b => Sys2Proof.Machine.execSrem d a b s
  | .sand d a b => Sys2Proof.Machine.execSand d a b s
  | .sor d a b => Sys2Proof.Machine.execSor d a b s
  | .sxor d a b => Sys2Proof.Machine.execSxor d a b s
  | .sshl d a b => Sys2Proof.Machine.execSshl d a b s
  | .sshr d a b => Sys2Proof.Machine.execSshr d a b s
  | .ssra d a b => Sys2Proof.Machine.execSsra d a b s
  | .smin d a b => Sys2Proof.Machine.execSmin d a b s
  | .smax d a b => Sys2Proof.Machine.execSmax d a b s
  | .scmp pd c a b => Sys2Proof.Machine.execScmp pd c a b s
  | .saddi d a imm => Sys2Proof.Machine.execSaddi d a imm s
  | .smovi d imm => Sys2Proof.Machine.execSmovi d imm s
  | .smovx d imm => Sys2Proof.Machine.execSmovx d imm s
  | .smovxh d imm => Sys2Proof.Machine.execSmovxh d imm s
  | .sshli d a imm => Sys2Proof.Machine.execSshli d a imm s
  | .sshri d a imm => Sys2Proof.Machine.execSshri d a imm s
  | .ssrai d a imm => Sys2Proof.Machine.execSsrai d a imm s
  | .sandi d a imm => Sys2Proof.Machine.execSandi d a imm s
  | .smadi d a imm => Sys2Proof.Machine.execSmadi d a imm s
  | .spopc d a => Sys2Proof.Machine.execSpopc d a s
  | .sclz d a => Sys2Proof.Machine.execSclz d a s
  | .rfal d a => Sys2Proof.Machine.execRfal d a s
  | .smask d pa => Sys2Proof.Machine.execSmask d pa s
  | .sid d imm => Sys2Proof.Machine.execSid d imm s
  | .ssel d pk a b => Sys2Proof.Machine.execSsel d pk a b s
  | .vadd d a b => Sys2Proof.Machine.execVadd d a b s
  | .vsub d a b => Sys2Proof.Machine.execVsub d a b s
  | .vmul d a b => Sys2Proof.Machine.execVmul d a b s
  | .vmulh d a b => Sys2Proof.Machine.execVmulh d a b s
  | .vmad d a b => Sys2Proof.Machine.execVmad d a b s
  | .vand d a b => Sys2Proof.Machine.execVand d a b s
  | .vor d a b => Sys2Proof.Machine.execVor d a b s
  | .vxor d a b => Sys2Proof.Machine.execVxor d a b s
  | .vshl d a b => Sys2Proof.Machine.execVshl d a b s
  | .vshr d a b => Sys2Proof.Machine.execVshr d a b s
  | .vsra d a b => Sys2Proof.Machine.execVsra d a b s
  | .vmin d a b => Sys2Proof.Machine.execVmin d a b s
  | .vmax d a b => Sys2Proof.Machine.execVmax d a b s
  | .vabsd d a b => Sys2Proof.Machine.execVabsd d a b s
  | .vcmp pd c a b => Sys2Proof.Machine.execVcmp pd c a b s
  | .vsel d pk a b => Sys2Proof.Machine.execVsel d pk a b s
  | .vaddi d a imm => Sys2Proof.Machine.execVaddi d a imm s
  | .vmovi d imm => Sys2Proof.Machine.execVmovi d imm s
  | .vmovx d imm => Sys2Proof.Machine.execVmovx d imm s
  | .vshli d a imm => Sys2Proof.Machine.execVshli d a imm s
  | .vshri d a imm => Sys2Proof.Machine.execVshri d a imm s
  | .vsrai d a imm => Sys2Proof.Machine.execVsrai d a imm s
  | .vpopc d a => Sys2Proof.Machine.execVpopc d a s
  | .vclz d a => Sys2Proof.Machine.execVclz d a s
  | .vlane d => Sys2Proof.Machine.execVlane d s
  | .vmov d a => Sys2Proof.Machine.execVmov d a s
  | .pand pd pa pb => Sys2Proof.Machine.execPand pd pa pb s
  | .por pd pa pb => Sys2Proof.Machine.execPor pd pa pb s
  | .pxor pd pa pb => Sys2Proof.Machine.execPxor pd pa pb s
  | .pnot pd pa => Sys2Proof.Machine.execPnot pd pa s
  | .ptest pd pa => Sys2Proof.Machine.execPtest pd pa s
  | .vpacks d a b => Sys2Proof.Machine.execVpacks d a b s
  | .vfadd d a b => Sys2Proof.Machine.execVfadd d a b s
  | .vfsub d a b => Sys2Proof.Machine.execVfsub d a b s
  | .vfmul d a b => Sys2Proof.Machine.execVfmul d a b s
  | .vfma d a b => Sys2Proof.Machine.execVfma d a b s
  | .vfms d a b => Sys2Proof.Machine.execVfms d a b s
  | .vfnma d a b => Sys2Proof.Machine.execVfnma d a b s
  | .vfmin d a b => Sys2Proof.Machine.execVfmin d a b s
  | .vfmax d a b => Sys2Proof.Machine.execVfmax d a b s
  | .vfcmp pd c a b => Sys2Proof.Machine.execVfcmp pd c a b s
  | .vfabs d a => Sys2Proof.Machine.execVfabs d a s
  | .vfneg d a => Sys2Proof.Machine.execVfneg d a s
  | .vfdiv d a b => Sys2Proof.Machine.execVfdiv d a b s
  | .vfsqrt d a => Sys2Proof.Machine.execVfsqrt d a s
  | .vfrcp d a => Sys2Proof.Machine.execVfrcp d a s
  | .vfrsq d a => Sys2Proof.Machine.execVfrsq d a s
  | .vfexp2 d a => Sys2Proof.Machine.execVfexp2 d a s
  | .vflog2 d a => Sys2Proof.Machine.execVflog2 d a s
  | .vfsinp d a => Sys2Proof.Machine.execVfsinp d a s
  | .vfcosp d a => Sys2Proof.Machine.execVfcosp d a s
  | .vftanh d a => Sys2Proof.Machine.execVftanh d a s
  | .vfsigm d a => Sys2Proof.Machine.execVfsigm d a s
  | .vcvt d a imm => Sys2Proof.Machine.execVcvt d a imm s
  | .vcvti d a imm => Sys2Proof.Machine.execVcvti d a imm s
  | .vfclass d a => Sys2Proof.Machine.execVfclass d a s
  | .vfrnd d a => Sys2Proof.Machine.execVfrnd d a s
  | .vfscale d a b => Sys2Proof.Machine.execVfscale d a b s
  | .vfdot2 d a b => Sys2Proof.Machine.execVfdot2 d a b s
  | .vqnt d a slot => Sys2Proof.Machine.execVqnt d a slot s
  | .vdqnt d a slot => Sys2Proof.Machine.execVdqnt d a slot s
  | .vtpack d a => Sys2Proof.Machine.execVtpack d a s
  | .vtunpk d a slot => Sys2Proof.Machine.execVtunpk d a slot s
  | .vshfl d a b => Sys2Proof.Machine.execVshfl d a b s
  | .vsend d a b => Sys2Proof.Machine.execVsend d a b s
  | .vrot d a b => Sys2Proof.Machine.execVrot d a b s
  | .vbcl d a imm => Sys2Proof.Machine.execVbcl d a imm s
  | .vred d a imm => Sys2Proof.Machine.execVred d a imm s
  | .vscan d a imm => Sys2Proof.Machine.execVscan d a imm s
  | .vballot d pa => Sys2Proof.Machine.execVballot d pa s
  | .vmatch d a => Sys2Proof.Machine.execVmatch d a s
  | .vcomp d a => Sys2Proof.Machine.execVcomp d a s
  | .efadd d a b => Sys2Proof.Machine.execEfadd d a b s
  | .efsub d a b => Sys2Proof.Machine.execEfsub d a b s
  | .efmul d a b => Sys2Proof.Machine.execEfmul d a b s
  | .effma d a b => Sys2Proof.Machine.execEffma d a b s
  | .efdiv d a b => Sys2Proof.Machine.execEfdiv d a b s
  | .efsqrt d a => Sys2Proof.Machine.execEfsqrt d a s
  | .efcmp pd c a b => Sys2Proof.Machine.execEfcmp pd c a b s
  | .efcvt d a imm => Sys2Proof.Machine.execEfcvt d a imm s
  | .efcvto d a imm => Sys2Proof.Machine.execEfcvto d a imm s
  | .efrnd d a => Sys2Proof.Machine.execEfrnd d a s
  | .eflen d a => Sys2Proof.Machine.execEflen d a s
  | .efneg d a => Sys2Proof.Machine.execEfneg d a s
  | .efabs d a => Sys2Proof.Machine.execEfabs d a s
  | .efld d a b => Sys2Proof.Machine.execEfld d a b s
  | .efst d a b => Sys2Proof.Machine.execEfst d a b s
  | .efldw d a b => Sys2Proof.Machine.execEfldw d a b s
  | .ldg8 d a b => Sys2Proof.Machine.execLdg8 d a b s
  | .ldg16 d a b => Sys2Proof.Machine.execLdg16 d a b s
  | .ldg32 d a b => Sys2Proof.Machine.execLdg32 d a b s
  | .ldg64 d a b => Sys2Proof.Machine.execLdg64 d a b s
  | .ldg128 d a b => Sys2Proof.Machine.execLdg128 d a b s
  | .stg8 d a b => Sys2Proof.Machine.execStg8 d a b s
  | .stg16 d a b => Sys2Proof.Machine.execStg16 d a b s
  | .stg32 d a b => Sys2Proof.Machine.execStg32 d a b s
  | .stg64 d a b => Sys2Proof.Machine.execStg64 d a b s
  | .stg128 d a b => Sys2Proof.Machine.execStg128 d a b s
  | .lds32 d a imm => Sys2Proof.Machine.execLds32 d a imm s
  | .lds128 d a imm => Sys2Proof.Machine.execLds128 d a imm s
  | .sts32 d a imm => Sys2Proof.Machine.execSts32 d a imm s
  | .sts128 d a imm => Sys2Proof.Machine.execSts128 d a imm s
  | .sld d a imm => Sys2Proof.Machine.execSld d a imm s
  | .sst d a imm => Sys2Proof.Machine.execSst d a imm s
  | .aadd d a b => Sys2Proof.Machine.execAadd d a b s
  | .amin d a b => Sys2Proof.Machine.execAmin d a b s
  | .amax d a b => Sys2Proof.Machine.execAmax d a b s
  | .aand d a b => Sys2Proof.Machine.execAand d a b s
  | .aor d a b => Sys2Proof.Machine.execAor d a b s
  | .axor d a b => Sys2Proof.Machine.execAxor d a b s
  | .axchg d a b => Sys2Proof.Machine.execAxchg d a b s
  | .acas d a b => Sys2Proof.Machine.execAcas d a b s
  | .afadd d a b => Sys2Proof.Machine.execAfadd d a b s
  | .saadd d a => Sys2Proof.Machine.execSaadd d a s
  | .cpy tok flags a => Sys2Proof.Machine.execCpy tok flags a s
  | .cpyt tok flags a b => Sys2Proof.Machine.execCpyt tok flags a b s
  | .pref a b => Sys2Proof.Machine.execPref a b s
  | .invl a b => Sys2Proof.Machine.execInvl a b s
  | .sacas d a => Sys2Proof.Machine.execSacas d a s
  | .mma sa sb fa fb sc => Sys2Proof.Machine.execMma sa sb fa fb sc s
  | .mmar sa sb fa fb sc => Sys2Proof.Machine.execMmar sa sb fa fb sc s
  | .accz a => Sys2Proof.Machine.execAccz a s
  | .accld a b => Sys2Proof.Machine.execAccld a b s
  | .accst d a slot => Sys2Proof.Machine.execAccst d a slot s
  | .accdr d a b slot => Sys2Proof.Machine.execAccdr d a b slot s
  | .accrd d a => Sys2Proof.Machine.execAccrd d a s
  | .accwr d b => Sys2Proof.Machine.execAccwr d b s
  | .mwait => Sys2Proof.Machine.execMwait s
  | .mscl a b => Sys2Proof.Machine.execMscl a b s
  | .glzcfg a b => Sys2Proof.Machine.execGlzcfg a b s
  | .glzjoin a => Sys2Proof.Machine.execGlzjoin a s
  | .glzend => Sys2Proof.Machine.execGlzend s
  | .glzbar => Sys2Proof.Machine.execGlzbar s
  | .glzcin d => Sys2Proof.Machine.execGlzcin d s
  | .glzleave => Sys2Proof.Machine.execGlzleave s
  | .ill => Sys2Proof.Machine.execIll s
  | .handleEntryDrop core => Sys2Proof.Machine.execHandleEntryDrop core s
  | .srwaysPublish core => Sys2Proof.Machine.execSrwaysPublish core s
  | .undefinedOpcode op => Sys2Proof.Machine.execUndefinedOpcode op s
  | .copyRow core idx => Sys2Proof.Machine.execCopyRow core idx s
  | .matrixPassStart core => Sys2Proof.Machine.execMatrixPassStart core s
  | .matrixOpComplete core idx => Sys2Proof.Machine.execMatrixOpComplete core idx s
  | .accdrMerge core idx => Sys2Proof.Machine.execAccdrMerge core idx s
  | .sfuResult group lane => Sys2Proof.Machine.execSfuResult group lane s
  | .glazeElementAccept group => Sys2Proof.Machine.execGlazeElementAccept group s
  | .glazeCarryArrive launch rank => Sys2Proof.Machine.execGlazeCarryArrive launch rank s
  | .glazeRoundComplete launch rank => Sys2Proof.Machine.execGlazeRoundComplete launch rank s
  | .glazeResultDeliver group lane => Sys2Proof.Machine.execGlazeResultDeliver group lane s
  | .groupEnd group => Sys2Proof.Machine.execGroupEnd group s
  | .teamAdmit stack => Sys2Proof.Machine.execTeamAdmit stack s
  | .teamRestore stack => Sys2Proof.Machine.execTeamRestore stack s
  | .forcedSave launch team => Sys2Proof.Machine.execForcedSave launch team s
  | .forwardProgressSwap core => Sys2Proof.Machine.execForwardProgressSwap core s
  | .drainLimitSave core launch => Sys2Proof.Machine.execDrainLimitSave core launch s
  | .wcbDrain core line => Sys2Proof.Machine.execWcbDrain core line s
  | .sliceRequest stack slice idx => Sys2Proof.Machine.execSliceRequest stack slice idx s
  | .edgeMemoryRequest edge idx => Sys2Proof.Machine.execEdgeMemoryRequest edge idx s
  | .loadResponse group idx => Sys2Proof.Machine.execLoadResponse group idx s
  | .signaturePublish core => Sys2Proof.Machine.execSignaturePublish core s
  | .governorPeriod stack td tb idle avail => Sys2Proof.Machine.execGovernorPeriod stack td tb idle avail s
  | .powerLimitPeriod watts => Sys2Proof.Machine.execPowerLimitPeriod watts s
  | .waitForWalk => Sys2Proof.Machine.execWaitForWalk s
  | .knotBreakDeliver seq => Sys2Proof.Machine.execKnotBreakDeliver seq s
  | .occupancyReport core => Sys2Proof.Machine.execOccupancyReport core s
  | .waitReread queue => Sys2Proof.Machine.execWaitReread queue s
  | .headStart => Sys2Proof.Machine.execHeadStart s
  | .recordRead queue => Sys2Proof.Machine.execRecordRead queue s
  | .recordReread queue => Sys2Proof.Machine.execRecordReread queue s
  | .teamHandout => Sys2Proof.Machine.execTeamHandout s
  | .launchComplete launch => Sys2Proof.Machine.execLaunchComplete launch s
  | .completionRecord queue => Sys2Proof.Machine.execCompletionRecord queue s
  | .launchStop launch => Sys2Proof.Machine.execLaunchStop launch s
  | .qkick queue value => Sys2Proof.Machine.execQkick queue value s
  | .qcfg queue value => Sys2Proof.Machine.execQcfg queue value s
  | .qctlCancel queue => Sys2Proof.Machine.execQctlCancel queue s
  | .qctlRenumber queue => Sys2Proof.Machine.execQctlRenumber queue s
  | .lcmdDrain launch => Sys2Proof.Machine.execLcmdDrain launch s
  | .lcmdResume launch => Sys2Proof.Machine.execLcmdResume launch s
  | .lcmdAbort launch => Sys2Proof.Machine.execLcmdAbort launch s
  | .invcmdTlb asid all hnd => Sys2Proof.Machine.execInvcmdTlb asid all hnd s
  | .invcmdHnd asid => Sys2Proof.Machine.execInvcmdHnd asid s
  | .invalidationComplete => Sys2Proof.Machine.execInvalidationComplete s
  | .chead queue value => Sys2Proof.Machine.execChead queue value s
  | .controlRegisterWrite offset value => Sys2Proof.Machine.execControlRegisterWrite offset value s
  | .mbAttest => Sys2Proof.Machine.execMbAttest s
  | .mbCertificate => Sys2Proof.Machine.execMbCertificate s
  | .mbKeyLoad slot wrap => Sys2Proof.Machine.execMbKeyLoad slot wrap s
  | .mbKeyUnload slot => Sys2Proof.Machine.execMbKeyUnload slot s
  | .mbRaiseSvn => Sys2Proof.Machine.execMbRaiseSvn s
  | .hostHdmAccess addr write => Sys2Proof.Machine.execHostHdmAccess addr write s
  | .hostWindowCompletion id data good => Sys2Proof.Machine.execHostWindowCompletion id data good s
  | .hostRequestTimeout id => Sys2Proof.Machine.execHostRequestTimeout id s
  | .fabricInboundRequest req => Sys2Proof.Machine.execFabricInboundRequest req s
  | .fabricResponse id data accepted => Sys2Proof.Machine.execFabricResponse id data accepted s
  | .fabricResponseTimeout id => Sys2Proof.Machine.execFabricResponseTimeout id s
  | .portStateChange port up => Sys2Proof.Machine.execPortStateChange port up s
  | .bringUp images trained => Sys2Proof.Machine.execBringUp images trained s
  | .functionLevelReset => Sys2Proof.Machine.execFunctionLevelReset s
  | .eccError place corrected => Sys2Proof.Machine.execEccError place corrected s
  | .selfTest place passed => Sys2Proof.Machine.execSelfTest place passed s
  | .wearPrediction stack eol em => Sys2Proof.Machine.execWearPrediction stack eol em s
  | .segmentLoad core => Sys2Proof.Machine.execSegmentLoad core s
  | .travellerDeparture group => Sys2Proof.Machine.execTravellerDeparture group s
  | .packetArrival idx => Sys2Proof.Machine.execPacketArrival idx s
  | .travellerAdmission core => Sys2Proof.Machine.execTravellerAdmission core s
  | .spawnAllocate launch => Sys2Proof.Machine.execSpawnAllocate launch s
  | .segmentReplication launch segment => Sys2Proof.Machine.execSegmentReplication launch segment s
  | .travellerProgressSwap core => Sys2Proof.Machine.execTravellerProgressSwap core s

end Sys2Proof.Machine
end

