-- ==== Sys2Proof/Machine/Run.lean ====
section
/-!
DEFINITION. The execution of one instruction by a joined set within one issue: a queue trap that some of its strands take holds
the others back no further than that (R118, R209, R210).
-/
namespace Sys2Proof.Machine

/-- Between two states, a queue trap (0x30 or 0x32) has taken a strand of the issuing set: it has entered its handler, or has stopped
the launch. -/
def State.queueTrapped (s t : State) (k : Nat) : Bool :=
  let queue (c : Byte) : Bool := c == 0x30 || c == 0x32
  let x := t.g.strand k
  x.jset != s.cur.jset && ((!(s.g.strand k).handler && x.handler && queue x.tcause) ||
    (s.lau.stop.isNone && (match t.lau.stop with | some f => queue f.cause | none => false)))

/-- Strands of the issuing set have taken a queue trap, and others of it stand at the instruction, which they have yet to
execute. -/
def State.leftOver (s t : State) : Bool :=
  t.cur == s.cur && !t.ks.isEmpty && decide (t.ks.length < s.ks.length) && s.ks.any fun k => s.queueTrapped t k

/-- Runs the instruction of the issuing set: strands that a queue trap of others leaves at it execute it in the same issue, at most
n times (R118, R210, log 5). -/
def State.runSet (i : Instr) : Nat → State → Host.Outcome State Fault Refusal
  | 0, s => exec i s
  | n + 1, s => match exec i s with
    | .next t => if s.leftOver t then State.runSet i n t else .next t
    | o => o

/-- The issuing set waits for its queues: its instruction has not issued (R206). -/
def State.queueWaits (a : State) : Bool :=
  !a.ks.isEmpty && match a.lead.wait with | some (.queue _) | some (.glzPop _) => true | _ => false

/-- Runs the instruction of the issuing set and notes its issue: of any but a YIELD, and of one that only waits for its queues
none (R206, R214, R217, R427). -/
def State.runIssue (i : Instr) (t : State) : Host.Outcome State Fault Refusal :=
  let v := t.noteIssue t.g.core
  if i = .yield then t.runSet i 16
  else match exec i v with
    | .next a => if a.queueWaits then t.runSet i 16 else if v.leftOver a then State.runSet i 15 a else .next a
    | o => o

/-- Runs an instruction that would read a register holding an error: it waits for its queues first, and traps with 0x3F unless it
breaks an operand rule (R24, R206, R462). -/
def State.runSpoiled (i : Instr) (t : State) : Host.Outcome State Fault Refusal :=
  let v := t.noteIssue t.g.core
  match exec i v with
  | .next a => if a.queueWaits then exec i t else .next (if v.brokeOperandRule a then a else v.badStep i)
  | o => o

end Sys2Proof.Machine
end

