-- ==== Sys2Proof/Machine/Step.lean ====
section
/-!
DEFINITION. One step of the machine, and the placing of an instruction word where the next step fetches it.
-/
namespace Sys2Proof.Machine

/-- One step: the agenda's next event, else one instruction of the joined set that issues next; a set has at most 16 strands. A step in which nothing
can happen changes nothing. -/
def step (s : State) : Host.Outcome State Fault Refusal :=
  match s.prepare with
  | (t, .event i) => exec i t
  | (t, .run i) => t.runIssue i
  | (t, .spoiled i) => t.runSpoiled i
  | (t, .hold) => .next t.holdStep
  | (t, .trap x) => .next (t.trapStep x)
  | (t, .idle) => .next (commit t t)
  | (_, .bad) => .fault .agendaNotEvent

/-- The state with an instruction placed where the next step fetches and runs it (log 4). -/
def State.withFetchWord (s : State) (_nbits w : Nat) : State := s.placeWord w

end Sys2Proof.Machine
end

