-- ==== Sys2Proof/Safety.lean ====
section
/-!
DEFINITION. What a safe state is, and the words in which claims speak of a step: memory in canonical form, what an
instruction leaves alone, and where its strands stand afterwards.
-/
namespace Sys2Proof.Safety
open Sys2Proof.Machine

/-- Memory in canonical form: addresses strictly rising, no entry equal to the unlisted value. -/
abbrev Memory.wf (m : List Host.Cell) : Prop := tcanon (0 : Byte) m = true

/-- Between steps memory is canonical and no write is pending. -/
def Inv (s : State) : Prop := Memory.wf s.mem ∧ s.bus = []

/-- A step that answers a next state: neither a fault nor a refusal. -/
def Steps (s t : State) : Prop := step s = .next t

/-- Running an instruction answers a next state. -/
def Runs (i : Instr) (s t : State) : Prop := exec i s = .next t

/-! ## What is left alone -/

/-- Nothing but the issuing group, and the counter that numbers joined sets, differs. -/
def OnlyIssuer (s t : State) : Prop :=
  { t with groups := s.groups, nextKey := s.nextKey } = s ∧ ∀ k, k ≠ s.gk → tfind t.groups k = tfind s.groups k

/-- The issuing group is what a change of it gives, but for its strands. -/
def GroupIs (s t : State) (act : Group → Group) : Prop :=
  { t.g with strands := s.g.strands } = { act s.g with strands := s.g.strands }

/-! ## Where strands go -/

/-- A strand ready for its next instruction, in a joined set of some number, its wait counted from some cycle. -/
def ready (x : Strand) (j : Nat) (n : Nat × Nat) : Strand := { x.next n with jset := j }

/-- The strands of a list stand where a function puts them, ready for their next instruction in a joined set of some
number; every other strand is unchanged. -/
def Went (g g' : Group) (ks : List Nat) (f : Nat → Strand → Strand) : Prop :=
  g'.strands.length = g.strands.length ∧
  ∀ k, if k ∈ ks then ∃ j n, g'.strand k = ready (f k (g.strand k)) j n else g'.strand k = g.strand k

/-- The issuing set need not leave its core where its group's first strand stands as given: the group is no traveller's, or
the traveller is in handler mode, has ended, or stands in its holder's segment (R411). -/
def StaysAt (s : State) (x : Strand) : Prop :=
  ∀ tr, s.g.trav = some tr → x.handler = true ∨ x.ended = true ∨
    s.segmentOf s.g.core s.lau x.pc = some (match (s.core s.g.core).holder with | some h => h.segment | none => 0)

/-- The issuing set stays on its core when it passes an instruction of w words. -/
def Stays (s : State) (w : Nat) : Prop := StaysAt s ((s.g.onSet s.cur.jset fun x => x.pass w).strand 0)

/-- An instruction of w words has the effect `act` on the issuing group, its set passes it, and nothing else changes. -/
def Passes (s t : State) (w : Nat) (act : Group → Group) : Prop :=
  OnlyIssuer s t ∧ GroupIs s t act ∧ Went s.g t.g s.ks fun _ x => x.pass w

/-! ## Traps (R210, R211, R367) -/

/-- Whether a trap that strands of the issuing group take together stops their launch: there is no handler, one of them is in
handler mode already, or the cause is one no handler may take. -/
def TrapStopsIn (s : State) (ks : List Nat) (x : Trap) : Prop :=
  s.lau.lrec.handler = 0 ∨ (∃ k ∈ ks, (s.g.strand k).handler = true) ∨ x.cause = 0x15 ∨ x.cause = 0x3F

/-- Whether a trap of the issuing set stops its launch. -/
abbrev TrapStops (s : State) (x : Trap) : Prop := TrapStopsIn s s.ks x

/-- A strand in its trap handler: the trap registers hold the cause and the place, and the PC is the handler's. -/
def Entered (x y : Strand) (tr : Trap) (handler : DWord) : Prop :=
  y.handler = true ∧ y.pc = handler ∧ y.tpc = x.pc ∧ y.tcause = tr.cause ∧ y.taddr = tr.taddr ∧ y.tinfo = tinfoOf tr ∧
  y.mode = x.mode ∧ y.prec = x.prec ∧ y.live = x.live ∧ y.lk = x.lk ∧ y.loops = x.loops ∧ y.amask = x.amask ∧
  y.stack = x.stack ∧ y.jset = x.jset ∧ y.ended = x.ended ∧ y.wait = none

/-- The stack dispatchers have dropped the teams of a launch that stops (R367). -/
def OffersDropped (s t : State) (launch : Nat) : Prop :=
  ∀ n, tfind t.stackTab n = (tfind s.stackTab n).map (·.dropOffers launch)

/-- The fault record of a trap that stops the issuing set's launch, taken with strand k first. -/
def stopRecord (s : State) (k : Nat) (x : Trap) : FaultRec :=
  { kind := 1, cause := x.cause, detail := x.detail.zeroExtend 16, launch := s.g.launch, team := s.g.team,
    group := s.g.index, strand := k, core := s.g.core, tinfo := tinfoOf x, tpc := (s.g.strand k).pc, taddr := x.taddr,
    seq := s.lau.lrec.seq }

/-- The issuing set's launch has stopped with a record, or stopped already and counts one more cause; nothing else of any launch
differs, and no dispatcher holds a team of it (R367). -/
def Stopped (s t : State) (r : FaultRec) : Prop :=
  OffersDropped s t s.g.launch ∧ (∀ n, n ≠ s.g.launch → tfind t.launches n = tfind s.launches n) ∧
  { t.lau with stop := s.lau.stop } = s.lau ∧ (s.lau.stop = none → t.lau.stop = some r)

/-- The issuing set takes a trap and nothing else happens: its strands enter the handler, or its launch stops, the access that they
had begun given up. -/
def TakesTrap (s t : State) (x : Trap) : Prop :=
  (∀ k, k ≠ s.gk → tfind t.groups k = tfind s.groups k) ∧ GroupIs s t id ∧ t.g.strands.length = s.g.strands.length ∧
  (TrapStops s x →
    { t with launches := s.launches, stackTab := s.stackTab, groups := s.groups } = s ∧ Stopped s t (stopRecord s s.leadK x) ∧
    ∀ k, { t.g.strand k with begun := (s.g.strand k).begun } = s.g.strand k) ∧
  (¬ TrapStops s x →
    { t with groups := s.groups } = s ∧
    ∀ k, if k ∈ s.ks then Entered (s.g.strand k) (t.g.strand k) x s.lau.lrec.handler
      else t.g.strand k = s.g.strand k)

/-- The trap of the first of some checks that fails, each check telling which trap it raises, if any. -/
inductive FirstFails : List (Trap → Prop) → Trap → Prop where
  | here (P : Trap → Prop) (Ps : List (Trap → Prop)) (x : Trap) (h : P x) : FirstFails (P :: Ps) x
  | later (P : Trap → Prop) (Ps : List (Trap → Prop)) (x : Trap) (h : ∀ y, ¬ P y) (h2 : FirstFails Ps x) : FirstFails (P :: Ps) x

/-- A check of one trap. -/
def Raises (bad : Prop) (x : Trap) : Trap → Prop := fun y => bad ∧ y = x

/-- Strands of the issuing set take a trap together and nothing else happens: in a joined set of their own, while the set's other
strands stand at the instruction, which they have yet to execute (R112, R210). -/
def TakesTrapIn (s t : State) (ks : List Nat) (x : Trap) : Prop :=
  if ks = s.ks then TakesTrap s t x
  else
    (∀ k, k ≠ s.gk → tfind t.groups k = tfind s.groups k) ∧ GroupIs s t id ∧ t.g.strands.length = s.g.strands.length ∧
    t.nextKey = s.nextKey + 1 ∧
    (∀ k, k ∉ ks → { t.g.strand k with begun := (s.g.strand k).begun } = s.g.strand k) ∧
    (TrapStopsIn s ks x →
      { t with launches := s.launches, stackTab := s.stackTab, groups := s.groups, nextKey := s.nextKey } = s ∧
      Stopped s t (stopRecord s (ks.headD 0) x) ∧
      ∀ k ∈ ks, { t.g.strand k with begun := (s.g.strand k).begun } = { s.g.strand k with jset := s.nextKey }) ∧
    (¬ TrapStopsIn s ks x →
      { t with groups := s.groups, nextKey := s.nextKey } = s ∧
      ∀ k ∈ ks, Entered { s.g.strand k with jset := s.nextKey } (t.g.strand k) x s.lau.lrec.handler)

/-- Traps that arise in active lanes, `F` telling in which and which: x is the lowest failing lane's, and ks are the strands whose
own lowest failing lane fails with its cause (R36, R68, R210, R230, R234). -/
def FailTogether (s : State) (F : Nat → Trap → Prop) (x : Trap) (ks : List Nat) : Prop :=
  (∃ l ∈ s.lanes, F l x ∧ ∀ m ∈ s.lanes, m < l → ∀ y, ¬ F m y) ∧ ks.Sublist s.ks ∧
  ∀ k ∈ s.ks, k ∈ ks ↔ ∃ m ∈ s.lanes, ∃ y, m / 4 = k ∧ F m y ∧ y.cause = x.cause ∧
    ∀ n ∈ s.lanes, n / 4 = k → n < m → ∀ z, ¬ F n z

/-- The strands that fail as the lowest failing lane does take that lane's trap together, and nothing else happens. -/
def TakesLaneTrap (s t : State) (F : Nat → Trap → Prop) : Prop :=
  ∃ x ks, FailTogether s F x ks ∧ TakesTrapIn s t ks x

end Sys2Proof.Safety
end

