-- ==== Sys2Proof/Claims/Scalar.lean ====
section
/-!
DEFINITION. The rules of the scalar instructions, as claims state them.
-/
namespace Sys2Proof.Safety
open Sys2Proof.Machine

/-- A register operand that does not name an s register which the launch has, where one is asked for (R21, R402). -/
def NotScalar (s : State) (r : Reg) : Prop := ∀ k : Fin 64, r = .s k → s.foreignS k.val = true

/-- The rule of a scalar instruction that writes an s register: the s codes it names as sources, its destination
and the value written. -/
inductive ScalarRule (s : State) : Instr → List Reg → Reg → DWord → Prop where
  | sadd d a b : ScalarRule s (.sadd d a b) [a, b] d (s.rdS a + s.rdS b)
  | ssub d a b : ScalarRule s (.ssub d a b) [a, b] d (s.rdS a - s.rdS b)
  | smul d a b : ScalarRule s (.smul d a b) [a, b] d (s.rdS a * s.rdS b)
  | smulh d a b : ScalarRule s (.smulh d a b) [a, b] d ((((s.rdS a).signExtend 128 * (s.rdS b).signExtend 128) >>> 64).setWidth 64)
  | sdiv d a b : ScalarRule s (.sdiv d a b) [a, b] d (if s.rdS b = 0 then -1 else (s.rdS a).sdiv (s.rdS b))
  | sdivn d a b : ScalarRule s (.sdivn d a b) [a, b] d (if s.rdS b = 0 then -1 else BitVec.ofNat 64 ((s.rdS a).toNat / (s.rdS b).toNat))
  | srem d a b : ScalarRule s (.srem d a b) [a, b] d ((s.rdS a).srem (s.rdS b))
  | sand d a b : ScalarRule s (.sand d a b) [a, b] d (s.rdS a &&& s.rdS b)
  | sor d a b : ScalarRule s (.sor d a b) [a, b] d (s.rdS a ||| s.rdS b)
  | sxor d a b : ScalarRule s (.sxor d a b) [a, b] d (s.rdS a ^^^ s.rdS b)
  | sshl d a b : ScalarRule s (.sshl d a b) [a, b] d (BitVec.ofNat 64 ((s.rdS a).toNat * 2 ^ (s.rdS b).toNat))
  | sshr d a b : ScalarRule s (.sshr d a b) [a, b] d (BitVec.ofNat 64 ((s.rdS a).toNat / 2 ^ (s.rdS b).toNat))
  | ssra d a b : ScalarRule s (.ssra d a b) [a, b] d (BitVec.ofInt 64 ((s.rdS a).toInt / 2 ^ (s.rdS b).toNat))
  | smin d a b : ScalarRule s (.smin d a b) [a, b] d (if (s.rdS a).toInt ≤ (s.rdS b).toInt then s.rdS a else s.rdS b)
  | smax d a b : ScalarRule s (.smax d a b) [a, b] d (if (s.rdS a).toInt ≤ (s.rdS b).toInt then s.rdS b else s.rdS a)
  | saddi d a n : ScalarRule s (.saddi d a n) [a] d (s.rdS a + n.signExtend 64)
  | smovi d n : ScalarRule s (.smovi d n) [] d (n.signExtend 64)
  | smovx d n : ScalarRule s (.smovx d n) [] d (n.signExtend 64)
  | smovxh d n : ScalarRule s (.smovxh d n) [] d (n ++ (s.rdS d).extractLsb' 0 32)
  | sshli d a n : ScalarRule s (.sshli d a n) [a] d (BitVec.ofNat 64 ((s.rdS a).toNat * 2 ^ n.toNat))
  | sshri d a n : ScalarRule s (.sshri d a n) [a] d (BitVec.ofNat 64 ((s.rdS a).toNat / 2 ^ n.toNat))
  | ssrai d a n : ScalarRule s (.ssrai d a n) [a] d (BitVec.ofInt 64 ((s.rdS a).toInt / 2 ^ n.toNat))
  | sandi d a n : ScalarRule s (.sandi d a n) [a] d (s.rdS a &&& n.zeroExtend 64)
  | smadi d a n : ScalarRule s (.smadi d a n) [a] d (s.rdS d + s.rdS a * n.signExtend 64)
  | spopc d a : ScalarRule s (.spopc d a) [a] d (BitVec.ofNat 64 ((List.range 64).countP fun k => (s.rdS a).getLsbD k))
  | sclz d a : ScalarRule s (.sclz d a) [a] d (BitVec.ofNat 64 (if s.rdS a = 0 then 64 else 63 - Nat.log2 (s.rdS a).toNat))
  | sid d n : ScalarRule s (.sid d n) [] d (BitVec.ofNat 64 (match n.toNat with
      | 0 => s.g.core | 1 => s.g.core / 16 | 2 => s.g.core / 4 % 4 | 3 => s.g.part | 4 => s.leadK
      | 5 => s.g.width / 4 | 6 => s.g.launch | _ => s.lau.lrec.teamsX * s.lau.lrec.teamsY))
  | ssel d k a b : ScalarRule s (.ssel d k a b) [a, b] d (if s.g.pr k.toNat (s.setLanes.headD 0) then s.rdS a else s.rdS b)
  | smask d p (x : DWord) (h : ∀ l, l < 64 → x.getLsbD l = (s.setLanes.contains l && s.g.pr p.toNat l)) :
      ScalarRule s (.smask d p) [] d x
  | vballot d p (x : DWord) (h : ∀ l, l < 64 → x.getLsbD l = (s.lanes.contains l && s.g.pr p.toNat l)) :
      ScalarRule s (.vballot d p) [] d x
  | rfalNone d (a : Fin 176) (h1 : a.val % typeWords (mType s.mode) = 0) (h2 : a.val + typeWords (mType s.mode) ≤ s.g.held)
      (h3 : s.lanes = []) : ScalarRule s (.rfal d (.v a)) [] d 0
  | rfal d (a : Fin 176) (l : Nat) (h1 : a.val % typeWords (mType s.mode) = 0)
      (h2 : a.val + typeWords (mType s.mode) ≤ s.g.held) (h3 : s.lanes.head? = some l) :
      ScalarRule s (.rfal d (.v a)) [] d
        (if mType s.mode = 6 ∨ mType s.mode = 7 then s.g.vr (a.val + 1) l ++ s.g.vr a.val l
         else if mType s.mode = 0 then (s.g.vr a.val l).signExtend 64 else (s.g.vr a.val l).zeroExtend 64)

/-- Each of a list of codes is an s code the issuing group may name (R21, R402). -/
def ScalarCodes (s : State) (rs : List Reg) : Prop := ∀ r ∈ rs, ∃ k, r = .s k ∧ s.foreignS k.val = false

end Sys2Proof.Safety
end

