-- ==== Sys2Proof/Claims/Vector.lean ====
section
/-!
DEFINITION. The rules of the lane instructions, as claims state them: what each instruction writes in each active
lane, said of the elements of the words written.
-/
namespace Sys2Proof.Safety
open Sys2Proof.Machine

/-! ## Effects in lanes -/

/-- An instruction of w words pops its queues, draws n l times in lane l, writes words from register i up in the listed
lanes, and passes; nothing else of the group changes. -/
def WritesV (s t : State) (w : Nat) (u : Uses) (n : Nat → Nat) (i : Fin 176) (rs : List (Nat × List Word)) : Prop :=
  Passes s t w (fun g => { g.popQueues s.lanes u.pops with v := t.g.v, srg := t.g.srg, bad := t.g.bad }) ∧
  (∀ r l, l < 64 → t.g.vr r l =
    ((rs.find? fun e => e.1 == l).bind fun e => if i.val ≤ r then e.2[r - i.val]? else none).getD (s.g.vr r l)) ∧
  (∀ l, t.g.gen l = (srgDraws (s.g.gen l) (n l)).getLastD (s.g.gen l)) ∧
  (∀ e ∈ t.g.bad, e ∈ s.g.bad)

/-- An instruction writes words to a destination in the listed lanes, with n draws in each active lane. Pushing to a
queue register is what `writeDst` does. -/
def WritesLanes (s t : State) (w : Nat) (u : Uses) (n : Nat) (d : Reg) (rs : List (Nat × List Word)) : Prop :=
  match d with
  | .v i => WritesV s t w u (fun l => if l ∈ s.lanes then n else 0) i rs
  | d => t = commit s (s.done (((s.onG fun g => g.popQueues s.lanes u.pops).drawAll n).writeDst d rs) w)

/-- Words pushed to a queue register by lanes, in their order; `pop` is what the instruction popped and `gen` the lanes'
generators before the push. A push to q4 carries the type, rounding, flush, function, PC and draws of the instruction
(R207); one to q6 enters the partner's q7, or is discarded where the partner has ended (R208). -/
def Pushes (s t : State) (pop : Group → Group) (gen : Nat → Word) (q : Nat) (rs : List (Nat × Word)) : Prop :=
  let mine (l : Nat) : List Word := (rs.filter fun e => e.1 == l).map (·.2)
  let n := if q = 4 ∧ mRound s.mode = 5 then typeCount (mType s.mode) else 0
  (∀ l, t.g.gen l = if mine l = [] then gen l else (srgDraws (gen l) n).getLastD (gen l)) ∧
  (∀ k, k ≠ s.gk → (q = 6 ∧ s.partner s.g = some k ∧ s.partnerEnded s.g = false) ∨ tfind t.groups k = tfind s.groups k) ∧
  match q with
  | 0 => GroupIs s t fun g => { pop g with q0 := g.q0 ++ rs, srg := t.g.srg }
  | 1 => GroupIs s t fun g => { pop g with q1 := g.q1 ++ rs, srg := t.g.srg }
  | 4 => GroupIs s t (fun g => { pop g with sfu := t.g.sfu, srg := t.g.srg }) ∧
    ∀ l, t.g.args l = s.g.args l ++ (mine l).map fun w =>
      { value := w, type := BitVec.ofNat 4 (mType s.mode), round := BitVec.ofNat 3 (mRound s.mode), ftz := mFtz s.mode,
        fn := s.g.sfufn, draws := srgDraws (gen l) n, pc := s.pc }
  | _ => GroupIs s t (fun g => { pop g with srg := t.g.srg }) ∧
    ∀ k, s.partner s.g = some k → s.partnerEnded s.g = false →
      { t.grp k with fifo := (s.grp k).fifo } = s.grp k ∧
      ∀ i l, l < 64 → (t.grp k).queued i l = (s.grp k).queued i l ++ (if i = 7 then mine l else [])

/-- The issuing set waits at its instruction, each of its strands changed as given; nothing else changes but the sequence numbers
of waits. -/
def WaitsAs (s t : State) (w : Wait) (f : Strand → Strand) : Prop :=
  { t with groups := s.groups, ctl := s.ctl } = s ∧ { t.ctl with waitSeq := s.ctl.waitSeq } = s.ctl ∧
  (∀ k, k ≠ s.gk → tfind t.groups k = tfind s.groups k) ∧ GroupIs s t id ∧
  t.g.strands.length = s.g.strands.length ∧
  ∀ k, if k ∈ s.ks then (t.g.strand k).wait = some w ∧ { t.g.strand k with wait := none, waitSeq := 0 } =
      { f (s.g.strand k) with wait := none, waitSeq := 0 }
    else t.g.strand k = s.g.strand k

/-- The issuing set waits at its instruction, and nothing else changes. -/
abbrev Waits (s t : State) (w : Wait) : Prop := WaitsAs s t w fun x => x

/-- The operands of a lane instruction raise no trap and its queues are ready (R21-R24, R206, R209). -/
def OperandsReady (s : State) (u : Uses) : Prop :=
  s.operandTrap u = none ∧ s.queueTraps s.g s.lanes (u.pops ++ u.pushes) = [] ∧
  s.queuesReady s.g s.lanes (u.pops ++ u.pushes) = true

/-! ## Operands that are not allowed (R21, R25, R205, R207-R209, R301, R305) -/

/-- The issuing group has a partner in its team; a traveller has none (R208, R402). -/
def Partnered (s : State) : Prop := s.g.trav = none ∧ s.g.index ^^^ 1 < s.lau.lrec.groups

/-- A source of n words that raises 0x03: a misaligned v register, a q code for more than a word, a queue that may not be popped,
q7 without a partner, an s code for a quad, or an s register a traveller has not. -/
inductive SourceBad (s : State) : Reg → Nat → Prop where
  | misaligned (i : Fin 176) (n : Nat) (h : i.val % n ≠ 0) : SourceBad s (.v i) n
  | wide (i : Fin 16) (n : Nat) (h : n ≠ 1) : SourceBad s (.q i) n
  | notPopped (i : Fin 16) (n : Nat) (h : i.val ∉ [2, 3, 5, 7]) : SourceBad s (.q i) n
  | alone (n : Nat) (h : ¬ Partnered s) : SourceBad s (.q 7) n
  | quad (k : Fin 64) : SourceBad s (.s k) 4
  | foreign (k : Fin 64) (n : Nat) (h : s.lau.travel = true) (h2 : 16 ≤ k.val) : SourceBad s (.s k) n

/-- A destination of n words that raises 0x03; `read` tells that the field is read too, or not written in every active lane, where
no q code stands (log 14). -/
inductive DestBad (s : State) (read : Bool) : Reg → Nat → Prop where
  | misaligned (i : Fin 176) (n : Nat) (h : i.val % n ≠ 0) : DestBad s read (.v i) n
  | scalar (k : Fin 64) (n : Nat) : DestBad s read (.s k) n
  | wide (i : Fin 16) (n : Nat) (h : n ≠ 1) : DestBad s read (.q i) n
  | notPushed (i : Fin 16) (n : Nat) (h : i.val ∉ [0, 1, 4, 6]) : DestBad s read (.q i) n
  | argument (n : Nat) (h : mType s.mode ∉ [8, 9, 10]) : DestBad s read (.q 4) n
  | alone (n : Nat) (h : ¬ Partnered s) : DestBad s read (.q 6) n
  | kept (i : Fin 16) (n : Nat) (h : read = true) : DestBad s read (.q i) n

/-- The operands break R21 or R25: a type the instruction does not take, or a field of a wrong class. -/
def ClassBroken (s : State) (u : Uses) : Prop :=
  u.typeOk = false ∨ (∃ x ∈ u.srcs, SourceBad s x.1 x.2) ∨ ∃ x ∈ u.dsts, DestBad s u.noq x.1 x.2

/-- Some register an operand spans is not held (R22). -/
def HoldBroken (s : State) (u : Uses) : Prop := ∃ x ∈ u.srcs ++ u.dsts, ∃ r, x.1 = .v r ∧ s.g.held < r.val + x.2

/-- The unit holds no result and no aggregate that is still to enter a lane's q2 or q3, and none can come of the words it will
take (R305); of q5, no argument is in flight (R209). -/
def NothingToCome (g : Group) (q l : Nat) : Prop :=
  match q with
  | 2 => (∀ e ∈ g.glz.store, e.1 = true ∨ e.2.1 ≠ l) ∧
    (∀ t, g.glz.tile = some t → t.cfg.noh = true ∨ ∀ e ∈ t.elems.drop t.moved, e.lane ≠ l) ∧
    ∀ c, g.glz.pend.or g.glz.cfg = some c → c.noh = true ∨ ∀ e ∈ g.q1, e.1 ≠ l
  | 3 => (∀ e ∈ g.glz.store, e.1 = false ∨ e.2.1 ≠ l) ∧ (∀ e ∈ g.glz.owed, e.1 = l ∨ l ∉ e.2) ∧
    ∀ t, g.glz.tile = some t → t.closed = true ∨ t.cfg.agg = false ∨ ∀ e ∈ t.elems, e.lane ≠ l
  | 5 => g.args l = []
  | _ => True

/-- The trap that one push to, or pop from, queue q raises in a lane where it can never be made. -/
inductive QueueTrap (s : State) (q l : Nat) : Trap → Prop where
  | noRank (h : q = 0 ∨ q = 1) (h2 : s.g.glz.joined = false) : QueueTrap s q l { cause := 0x30, detail := 3 }
  | oneWord (c : GlzCfg) (h : q = 0) (h2 : s.g.glz.joined = true) (h3 : s.g.glz.cfg = some c) (h4 : 4 ≤ c.code.toNat) :
      QueueTrap s q l { cause := 0x30, detail := 5 }
  | glaze (h : q = 2 ∨ q = 3) (h2 : s.g.queued q l = []) (h3 : NothingToCome s.g q l) (h4 : s.g.glz.joined = true) :
      QueueTrap s q l { cause := 0x32, detail := 6 }
  | glazeNoRank (h : q = 2 ∨ q = 3) (h2 : s.g.queued q l = []) (h3 : NothingToCome s.g q l) (h4 : s.g.glz.joined = false) :
      QueueTrap s q l { cause := 0x30, detail := 3 }
  | result (h : q = 5) (h2 : s.g.queued q l = []) (h3 : NothingToCome s.g q l) : QueueTrap s q l { cause := 0x32, detail := 2 }
  | partner (h : q = 7) (h2 : s.g.queued q l = []) (h3 : s.partnerEnded s.g = true) : QueueTrap s q l { cause := 0x32, detail := 2 }

/-- Source i of an instruction in a lane. -/
def src (s : State) (u : Uses) (i l : Nat) : List Word := (s.g.srcVals l [] u.srcs).getD i []

/-- Element e of source i in a lane as an integer of MODE.type, and as unsigned bits. -/
def srcI (s : State) (u : Uses) (i l e : Nat) : Int := elemInt (mType s.mode) (src s u i l) e
def srcU (s : State) (u : Uses) (i l e : Nat) : Nat := elemNat (typeBits (mType s.mode)) (src s u i l) e

/-- The words of a v destination before the instruction. -/
def oldWords (s : State) (d : Reg) (n l : Nat) : List Word :=
  match d with | .v i => (List.range n).map fun k => s.g.vr (i.val + k) l | _ => []

/-- fit of R107 and R42: y is x clamped to the type's bounds under MODE.sat, else x modulo the type's width. -/
def Fits (s : State) (x y : Int) : Prop :=
  let t := mType s.mode
  let lo := minInt (typeBits t) (typeSigned t)
  let hi := maxInt (typeBits t) (typeSigned t)
  if mSat s.mode then y = max lo (min hi x) else lo ≤ y ∧ y ≤ hi ∧ (2 ^ typeBits t : Int) ∣ y - x

/-- A value of MODE.type whose elements, read by the type, satisfy a rule. -/
def ElemsI (s : State) (p : Nat → Int → Prop) (ws : List Word) : Prop :=
  ws.length = typeWords (mType s.mode) ∧ ∀ e, e < typeCount (mType s.mode) → p e (elemInt (mType s.mode) ws e)

/-- A value of MODE.type whose elements have these bits. -/
def ElemsU (s : State) (f : Nat → Nat) (ws : List Word) : Prop :=
  ws.length = typeWords (mType s.mode) ∧
  ∀ e, e < typeCount (mType s.mode) → elemNat (typeBits (mType s.mode)) ws e = f e % 2 ^ typeBits (mType s.mode)

/-- The operands of an instruction of MODE.type's width. -/
abbrev uses (s : State) (d : Reg) (srcs : List Reg) (noq typeOk : Bool) : Uses := s.vecUses d srcs noq typeOk

/-! ## Integer and word instructions (R107-R109, R137-R142) -/

/-- The operands and the rule of an integer or word instruction: what the words written in a lane must be. -/
inductive IntRule (s : State) : Instr → Uses → Reg → (Uses → Nat → List Word → Prop) → Prop where
  | vadd d a b : IntRule s (.vadd d a b) (uses s d [a, b] false (intType (mType s.mode))) d fun u l =>
      ElemsI s fun e => Fits s (srcI s u 0 l e + srcI s u 1 l e)
  | vsub d a b : IntRule s (.vsub d a b) (uses s d [a, b] false (intType (mType s.mode))) d fun u l =>
      ElemsI s fun e => Fits s (srcI s u 0 l e - srcI s u 1 l e)
  | vmul d a b : IntRule s (.vmul d a b) (uses s d [a, b] false (intType (mType s.mode))) d fun u l =>
      ElemsI s fun e => Fits s (srcI s u 0 l e * srcI s u 1 l e)
  | vmulh d a b : IntRule s (.vmulh d a b) (uses s d [a, b] false (intType (mType s.mode))) d fun u l =>
      ElemsI s fun e y => y = srcI s u 0 l e * srcI s u 1 l e / 2 ^ typeBits (mType s.mode)
  | vmad d a b : IntRule s (.vmad d a b) (uses s d [a, b] true (intType (mType s.mode))) d fun u l =>
      ElemsI s fun e => Fits s
        (elemInt (mType s.mode) (oldWords s d (typeWords (mType s.mode)) l) e + srcI s u 0 l e * srcI s u 1 l e)
  | vand d a b : IntRule s (.vand d a b) (uses s d [a, b] false true) d fun u l ws =>
      ws.length = typeWords (mType s.mode) ∧
      ∀ k, k < typeWords (mType s.mode) → ws[k]? = some ((src s u 0 l).getD k 0 &&& (src s u 1 l).getD k 0)
  | vor d a b : IntRule s (.vor d a b) (uses s d [a, b] false true) d fun u l ws =>
      ws.length = typeWords (mType s.mode) ∧
      ∀ k, k < typeWords (mType s.mode) → ws[k]? = some ((src s u 0 l).getD k 0 ||| (src s u 1 l).getD k 0)
  | vxor d a b : IntRule s (.vxor d a b) (uses s d [a, b] false true) d fun u l ws =>
      ws.length = typeWords (mType s.mode) ∧
      ∀ k, k < typeWords (mType s.mode) → ws[k]? = some ((src s u 0 l).getD k 0 ^^^ (src s u 1 l).getD k 0)
  | vshl d a b : IntRule s (.vshl d a b) (uses s d [a, b] false (intType (mType s.mode))) d fun u l =>
      ElemsI s fun e => Fits s (srcI s u 0 l e * 2 ^ srcU s u 1 l e)
  | vshr d a b : IntRule s (.vshr d a b) (uses s d [a, b] false (intType (mType s.mode))) d fun u l =>
      ElemsU s fun e => srcU s u 0 l e / 2 ^ srcU s u 1 l e
  | vsra d a b : IntRule s (.vsra d a b) (uses s d [a, b] false (intType (mType s.mode))) d fun u l =>
      ElemsU s fun e => toBits (typeBits (mType s.mode))
        (wrapInt (typeBits (mType s.mode)) true (srcU s u 0 l e) / 2 ^ srcU s u 1 l e)
  | vmin d a b : IntRule s (.vmin d a b) (uses s d [a, b] false (intType (mType s.mode))) d fun u l =>
      ElemsI s fun e y => y = min (srcI s u 0 l e) (srcI s u 1 l e)
  | vmax d a b : IntRule s (.vmax d a b) (uses s d [a, b] false (intType (mType s.mode))) d fun u l =>
      ElemsI s fun e y => y = max (srcI s u 0 l e) (srcI s u 1 l e)
  | vabsd d a b : IntRule s (.vabsd d a b) (uses s d [a, b] false (intType (mType s.mode))) d fun u l =>
      ElemsI s fun e => Fits s ((srcI s u 0 l e - srcI s u 1 l e).natAbs : Int)
  | vsel d k a b : IntRule s (.vsel d k a b) (uses s d [a, b] false true) d fun u l ws =>
      ws = src s u (if s.g.pr k.toNat l then 0 else 1) l
  | vaddi d a n : IntRule s (.vaddi d a n) (uses s d [a] false (intType (mType s.mode))) d fun u l =>
      ElemsI s fun e => Fits s (srcI s u 0 l e + n.toInt)
  | vshli d a n : IntRule s (.vshli d a n) (uses s d [a] false (intType (mType s.mode))) d fun u l =>
      ElemsI s fun e => Fits s (srcI s u 0 l e * 2 ^ n.toNat)
  | vshri d a n : IntRule s (.vshri d a n) (uses s d [a] false (intType (mType s.mode))) d fun u l =>
      ElemsU s fun e => srcU s u 0 l e / 2 ^ n.toNat
  | vsrai d a n : IntRule s (.vsrai d a n) (uses s d [a] false (intType (mType s.mode))) d fun u l =>
      ElemsU s fun e => toBits (typeBits (mType s.mode))
        (wrapInt (typeBits (mType s.mode)) true (srcU s u 0 l e) / 2 ^ n.toNat)
  | vpopc d a : IntRule s (.vpopc d a) (uses s d [a] false (intType (mType s.mode))) d fun u l =>
      ElemsU s fun e => (List.range (typeBits (mType s.mode))).countP fun k => (srcU s u 0 l e).testBit k
  | vclz d a : IntRule s (.vclz d a) (uses s d [a] false (intType (mType s.mode))) d fun u l =>
      ElemsU s fun e => if srcU s u 0 l e = 0 then typeBits (mType s.mode)
        else typeBits (mType s.mode) - 1 - Nat.log2 (srcU s u 0 l e)
  | vmovi d n : IntRule s (.vmovi d n) (uses s d [] false true) d fun _ _ ws =>
      ws = if typeWords (mType s.mode) = 2 then [n.signExtend 32, if n.msb then -1 else 0] else [n.signExtend 32]
  | vmovx d n : IntRule s (.vmovx d n) (uses s d [] false true) d fun _ _ ws =>
      ws = if typeWords (mType s.mode) = 2 then [n, if n.msb then -1 else 0] else [n]
  | vlane d : IntRule s (.vlane d) (uses s d [] false true) d fun _ l ws =>
      ws = if typeWords (mType s.mode) = 2 then [BitVec.ofNat 32 l, 0] else [BitVec.ofNat 32 l]
  | vmov d a : IntRule s (.vmov d a) (uses s d [a] false true) d fun u l ws => ws = src s u 0 l
  | vpacks d a b : IntRule s (.vpacks d a b)
      (uses s d [a, b] false (intType (mType s.mode) && decide (typeBits (mType s.mode) ≠ 8))) d fun u l ws =>
        let t := mType s.mode
        let h := typeBits t / 2
        let clamp (x : Int) := max (minInt h (typeSigned t)) (min (maxInt h (typeSigned t)) x)
        ws.length = typeWords t ∧ ∀ e, e < typeCount t →
          elemNat h ws e = toBits h (clamp (srcI s u 0 l e)) ∧
          elemNat h ws (typeCount t + e) = toBits h (clamp (srcI s u 1 l e))
  | eflen d a : IntRule s (.eflen d a) { srcs := [(a, 1)], dsts := [(d, 1)], typeOk := mType s.mode == 11 } d fun u l ws =>
        ws = [BitVec.ofNat 32 (((src s u 0 l).headD 0).toNat / 2 ^ 12 % 8 + 1)]

end Sys2Proof.Safety
end

