-- ==== Sys2Proof/Claims/Float.lean ====
section
/-!
DEFINITION. The rules of the floating-point, conversion and quantization instructions, as claims state them.
-/
namespace Sys2Proof.Safety
open Sys2Proof.Machine

/-- The e-th draw of a lane among the n that an instruction makes there under round mode 5 (R51); 0 under the others. -/
def drawOf (s : State) (n l e : Nat) : Nat := ((srgDraws (s.g.gen l) (drawCount s.mode n)).getD e 0).toNat

/-- Element e of source i in a lane as a float of MODE.type, and as a code, both flushed under MODE.ftz (R48). -/
def srcF (s : State) (u : Uses) (i l e : Nat) : FVal := elemFlt (typeFmt (mType s.mode)) (mFtz s.mode) (src s u i l) e
def srcC (s : State) (u : Uses) (i l e : Nat) : Nat :=
  (typeFmt (mType s.mode)).flush (mFtz s.mode) (elemNat (typeBits (mType s.mode)) (src s u i l) e)

/-- Element e of the old destination as a float. -/
def oldF (s : State) (d : Reg) (l e : Nat) : FVal := elemFlt (typeFmt (mType s.mode)) (mFtz s.mode) (oldWords s d 1 l) e

/-- One rounding of an exact result per element, with the element's own draw (R49, R51, R53, R54). -/
def Rounded (s : State) (l : Nat) (x : Nat → Exact) (ws : List Word) : Prop :=
  ElemsU s (fun e => (typeFmt (mType s.mode)).finish (mRound s.mode) (drawOf s (typeCount (mType s.mode)) l e)
    (mFtz s.mode) l s.pc (x e)) ws

/-- The code VFMIN or VFMAX chooses: the other operand where one is a NaN, the first NaN quieted where both are, else
the smaller or larger, -0 below +0 (R147). -/
def picked (f : Fmt) (larger : Bool) (x y : Nat) : Nat :=
  let u := f.decode x
  let v := f.decode y
  match u, v with
  | .nan s p w, .nan _ _ _ => f.nan s p w
  | .nan _ _ _, _ => y
  | _, .nan _ _ _ => x
  | _, _ => if (if larger then fltBelow u v else fltBelow v u) then y else x

/-- A code with its sign replaced; a NaN keeps its sign and is quieted (R149). -/
def signed (f : Fmt) (g : Bool → Bool) (c : Nat) : Nat :=
  match f.decode c with
  | .nan s p w => f.nan s p w
  | v => c % 2 ^ (f.eb + f.fb) + (if g v.neg? then 2 ^ (f.eb + f.fb) else 0)

/-- The operands of a float instruction. -/
abbrev usesF (s : State) (d : Reg) (srcs : List Reg) (noq : Bool) : Uses := uses s d srcs noq (floatType (mType s.mode))

/-- The elements a conversion writes: their first number, how many, and the first source element (R152). -/
def cvtSpan (hi : Bool) (S D : Nat) : Nat × Nat × Nat :=
  let nS := typeCount S
  let nD := typeCount D
  (if hi && decide (nS < nD) then nD - nS else 0, min nS nD, if hi && decide (nD < nS) then nS - nD else 0)

/-- The operands of VCVT and VCVTI. -/
def cvtUses (s : State) (d a : Reg) (S : Nat) : Uses :=
  { srcs := [(a, typeWords S)], dsts := [(d, typeWords (mType s.mode))],
    noq := decide (typeCount S < typeCount (mType s.mode)), typeOk := decide (S ≤ 10 ∧ mType s.mode ≤ 10) }

/-- What a conversion leaves in a destination (R152, R153). -/
def Converted (s : State) (d : Reg) (S : Nat) (hi : Bool) (u : Uses) (l : Nat) (ws : List Word) : Prop :=
  let D := mType s.mode
  let (lo, n, from_) := cvtSpan hi S D
  ws.length = typeWords D ∧ ∀ e, e < typeCount D → elemNat (typeBits D) ws e =
    if lo ≤ e ∧ e < lo + n then
      cvtElem S D (mRound s.mode) (drawOf s (if cvtRounds S D then n else 0) l (e - lo)) (mSat s.mode) (mFtz s.mode) l
        s.pc (elemNat (typeBits S) (src s u 0 l) (e - lo + from_)) % 2 ^ typeBits D
    else elemNat (typeBits D) (oldWords s d (typeWords D) l) e

/-- The slot kind of a quantization (R62, R158). -/
def kindOf (s : State) (slot : BitVec 3) : Nat := slotKind (s.slotWord slot.toNat)

/-- The operands, the draws per lane and the rule of a floating-point instruction: what the words written in a lane must be. -/
inductive FloatRule (s : State) : Instr → Uses → Reg → Nat → (Uses → Nat → List Word → Prop) → Prop where
  | vfadd d a b : FloatRule s (.vfadd d a b) (usesF s d [a, b] false) d (typeCount (mType s.mode)) fun u l =>
      Rounded s l fun e => addX (mRound s.mode) (srcF s u 0 l e) (srcF s u 1 l e)
  | vfsub d a b : FloatRule s (.vfsub d a b) (usesF s d [a, b] false) d (typeCount (mType s.mode)) fun u l =>
      Rounded s l fun e => addX (mRound s.mode) (srcF s u 0 l e) (srcF s u 1 l e).negate
  | vfmul d a b : FloatRule s (.vfmul d a b) (usesF s d [a, b] false) d (typeCount (mType s.mode)) fun u l =>
      Rounded s l fun e => mulX (srcF s u 0 l e) (srcF s u 1 l e)
  | vfma d a b : FloatRule s (.vfma d a b) (usesF s d [a, b] true) d (typeCount (mType s.mode)) fun u l =>
      Rounded s l fun e => fmaX (mRound s.mode) (srcF s u 0 l e) (srcF s u 1 l e) (oldF s d l e)
  | vfms d a b : FloatRule s (.vfms d a b) (usesF s d [a, b] true) d (typeCount (mType s.mode)) fun u l =>
      Rounded s l fun e => fmaX (mRound s.mode) (srcF s u 0 l e) (srcF s u 1 l e) (oldF s d l e).negate
  | vfnma d a b : FloatRule s (.vfnma d a b) (usesF s d [a, b] true) d (typeCount (mType s.mode)) fun u l =>
      Rounded s l fun e => fmaX (mRound s.mode) (srcF s u 0 l e).negate (srcF s u 1 l e) (oldF s d l e)
  | vfdiv d a b : FloatRule s (.vfdiv d a b) (usesF s d [a, b] false) d (typeCount (mType s.mode)) fun u l =>
      Rounded s l fun e => divX (srcF s u 0 l e) (srcF s u 1 l e)
  | vfsqrt d a : FloatRule s (.vfsqrt d a) (usesF s d [a] false) d (typeCount (mType s.mode)) fun u l =>
      Rounded s l fun e => sqrtX (srcF s u 0 l e)
  | vfrcp d a : FloatRule s (.vfrcp d a) (usesF s d [a] false) d (typeCount (mType s.mode)) fun u l =>
      Rounded s l fun e => rcpX (srcF s u 0 l e)
  | vfrsq d a : FloatRule s (.vfrsq d a) (usesF s d [a] false) d (typeCount (mType s.mode)) fun u l =>
      Rounded s l fun e => rsqX (srcF s u 0 l e)
  | vfexp2 d a : FloatRule s (.vfexp2 d a) (usesF s d [a] false) d (typeCount (mType s.mode)) fun u l =>
      Rounded s l fun e => exp2X (srcF s u 0 l e)
  | vflog2 d a : FloatRule s (.vflog2 d a) (usesF s d [a] false) d (typeCount (mType s.mode)) fun u l =>
      Rounded s l fun e => log2X (srcF s u 0 l e)
  | vfsinp d a : FloatRule s (.vfsinp d a) (usesF s d [a] false) d (typeCount (mType s.mode)) fun u l =>
      Rounded s l fun e => sinpX (srcF s u 0 l e)
  | vfcosp d a : FloatRule s (.vfcosp d a) (usesF s d [a] false) d (typeCount (mType s.mode)) fun u l =>
      Rounded s l fun e => cospX (srcF s u 0 l e)
  | vftanh d a : FloatRule s (.vftanh d a) (usesF s d [a] false) d (typeCount (mType s.mode)) fun u l =>
      Rounded s l fun e => tanhX (srcF s u 0 l e)
  | vfsigm d a : FloatRule s (.vfsigm d a) (usesF s d [a] false) d (typeCount (mType s.mode)) fun u l =>
      Rounded s l fun e => sigmX (srcF s u 0 l e)
  | vfmin d a b : FloatRule s (.vfmin d a b) (usesF s d [a, b] false) d 0 fun u l =>
      ElemsU s fun e => picked (typeFmt (mType s.mode)) false (srcC s u 0 l e) (srcC s u 1 l e)
  | vfmax d a b : FloatRule s (.vfmax d a b) (usesF s d [a, b] false) d 0 fun u l =>
      ElemsU s fun e => picked (typeFmt (mType s.mode)) true (srcC s u 0 l e) (srcC s u 1 l e)
  | vfabs d a : FloatRule s (.vfabs d a) (usesF s d [a] false) d 0 fun u l =>
      ElemsU s fun e => signed (typeFmt (mType s.mode)) (fun _ => false) (srcC s u 0 l e)
  | vfneg d a : FloatRule s (.vfneg d a) (usesF s d [a] false) d 0 fun u l =>
      ElemsU s fun e => signed (typeFmt (mType s.mode)) (!·) (srcC s u 0 l e)
  | vfclass d a : FloatRule s (.vfclass d a) (usesF s d [a] false) d 0 fun u l =>
      ElemsU s fun e => 2 ^ classBit (typeFmt (mType s.mode)) (srcC s u 0 l e)
  | vfrnd d a : FloatRule s (.vfrnd d a) (usesF s d [a] false) d (typeCount (mType s.mode)) fun u l =>
      ElemsU s fun e => (typeFmt (mType s.mode)).finish 0 0 (mFtz s.mode) l s.pc
        (rndInt (mRound s.mode) (drawOf s (typeCount (mType s.mode)) l e) (srcF s u 0 l e))
  | vfscale d a b : FloatRule s (.vfscale d a b) (usesF s d [a, b] false) d (typeCount (mType s.mode)) fun u l =>
      Rounded s l fun e => scaleX (srcF s u 0 l e) (wrapInt (typeBits (mType s.mode)) true (srcU s u 1 l e))
  | vfdot2 d a b : FloatRule s (.vfdot2 d a b)
      { srcs := [(a, 1), (b, 1)], dsts := [(d, 1)], noq := true, typeOk := decide (mType s.mode = 9 ∨ mType s.mode = 10) }
      d 1 fun u l ws => ws = [BitVec.ofNat 32 (f32.finish (mRound s.mode) (drawOf s 1 l 0) (mFtz s.mode) l s.pc
        (dot2X (mRound s.mode) (srcF s u 0 l 0) (srcF s u 0 l 1) (srcF s u 1 l 0) (srcF s u 1 l 1)
          (elemFlt f32 (mFtz s.mode) (oldWords s d 1 l) 0)))]
  | vcvt d a S : FloatRule s (.vcvt d a S) (cvtUses s d a S.toNat) d
      (if cvtRounds S.toNat (mType s.mode) then min (typeCount S.toNat) (typeCount (mType s.mode)) else 0)
      (Converted s d S.toNat false)
  | vcvti d a S : FloatRule s (.vcvti d a S) (cvtUses s d a S.toNat) d
      (if cvtRounds S.toNat (mType s.mode) then min (typeCount S.toNat) (typeCount (mType s.mode)) else 0)
      (Converted s d S.toNat true)
  | vqnt d a k : FloatRule s (.vqnt d a k)
      { srcs := [(a, 4)], dsts := [(d, 1)], typeOk := mType s.mode == 8 && quantKind (kindOf s k) } d 4 fun u l ws =>
      ws.length = 1 ∧ (∀ e, e < 4 → elemNat (kindBits (kindOf s k)) ws e =
        quantElem (kindOf s k) (mRound s.mode) (drawOf s 4 l e) (mSat s.mode) (elemFlt f32 (mFtz s.mode) (src s u 0 l) e)
          % 2 ^ kindBits (kindOf s k)) ∧ joinWords ws < 2 ^ (4 * kindBits (kindOf s k))
  | vdqnt d a k : FloatRule s (.vdqnt d a k)
      { srcs := [(a, 1)], dsts := [(d, 4)], noq := true, typeOk := mType s.mode == 8 && quantKind (kindOf s k) } d 0
      fun u l ws => ws = (List.range 4).map fun e =>
        BitVec.ofNat 32 (dequantElem (kindOf s k) (elemNat (kindBits (kindOf s k)) (src s u 0 l) e))
  | vtpack d a : FloatRule s (.vtpack d a) { srcs := [(a, 4)], dsts := [(d, 1)] } d 0 fun u l ws =>
      -- byte j holds the trits of bytes 5 j to 5 j + 4, a trit 1 above zero and 2 below it (R61, R160)
      let trit (i : Nat) : Nat :=
        let b := elemNat 8 (src s u 0 l) i
        if b = 0 then 0 else if b < 128 then 1 else 2
      ws.length = 1 ∧ joinWords ws < 2 ^ 24 ∧ ∀ j, j < 3 → elemNat 8 ws j =
        trit (5 * j) + 3 * trit (5 * j + 1) + 9 * trit (5 * j + 2) + 27 * trit (5 * j + 3) + 81 * trit (5 * j + 4)

end Sys2Proof.Safety
end

