-- ==== Sys2Proof/Claims/Predicate.lean ====
section
/-!
DEFINITION. The rules of the instructions that write a predicate, as claims state them.
-/
namespace Sys2Proof.Safety
open Sys2Proof.Machine

/-- An instruction pops its queues, writes a predicate in the listed lanes, and passes; every other predicate bit and every
register is unchanged. -/
def WritesPred (s t : State) (w : Nat) (u : Uses) (k : Nat) (ls : List Nat) (f : Nat → Prop) : Prop :=
  Passes s t w (fun g => { g.popQueues s.lanes u.pops with p := t.g.p, bad := t.g.bad }) ∧
  (∀ j l, l < 64 → (t.g.pr j l = true ↔ if j = k ∧ l ∈ ls then f l else s.g.pr j l = true)) ∧
  (∀ e ∈ t.g.bad, e ∈ s.g.bad)

/-- A condition on two integers (R91). -/
def CondI (c : Cond) (x y : Int) : Prop :=
  match c with | .eq => x = y | .ne => x ≠ y | .lt => x < y | .le => x ≤ y | .gt => x > y | .ge => x ≥ y

/-- A condition on two floats: with a NaN it is false, and true for ne; -0 equals +0 (R148). -/
def CondF (c : Cond) (x y : FVal) : Prop :=
  if x.isNan = true ∨ y.isNan = true then c = .ne else CondI c (cmpVal x y) 0

/-- The operands and the rule of a lane instruction that writes a predicate: which predicate, in which lanes, and what
each lane's bit says. -/
inductive PredRule (s : State) : Instr → Uses → Nat → List Nat → (Nat → Prop) → Prop where
  | vcmp (k : BitVec 3) c a b :
      PredRule s (.vcmp k c a b) { srcs := [(a, typeWords (mType s.mode)), (b, typeWords (mType s.mode))],
                                   typeOk := intType (mType s.mode) } k.toNat s.lanes fun l =>
        let u : Uses := { srcs := [(a, typeWords (mType s.mode)), (b, typeWords (mType s.mode))] }
        ∀ e, e < typeCount (mType s.mode) → CondI c (srcI s u 0 l e) (srcI s u 1 l e)
  | vfcmp (k : BitVec 3) c a b :
      PredRule s (.vfcmp k c a b) { srcs := [(a, 1), (b, 1)], typeOk := floatType (mType s.mode) } k.toNat s.lanes fun l =>
        let u : Uses := { srcs := [(a, 1), (b, 1)] }
        ∀ e, e < typeCount (mType s.mode) → CondF c (srcF s u 0 l e) (srcF s u 1 l e)
  | pand (k a b : BitVec 3) : PredRule s (.pand k a b) {} k.toNat s.lanes fun l =>
      s.g.pr a.toNat l = true ∧ s.g.pr b.toNat l = true
  | por (k a b : BitVec 3) : PredRule s (.por k a b) {} k.toNat s.lanes fun l =>
      s.g.pr a.toNat l = true ∨ s.g.pr b.toNat l = true
  | pxor (k a b : BitVec 3) : PredRule s (.pxor k a b) {} k.toNat s.lanes fun l =>
      s.g.pr a.toNat l ≠ s.g.pr b.toNat l
  | pnot (k a : BitVec 3) : PredRule s (.pnot k a) {} k.toNat s.lanes fun l => s.g.pr a.toNat l = false
  | ptest (k a : BitVec 3) : PredRule s (.ptest k a) {} k.toNat s.setLanes fun _ =>
      ∃ m ∈ s.lanes, s.g.pr a.toNat m = true
  | scmp (k : BitVec 3) c (a b : Fin 64) (ha : s.foreignS a.val = false) (hb : s.foreignS b.val = false) :
      PredRule s (.scmp k c (.s a) (.s b)) {} k.toNat s.setLanes fun _ =>
        if intType (mType s.mode) = true ∧ typeSigned (mType s.mode) = false then
          CondI c (s.g.sr a.val).toNat (s.g.sr b.val).toNat
        else CondI c (s.g.sr a.val).toInt (s.g.sr b.val).toInt

end Sys2Proof.Safety
end

