-- ==== Sys2Proof/Claims/Cross.lean ====
section
/-!
DEFINITION. The rules of the cross-lane instructions, as claims state them.
-/
namespace Sys2Proof.Safety
open Sys2Proof.Machine

/-- The combination of elements under an operation code (R165-R167): `y` is the code of the result written to a lane, `xs`
the elements combined, in lane order. -/
def Combines (s : State) (code l draw : Nat) (xs : List Nat) (y : Nat) : Prop :=
  let t := mType s.mode
  let w := typeBits t
  let f := typeFmt t
  let int (x : Nat) : Int := wrapInt w (typeSigned t) x
  y < 2 ^ w ∧
  match code with
  | 0 => Fits s (xs.map int).sum (int y)
  | 1 => (∃ x ∈ xs, int x = int y) ∧ ∀ x ∈ xs, int y ≤ int x
  | 2 => (∃ x ∈ xs, int x = int y) ∧ ∀ x ∈ xs, int x ≤ int y
  | 3 => ∀ k, k < w → (y.testBit k = true ↔ ∀ x ∈ xs, x.testBit k = true)
  | 4 => ∀ k, k < w → (y.testBit k = true ↔ ∃ x ∈ xs, x.testBit k = true)
  | 5 => ∀ k, k < w → (y.testBit k = true ↔ (xs.countP fun x => x.testBit k) % 2 = 1)
  | 6 =>
    let vs := xs.map fun x => f.decode (f.flush (mFtz s.mode) x)
    y = f.finish (mRound s.mode) draw (mFtz s.mode) l s.pc ((firstNan vs).getD (sumExact (mRound s.mode) vs)) % 2 ^ w
  | c =>
    let cs := xs.map (f.flush (mFtz s.mode))
    y = cs.tail.foldl (picked f (c == 8)) (cs.headD 0) % 2 ^ w

/-- The identity of an operation code (R165). -/
def identityOf (t code : Nat) : Nat :=
  match code with
  | 1 => toBits (typeBits t) (maxInt (typeBits t) (typeSigned t))
  | 2 => toBits (typeBits t) (minInt (typeBits t) (typeSigned t))
  | 3 => 2 ^ typeBits t - 1
  | 7 => (typeFmt t).inf false
  | 8 => (typeFmt t).inf true
  | _ => 0

/-- The value of a lane-index operand. -/
def laneIndex (s : State) (u : Uses) (l : Nat) : Nat := joinWords (src s u 1 l)

/-- What a pulling move writes in lane l from lane m: the source there, where m is an active lane of the group (R163). -/
def pulled (s : State) (u : Uses) (m : Nat) : Option (List Word) :=
  if m < s.g.width ∧ s.active m = true then some (src s u 0 m) else none

/-- The draws of a lane under code 6 (R166, R167). -/
def redDraws (s : State) (imm : BitVec 8) : Nat :=
  if imm.toNat % 16 = 6 then drawCount s.mode (typeCount (mType s.mode)) else 0

/-- The operands, the draws by lane, and the rule of a cross-lane instruction: which lanes are written, each with what. -/
inductive CrossRule (s : State) : Instr → Uses → Reg → (Nat → Nat) → List Nat → (Uses → Nat → Option (List Word) → Prop) → Prop where
  | vshfl d a b : CrossRule s (.vshfl d a b) (s.moveUses d a (some b)) d (fun _ => 0) s.lanes fun u l x =>
      x = pulled s u (laneIndex s u l)
  | vrot d a b : CrossRule s (.vrot d a b) (s.moveUses d a (some b)) d (fun _ => 0) s.lanes fun u l x =>
      x = pulled s u ((l + laneIndex s u l) % s.g.width)
  | vbcl d a n : CrossRule s (.vbcl d a n) (s.moveUses d a none) d (fun _ => 0) s.lanes fun u _ x =>
      x = pulled s u n.toNat
  | vsend d a b : CrossRule s (.vsend d a b) (s.moveUses d a (some b)) d (fun _ => 0) s.lanes fun u l x =>
      (x = none ∧ ∀ m ∈ s.lanes, laneIndex s u m ≠ l) ∨
      (∃ m ∈ s.lanes, laneIndex s u m = l ∧ x = some (src s u 0 m) ∧ ∀ k ∈ s.lanes, laneIndex s u k = l → k ≤ m)
  | vred d a n : CrossRule s (.vred d a n)
      { s.moveUses d a none with typeOk := redOk (mType s.mode) (n.toNat % 16) } d
      (fun l => if s.lanes.head? = some l then redDraws s n else 0) s.lanes fun u _ x =>
      let l0 := s.lanes.headD 0
      ∃ ws, x = some ws ∧ ws.length = typeWords (mType s.mode) ∧ ∀ e, e < typeCount (mType s.mode) →
        Combines s (n.toNat % 16) l0 ((srgDraws (s.g.gen l0) (redDraws s n)).getD e 0).toNat
          (s.lanes.map fun l => srcU s u 0 l e) (elemNat (typeBits (mType s.mode)) ws e)
  | vscan d a n : CrossRule s (.vscan d a n)
      { s.moveUses d a none with typeOk := redOk (mType s.mode) (n.toNat % 16) } d
      (fun l => if l ∈ s.lanes then redDraws s n else 0) s.lanes fun u l x =>
      let ls := s.lanes.filter fun m => if n.getLsbD 4 then decide (m < l) else decide (m ≤ l)
      ∃ ws, x = some ws ∧ ws.length = typeWords (mType s.mode) ∧ ∀ e, e < typeCount (mType s.mode) →
        let y := elemNat (typeBits (mType s.mode)) ws e
        if ls = [] then y = identityOf (mType s.mode) (n.toNat % 16)
        else Combines s (n.toNat % 16) l ((srgDraws (s.g.gen l) (redDraws s n)).getD e 0).toNat
          (ls.map fun m => srcU s u 0 m e) y
  | vmatch d a : CrossRule s (.vmatch d a)
      { srcs := [(a, typeWords (mType s.mode))], dsts := [(d, 2)], noq := true } d (fun _ => 0) s.lanes fun u l x =>
      ∃ lo hi : Word, x = some [lo, hi] ∧ ∀ m, m < 64 →
        ((hi ++ lo).getLsbD m = true ↔ m ∈ s.lanes ∧ src s u 0 m = src s u 0 l)
  | vcomp d a : CrossRule s (.vcomp d a) (s.moveUses d a none) d (fun _ => 0) (s.g.laneNos.filter s.running) fun u l x =>
      x = (s.lanes[(s.g.laneNos.filter s.running).idxOf l]?).map fun m => src s u 0 m

end Sys2Proof.Safety
end

