-- ==== Sys2Proof/Claims/Elastic.lean ====
section
/-!
DEFINITION. The rules of the elastic-float instructions that access no memory, as claims state them.
-/
namespace Sys2Proof.Safety
open Sys2Proof.Machine

/-- The value of the window based at a register in a lane: its header there, and the extension words that the header's
bits [14:12] count (R35, R65, R66). -/
def windowAt (s : State) (r : Reg) (l : Nat) : FVal :=
  let h := s.g.vr (regIdx r) l
  efDecode h ((List.range (h.toNat / 2 ^ 12 % 8)).map fun k => s.g.vr (regIdx r + (k + 1)) l)

/-- The windows and the plain operands raise no trap and the queues are ready (R21-R24, R36, R171). -/
def WindowsReady (s : State) (srcs : List Reg) (dst : Option Reg) (u : Uses) : Prop :=
  s.windowTraps srcs dst u = [] ∧ OperandsReady s u

/-- The last register of the window based at a register in a lane, and of a destination window of precision P (R35). -/
def windowEnd (s : State) (r : Reg) (l : Nat) : Nat := regIdx r + (s.g.vr (regIdx r) l).toNat / 2 ^ 12 % 8
def resultEnd (s : State) (d : Reg) : Nat := regIdx d + (s.prec - 13 + 31) / 32

/-- A window or a plain operand of a wrong class, or a type the instruction does not take (R21, R171). -/
def WindowClass (s : State) (srcs : List Reg) (dst : Option Reg) (u : Uses) : Prop :=
  mType s.mode ≠ 11 ∨ (∃ r ∈ srcs ++ dst.toList, ∀ k, r ≠ .v k) ∨ ClassBroken s u

/-- In a lane a window runs past v175, or the destination's shares a register with a source's of another base (R36). -/
def WindowPast (s : State) (srcs : List Reg) (dst : Option Reg) (l : Nat) : Prop :=
  (∃ r ∈ srcs, 175 < windowEnd s r l) ∨
  ∃ d, dst = some d ∧ (175 < resultEnd s d ∨
    ∃ r ∈ srcs, regIdx r ≠ regIdx d ∧ regIdx r ≤ resultEnd s d ∧ regIdx d ≤ windowEnd s r l)

/-- The base register of a window, or a register of a plain operand, is not held (R22). -/
def BaseNotHeld (s : State) (srcs : List Reg) (dst : Option Reg) (u : Uses) : Prop :=
  (∃ r ∈ srcs ++ dst.toList, s.g.held ≤ regIdx r) ∨ HoldBroken s u

/-- In a lane some register of a window is not held (R22, R36). -/
def WindowNotHeld (s : State) (srcs : List Reg) (dst : Option Reg) (l : Nat) : Prop :=
  (∃ r ∈ srcs, s.g.held ≤ windowEnd s r l) ∨ ∃ d, dst = some d ∧ s.g.held ≤ resultEnd s d

/-- The magnitude of a value without its sign; a NaN keeps its own (R174). -/
def unsigned : FVal → FVal
  | .nan s p w => .nan s p w | .inf _ => .inf false | .num _ m e => .num false m e

/-- The exact value of an EFCVT source of type t in a lane (R175): an f32 flushed under MODE.ftz, its NaN brought to
12 fraction bits (R48, R54); or an integer. -/
def cvtSource (s : State) (u : Uses) (t l : Nat) : Exact :=
  if t = 8 then
    match elemFlt f32 (mFtz s.mode) (src s u 0 l) 0 with
    | .nan n p w => .nan n (nanPay p w 12) 12
    | x => .ofVal x
  else
    let x := elemInt t (src s u 0 l) 0
    .fin { neg := decide (x < 0), m := x.natAbs, e := 0 }

/-- The source windows, the plain operands, the destination and each lane's exact result of an elastic-float
instruction that writes a window (R172, R174, R175). -/
inductive EfRule (s : State) : Instr → List Reg → Uses → Reg → (Nat → Exact) → Prop where
  | efadd d a b : EfRule s (.efadd d a b) [a, b] {} d fun l => addX (mRound s.mode) (windowAt s a l) (windowAt s b l)
  | efsub d a b : EfRule s (.efsub d a b) [a, b] {} d fun l =>
      addX (mRound s.mode) (windowAt s a l) (windowAt s b l).negate
  | efmul d a b : EfRule s (.efmul d a b) [a, b] {} d fun l => mulX (windowAt s a l) (windowAt s b l)
  | effma d a b : EfRule s (.effma d a b) [a, b, d] {} d fun l =>
      fmaX (mRound s.mode) (windowAt s a l) (windowAt s b l) (windowAt s d l)
  | efdiv d a b : EfRule s (.efdiv d a b) [a, b] {} d fun l => divX (windowAt s a l) (windowAt s b l)
  | efsqrt d a : EfRule s (.efsqrt d a) [a] {} d fun l => sqrtX (windowAt s a l)
  | efrnd d a : EfRule s (.efrnd d a) [a] {} d fun l => .ofVal (windowAt s a l)
  | efneg d a : EfRule s (.efneg d a) [a] {} d fun l => .ofVal (windowAt s a l).negate
  | efabs d a : EfRule s (.efabs d a) [a] {} d fun l => .ofVal (unsigned (windowAt s a l))
  | efcvt d a (t : BitVec 8) : EfRule s (.efcvt d a t) []
      { srcs := [(a, typeWords t.toNat)], typeOk := decide (t.toNat ∈ [0, 1, 6, 7, 8]) } d
      (cvtSource s { srcs := [(a, typeWords t.toNat)] } t.toNat)

/-- The words EFCVTO writes in a lane: the window's value as an f32 or as an integer of type t (R44, R176). -/
def cvtResult (s : State) (a : Reg) (t l : Nat) : List Word :=
  let x := windowAt s a l
  if t = 8 then
    [BitVec.ofNat 32 (f32.finish (mRound s.mode) (drawOf s 1 l 0) (mFtz s.mode) l s.pc (.ofVal x))]
  else splitWords (toBits (32 * typeWords t) (fltToInt t (mRound s.mode) (drawOf s 1 l 0) (mSat s.mode) x)) (typeWords t)

/-- The elastic-float instructions that access no memory but for EFLEN, with their source windows, their destination window and
their plain operands. -/
inductive WindowForm (s : State) : Instr → List Reg → Option Reg → Uses → Prop where
  | result i srcs u d x (h : EfRule s i srcs u d x) : WindowForm s i srcs (some d) u
  | efcmp k c a b : WindowForm s (.efcmp k c a b) [a, b] none {}
  | efcvto d a (n : BitVec 8) : WindowForm s (.efcvto d a n) [a] none
      { dsts := [(d, typeWords n.toNat)], typeOk := decide (n.toNat ∈ [0, 1, 6, 7, 8]) }

end Sys2Proof.Safety
end

