-- ==== Sys2Proof/Claims/Control.lean ====
section
/-!
DEFINITION. The rules of control transfer, loops, mode setting, system-register writes and traps, as claims state them.
-/
namespace Sys2Proof.Safety
open Sys2Proof.Machine

/-! ## Targets (R81, R119) -/

/-- The word a header check reads: the header of the bundle an address lies in. -/
def headerOf (t : DWord) : DWord := t - BitVec.ofNat 64 (t.toNat % 128)

/-- An address control may go to: a slot of a bundle that can be fetched, whose bit in the header is 1; an entry is slot 1
of a bundle whose header bit 0 is 1. -/
def TargetOk (s : State) (t : DWord) (entry : Bool) : Prop :=
  t.toNat % 4 = 0 ∧ t.toNat % 128 ≠ 0 ∧ ∃ h, s.fetch s.g (headerOf t) = .ok h ∧
    h.getLsbD (t.toNat % 128 / 4) = true ∧ (entry = true → t.toNat % 128 = 4 ∧ h.getLsbD 0 = true)

/-- The trap of an address control may not go to, in the order of its checks. -/
inductive TargetBad (s : State) (t : DWord) (entry : Bool) : Trap → Prop where
  | unaligned (h : t.toNat % 4 ≠ 0) : TargetBad s t entry { cause := 0x0A, taddr := t }
  | header (h1 : t.toNat % 4 = 0) (h2 : t.toNat % 128 = 0) : TargetBad s t entry { cause := 0x09, taddr := t }
  | absent (c d : Byte) (h1 : t.toNat % 4 = 0) (h2 : t.toNat % 128 ≠ 0) (h3 : s.fetch s.g (headerOf t) = .error (c, d)) :
      TargetBad s t entry { cause := c, taddr := t, detail := d }
  | slot (h : Word) (h1 : t.toNat % 4 = 0) (h2 : t.toNat % 128 ≠ 0) (h3 : s.fetch s.g (headerOf t) = .ok h)
      (h4 : h.getLsbD (t.toNat % 128 / 4) = false ∨ (entry = true ∧ (t.toNat % 128 ≠ 4 ∨ h.getLsbD 0 = false))) :
      TargetBad s t entry { cause := 0x09, taddr := t }

/-- Where EXIT leaves a strand: on the path on top of its stack, at the REGANG where its other lanes are parked, or ended (R115, R120). -/
inductive Exits (x : Strand) : Strand → Prop where
  | path (e : DivEntry) (st : List DivEntry) (h : x.stack = e :: st) :
      Exits x (({ x with amask := e.mask, stack := st, pc := e.pc } : Strand).arrive [2, 1, 0])
  | parked (h : x.stack = []) (h2 : x.parked ≠ 0) : Exits x { x with amask := x.parked, parked := 0, pc := x.parkPc }
  | ends (h : x.stack = []) (h2 : x.parked = 0) : Exits x { x with amask := 0, ended := true }

/-! ## Where an instruction moves its strands -/

/-- A strand that has arrived at an address: rejoining there and the loop-end rule are R111 and R124. -/
def landed (x : Strand) (t : DWord) : Strand := ({ x with pc := t } : Strand).arrive [2, 1, 0]

/-- The paths that rejoin a strand at its PC: exactly those on top of its stack that are parked there, their lanes joining its
active mask (R111). -/
def Rejoins (x y : Strand) : Prop :=
  ∃ es, x.stack = es ++ y.stack ∧ (∀ e ∈ es, e.pc = x.pc) ∧ (∀ e, y.stack.head? = some e → e.pc ≠ x.pc) ∧
    (∀ l, y.amask.getLsbD l = (x.amask.getLsbD l || es.any fun e => e.mask.getLsbD l)) ∧
    { y with stack := x.stack, amask := x.amask } = x

/-- The loop levels that end at a strand's PC, and those of them that go round once more (R124). -/
def EndsAt (x : Strand) (k : Nat) : Prop := (x.loop k).count ≠ 0 ∧ (x.loop k).stop = x.pc
def GoesRound (x : Strand) (k : Nat) : Prop := k < 3 ∧ EndsAt x k ∧ (x.loop k).count ≠ 1

/-- The loop-end rule: level 2 is tried first, then 1, then 0. A level that ends at the PC counts down by one. One that reaches
zero is left and hands on to the next; the first that does not goes back to the start of its body, and no lower one is tried
(R124). -/
def LoopsEnd (x y : Strand) : Prop :=
  (∀ k, (k < 3 ∧ EndsAt x k ∧ ∀ j, k < j → ¬ GoesRound x j) →
    y.loop k = { x.loop k with count := (x.loop k).count - 1 }) ∧
  (∀ k, ¬ (k < 3 ∧ EndsAt x k ∧ ∀ j, k < j → ¬ GoesRound x j) → y.loop k = x.loop k) ∧
  (∀ k, GoesRound x k → (∀ j, k < j → ¬ GoesRound x j) → y.pc = (x.loop k).start) ∧
  ((∀ k, ¬ GoesRound x k) → y.pc = x.pc) ∧
  { y with loops := x.loops, pc := x.pc } = x

/-- The issuing set need not leave its core where its strands go: its group is no traveller's, or the traveller is in
handler mode, has ended, or stays in its holder's segment (R411). -/
def StaysBy (s : State) (f : Nat → Strand → Strand) : Prop :=
  StaysAt s (if 0 ∈ s.ks then f 0 (s.g.strand 0) else s.g.strand 0)

/-- An instruction moves its set's strands and does nothing else. -/
def Moves (s t : State) (f : Nat → Strand → Strand) : Prop :=
  OnlyIssuer s t ∧ GroupIs s t id ∧ Went s.g t.g s.ks f

/-- The lanes of strand k that take a conditional branch: active in its mask, with the predicate as asked (R118). -/
def Taking (s : State) (k p : Nat) (neg : Bool) (m : BitVec 4) : Prop :=
  ∀ i, i < 4 → m.getLsbD i = ((s.g.strand k).amask.getLsbD i && (s.g.pr p (4 * k + i) != neg))

/-- A path of lanes parked at an address on a strand's stack of at most 16: it joins the top path where that is parked
there (R111). -/
inductive Parked (x : Strand) (m : BitVec 4) (y : DWord) : Strand → Prop where
  | top (e : DivEntry) (st : List DivEntry) (h : x.stack = e :: st) (h2 : e.pc = y) :
      Parked x m y { x with stack := { mask := e.mask ||| m, pc := y } :: st }
  | new (h : ∀ e, x.stack.head? = some e → e.pc ≠ y) (h2 : x.stack.length < 16) :
      Parked x m y { x with stack := { mask := m, pc := y } :: x.stack }

/-- A conditional branch of a strand with m the lanes that take it (R118): not taken, taken whole, or split, the lanes
that go to the higher address parked there. -/
inductive Branched (x : Strand) (m : BitVec 4) (t : DWord) : Strand → Prop where
  | no (h : m = 0) : Branched x m t (landed x (seqNext x.pc 1))
  | all (h : m ≠ 0) (h2 : m = x.amask) : Branched x m t (landed x t)
  | ahead (z : Strand) (h : m ≠ 0) (h2 : m ≠ x.amask) (h3 : x.pc.toNat < t.toNat) (h4 : Parked x m t z) :
      Branched x m t (landed { z with amask := x.amask &&& ~~~m } (seqNext x.pc 1))
  | back (z : Strand) (h : m ≠ 0) (h2 : m ≠ x.amask) (h3 : t.toNat ≤ x.pc.toNat)
      (h4 : Parked x (x.amask &&& ~~~m) (seqNext x.pc 1) z) : Branched x m t (landed { z with amask := m } t)

/-- The per-strand system registers a SYSW writes: number, value, and the change of each strand of the set (R29, R220,
R221). -/
inductive SysSets (x : DWord) : Nat → (Strand → Strand) → Prop where
  | mode (h1 : mType (x.setWidth 24) < 12) (h2 : mRound (x.setWidth 24) < 6) (h3 : mScope (x.setWidth 24) < 5)
      (h4 : x.toNat / 2 ^ 20 % 16 = 0) : SysSets x 0x006 fun y => { y with mode := x.setWidth 24 }
  | prec (h : 8 ≤ x.toNat % 256 ∧ x.toNat % 256 ≤ 237) : SysSets x 0x007 fun y => { y with prec := x.setWidth 8 }
  | loop (k : Nat) (h : k < 3) : SysSets x (0x008 + k) fun y => y.setLoop k { y.loop k with count := x.setWidth 32 }
  | link : SysSets x 0x00B fun y => { y with lk := BitVec.ofNat 64 (x.toNat % 2 ^ 57) }
  | live : SysSets x 0x00D fun y => { y with live := x }
  | tcause : SysSets x 0x010 fun y => { y with tcause := x.setWidth 8 }
  | tpc : SysSets x 0x011 fun y => { y with tpc := BitVec.ofNat 64 (x.toNat % 2 ^ 57) }
  | taddr : SysSets x 0x012 fun y => { y with taddr := x }
  | tinfo : SysSets x 0x013 fun y => { y with tinfo := x.setWidth 32 }

/-- The instructions that move their set's strands and change nothing else, each with the conditions under which it
completes and what it makes of each strand. -/
inductive MoveRule (s : State) : Instr → (Nat → Strand → Strand) → Prop where
  | nop : MoveRule s .nop fun _ x => landed x (seqNext x.pc 1)
  | yield : MoveRule s .yield fun _ x => landed x (seqNext x.pc 1)
  | bra (off : BitVec 24) (h : TargetOk s (s.pc + off.signExtend 64 * 4) false) :
      MoveRule s (.bra off) fun _ x => landed x (s.pc + off.signExtend 64 * 4)
  | call (off : BitVec 24) (h : TargetOk s (s.pc + off.signExtend 64 * 4) true) :
      MoveRule s (.call off) fun _ x => landed { x with lk := BitVec.ofNat 64 ((seqNext x.pc 1).toNat % 2 ^ 57) } (s.pc + off.signExtend 64 * 4)
  | ret (h : ∀ k ∈ s.ks, TargetOk s (s.g.strand k).lk false) : MoveRule s .ret fun _ x => landed x x.lk
  | jmpr (k : Fin 64) (h : s.foreignS k.val = false) (h2 : TargetOk s (s.g.sr k.val) false) :
      MoveRule s (.jmpr (.s k)) fun _ x => landed x (s.g.sr k.val)
  | brc (p : BitVec 3) (neg : Bool) (off : BitVec 20) (F : Nat → Strand → Strand)
      (h : ∀ k ∈ s.ks, ∃ m, Taking s k p.toNat neg m ∧ (m ≠ 0 → TargetOk s (s.pc + off.signExtend 64 * 4) false) ∧
        Branched (s.g.strand k) m (s.pc + off.signExtend 64 * 4) (F k (s.g.strand k))) :
      MoveRule s (.brc p neg off) F
  | loop (k : BitVec 2) (cnt : BitVec 6) (len : BitVec 16) (e : DWord) (h : s.foreignS cnt.toNat = false)
      (h2 : e = Nat.repeat (fun a => seqNext a 1) len.toNat (seqNext s.pc 1)) (h3 : TargetOk s (seqNext s.pc 1) false)
      (h4 : TargetOk s e false) :
      MoveRule s (.loop k cnt len) fun _ x =>
        landed (x.setLoop k.toNat { count := BitVec.ofNat 32 (min (s.g.sr cnt.toNat).toNat 0xFFFFFFFF),
                                    start := seqNext s.pc 1, stop := e })
          (if s.g.sr cnt.toNat = 0 then e else seqNext s.pc 1)
  | leave (k : BitVec 2)
      (h : ∀ n ∈ s.ks, ((s.g.strand n).loop k.toNat).count ≠ 0 → TargetOk s ((s.g.strand n).loop k.toNat).stop false) :
      MoveRule s (.leave k) fun _ x =>
        let v := x.loop k.toNat
        if v.count = 0 then landed x (seqNext x.pc 1)
        else ({ x.setLoop k.toNat { v with count := 0 } with pc := v.stop } : Strand).arrive
          ([1, 0].filter fun i => decide (i < k.toNat))
  | setm (m : BitVec 24) (h1 : mType m < 12) (h2 : mRound m < 6) (h3 : mScope m < 5) (h4 : m.toNat / 2 ^ 20 = 0) :
      MoveRule s (.setm m) fun _ x => landed { x with mode := m } (seqNext x.pc 1)
  | setp (p : BitVec 8) (h : 8 ≤ p.toNat ∧ p.toNat ≤ 237) :
      MoveRule s (.setp p) fun _ x => landed { x with prec := p } (seqNext x.pc 1)
  | setlive (k : Fin 64) (h : s.foreignS k.val = false) :
      MoveRule s (.setlive (.s k)) fun _ x => landed { x with live := s.g.sr k.val } (seqNext x.pc 1)
  | tret (T : Nat → DWord) (h : ∀ k ∈ s.ks, (s.g.strand k).handler = true)
      (h1 : ∀ k ∈ s.ks, (s.g.strand k).tinfo.getLsbD 0 = false → T k = (s.g.strand k).tpc)
      (h2 : ∀ k ∈ s.ks, (s.g.strand k).tinfo.getLsbD 0 = true →
        match s.fetch s.g (s.g.strand k).tpc with
        | .ok w => T k = seqNext (s.g.strand k).tpc (if takesExtension (BitVec.ofNat 8 (w.toNat / 2 ^ 24)) then 2 else 1)
        | .error _ => T k = (s.g.strand k).tpc) :
      MoveRule s .tret fun k x => landed { x with handler := false } (T k)
  | waitt (m : BitVec 8) (h : ∀ k, k < 8 → m.getLsbD k = true → (s.g.token k).state ≠ 1) :
      MoveRule s (.waitt m) fun _ x => landed x (seqNext x.pc 1)
  | sysw (k : Fin 64) (n : BitVec 16) (f : Strand → Strand) (h : s.foreignS k.val = false)
      (h2 : SysSets (s.g.sr k.val) n.toNat f) : MoveRule s (.sysw (.s k) n) fun _ x => landed (f x) (seqNext x.pc 1)

/-! ## Traps of these instructions (R31, R34, R81, R89, R90, R118, R127, R213, R220, R402) -/

/-- The instructions whose effect is to take a trap, and the traps of the others where they may not complete. -/
inductive TrapRule (s : State) : Instr → Trap → Prop where
  | trap (n : BitVec 16) : TrapRule s (.trap n) { cause := 0x38, taddr := s.pc, imm := n, low := 1 }
  | ill : TrapRule s .ill { cause := 0x01, taddr := s.pc, low := 0xF0 }
  | undefinedOpcode (op : BitVec 8) : TrapRule s (.undefinedOpcode op) { cause := 0x01, taddr := s.pc, low := op }
  | bra (off : BitVec 24) (x : Trap) (h : TargetBad s (s.pc + off.signExtend 64 * 4) false x) : TrapRule s (.bra off) x
  | call (off : BitVec 24) (x : Trap) (h : TargetBad s (s.pc + off.signExtend 64 * 4) true x) : TrapRule s (.call off) x
  | jmpr (k : Fin 64) (x : Trap) (h : s.foreignS k.val = false) (h2 : TargetBad s (s.g.sr k.val) false x) :
      TrapRule s (.jmpr (.s k)) x
  | jmprClass (r : Reg) (h : ∀ k, r = .s k → s.foreignS k.val = true) : TrapRule s (.jmpr r) { cause := 0x03 }
  | setliveClass (r : Reg) (h : ∀ k, r = .s k → s.foreignS k.val = true) : TrapRule s (.setlive r) { cause := 0x03 }
  | ret (k : Nat) (x : Trap) (h : s.ks = [k]) (h2 : TargetBad s (s.g.strand k).lk false x) : TrapRule s .ret x
  | brc (k : Nat) (p : BitVec 3) (neg : Bool) (off : BitVec 20) (m : BitVec 4) (x : Trap) (h : s.ks = [k])
      (h2 : Taking s k p.toNat neg m) (h3 : m ≠ 0) (h4 : TargetBad s (s.pc + off.signExtend 64 * 4) false x) :
      TrapRule s (.brc p neg off) x
  | brcFull (k : Nat) (p : BitVec 3) (neg : Bool) (off : BitVec 20) (m : BitVec 4) (h : s.ks = [k])
      (h2 : Taking s k p.toNat neg m) (h3 : m ≠ 0) (h4 : m ≠ (s.g.strand k).amask)
      (h5 : TargetOk s (s.pc + off.signExtend 64 * 4) false) (h6 : (s.g.strand k).stack.length = 16)
      (h7 : ∀ e, (s.g.strand k).stack.head? = some e → e.pc ≠
        (if s.pc.toNat < (s.pc + off.signExtend 64 * 4).toNat then s.pc + off.signExtend 64 * 4 else seqNext s.pc 1)) :
      TrapRule s (.brc p neg off) { cause := 0x07 }
  | loopClass (k : BitVec 2) (cnt : BitVec 6) (len : BitVec 16) (h : s.foreignS cnt.toNat = true) :
      TrapRule s (.loop k cnt len) { cause := 0x03 }
  | loopStart (k : BitVec 2) (cnt : BitVec 6) (len : BitVec 16) (x : Trap) (h : s.foreignS cnt.toNat = false)
      (h2 : TargetBad s (seqNext s.pc 1) false x) : TrapRule s (.loop k cnt len) x
  | loopStop (k : BitVec 2) (cnt : BitVec 6) (len : BitVec 16) (x : Trap) (h : s.foreignS cnt.toNat = false)
      (h2 : TargetOk s (seqNext s.pc 1) false)
      (h3 : TargetBad s (Nat.repeat (fun a => seqNext a 1) len.toNat (seqNext s.pc 1)) false x) : TrapRule s (.loop k cnt len) x
  | leave (k : BitVec 2) (n : Nat) (x : Trap) (h : s.ks = [n]) (h2 : ((s.g.strand n).loop k.toNat).count ≠ 0)
      (h3 : TargetBad s ((s.g.strand n).loop k.toNat).stop false x) : TrapRule s (.leave k) x
  | setm (m : BitVec 24) (h : 12 ≤ mType m ∨ 6 ≤ mRound m ∨ 5 ≤ mScope m ∨ m.toNat / 2 ^ 20 ≠ 0) :
      TrapRule s (.setm m) { cause := 0x02 }
  | setp (p : BitVec 8) (h : p.toNat < 8 ∨ 237 < p.toNat) : TrapRule s (.setp p) { cause := 0x06 }
  | regangLanes (h : s.ks ≠ [])
      (h2 : ∀ k ∈ s.ks, (s.g.strand k).parked ≠ 0 ∧ (s.g.strand k).parkPc ≠ (s.g.strand k).pc) :
      TrapRule s .regang { cause := 0x08 }
  | regangElsewhere (h : s.ks ≠ []) (j : Nat) (h1 : j < s.g.strands.length)
      (h2 : ∀ k ∈ s.ks, (s.g.strand k).stack = [] ∧
        ((s.g.strand k).parked = 0 ∨ (s.g.strand k).parkPc = (s.g.strand k).pc))
      (h3 : (s.g.strand j).ended = false) (h4 : (s.g.strand j).arrived = true) (h5 : (s.g.strand j).pc ≠ s.pc) :
      TrapRule s .regang { cause := 0x08 }
  | tret (h : s.ks ≠ []) (h2 : ∀ k ∈ s.ks, (s.g.strand k).handler = false) : TrapRule s .tret { cause := 0x11 }

/-! ## Where strands of one set fare differently (R112, R118, R119, R125, R210, R213) -/

/-- Where each strand of the set goes, or the trap it takes, each by its own link, loop level, lanes or handler mode. -/
inductive StrandRule (s : State) : Instr → Nat → Trap ⊕ Strand → Prop where
  | ret (k : Nat) (h : TargetOk s (s.g.strand k).lk false) :
      StrandRule s .ret k (.inr (landed (s.g.strand k) (s.g.strand k).lk))
  | retBad (k : Nat) (x : Trap) (h : TargetBad s (s.g.strand k).lk false x) : StrandRule s .ret k (.inl x)
  | brc (k : Nat) (p : BitVec 3) (neg : Bool) (off : BitVec 20) (m : BitVec 4) (y : Strand) (h : Taking s k p.toNat neg m)
      (h2 : m ≠ 0 → TargetOk s (s.pc + off.signExtend 64 * 4) false)
      (h3 : Branched (s.g.strand k) m (s.pc + off.signExtend 64 * 4) y) : StrandRule s (.brc p neg off) k (.inr y)
  | brcBad (k : Nat) (p : BitVec 3) (neg : Bool) (off : BitVec 20) (m : BitVec 4) (x : Trap) (h : Taking s k p.toNat neg m)
      (h2 : m ≠ 0) (h3 : TargetBad s (s.pc + off.signExtend 64 * 4) false x) : StrandRule s (.brc p neg off) k (.inl x)
  | brcFull (k : Nat) (p : BitVec 3) (neg : Bool) (off : BitVec 20) (m : BitVec 4) (h : Taking s k p.toNat neg m)
      (h2 : m ≠ 0) (h3 : m ≠ (s.g.strand k).amask) (h4 : TargetOk s (s.pc + off.signExtend 64 * 4) false)
      (h5 : (s.g.strand k).stack.length = 16) (h6 : ∀ e, (s.g.strand k).stack.head? = some e → e.pc ≠
        (if (s.g.strand k).pc.toNat < (s.pc + off.signExtend 64 * 4).toNat then s.pc + off.signExtend 64 * 4
         else seqNext (s.g.strand k).pc 1)) : StrandRule s (.brc p neg off) k (.inl { cause := 0x07 })
  | leaveNone (k : Nat) (n : BitVec 2) (h : ((s.g.strand k).loop n.toNat).count = 0) :
      StrandRule s (.leave n) k (.inr (landed (s.g.strand k) (seqNext (s.g.strand k).pc 1)))
  | leave (k : Nat) (n : BitVec 2) (v : LoopLevel) (h : (s.g.strand k).loop n.toNat = v) (h2 : v.count ≠ 0)
      (h3 : TargetOk s v.stop false) :
      StrandRule s (.leave n) k (.inr (({ (s.g.strand k).setLoop n.toNat { v with count := 0 } with pc := v.stop } : Strand).arrive
        ([1, 0].filter fun i => decide (i < n.toNat))))
  | leaveBad (k : Nat) (n : BitVec 2) (x : Trap) (h : ((s.g.strand k).loop n.toNat).count ≠ 0)
      (h2 : TargetBad s ((s.g.strand k).loop n.toNat).stop false x) : StrandRule s (.leave n) k (.inl x)
  | tret (k : Nat) (h : (s.g.strand k).handler = true) (h2 : (s.g.strand k).tinfo.getLsbD 0 = false) :
      StrandRule s .tret k (.inr (landed { s.g.strand k with handler := false } (s.g.strand k).tpc))
  | tretAgain (k : Nat) (h : (s.g.strand k).handler = false) : StrandRule s .tret k (.inl { cause := 0x11 })

/-- Every strand of the set fares by its own outcome. Strands that trap with one cause take it together in one joined set, those of
another cause, and those that go on, are no longer joined with them (R112, R210). Where there is no handler and all that trap do
so with one cause, the launch stops, and they stand at the instruction, an access they had begun
given up. -/
def EachFares (s t : State) (R : Nat → Trap ⊕ Strand) : Prop :=
  (∀ k, k ≠ s.gk → tfind t.groups k = tfind s.groups k) ∧ GroupIs s t id ∧ t.g.strands.length = s.g.strands.length ∧
  (∀ k, k ∉ s.ks → t.g.strand k = s.g.strand k) ∧
  (∀ k ∈ s.ks, ∀ y, R k = .inr y → ∃ j n, t.g.strand k = ready y j n) ∧
  (s.lau.lrec.handler ≠ 0 → (∀ k ∈ s.ks, ∀ x, R k = .inl x → (s.g.strand k).handler = false ∧ x.cause ≠ 0x15 ∧ x.cause ≠ 0x3F) →
    { t with groups := s.groups, nextKey := s.nextKey } = s ∧
    (∀ k ∈ s.ks, ∀ x, R k = .inl x → ∃ j, Entered { s.g.strand k with jset := j } (t.g.strand k) x s.lau.lrec.handler) ∧
    ∀ a ∈ s.ks, ∀ b ∈ s.ks, ∀ x, R a = .inl x →
      ((t.g.strand a).jset = (t.g.strand b).jset ↔ ∃ y, R b = .inl y ∧ x.cause = y.cause)) ∧
  (s.lau.lrec.handler = 0 → ∀ a x, R a = .inl x → a ∈ s.ks → (∀ b ∈ s.ks, ∀ y, R b = .inl y → a ≤ b ∧ y.cause = x.cause) →
    { t with launches := s.launches, stackTab := s.stackTab, groups := s.groups, nextKey := s.nextKey } = s ∧
    Stopped s t (stopRecord s a x) ∧
    ∀ k ∈ s.ks, ∀ y, R k = .inl y → ∃ j, { t.g.strand k with begun := (s.g.strand k).begun } = { s.g.strand k with jset := j })

end Sys2Proof.Safety
end

