-- ==== Sys2Proof/Claims/Team.lean ====
section
/-!
DEFINITION. What strands of a group and groups of a team do together, as claims state it: ordered instructions, barriers,
the palette, and the system registers.
-/
namespace Sys2Proof.Safety
open Sys2Proof.Machine

/-! ## Order (R236, R387-R389) -/

/-- No flight of strands of a group is under way: of a scalar access, which belongs to no strand alone, or of a lane of theirs (R236,
R382). -/
def NoFlights (s : State) (gk : Nat) (ks : List Nat) : Prop :=
  ∀ r ∈ s.loads, r.group = gk → r.fly ≠ none → r.lane / 4 ∉ ks ∧ r.lane < 64

/-- Every earlier access of the issuing strands is performed: no flight of theirs is under way, and no write of theirs that left
the package is unacknowledged (R382, R387). -/
def NothingOwed (s : State) : Prop :=
  NoFlights s s.gk s.ks ∧
  ∀ r ∈ s.remotes, r.group = s.gk → r.op = .store → r.jset < copySets → r.lane / 4 ∉ s.ks ∧ r.lane ≠ 64

/-- A release at MODE.scope has nothing left to do: it is at group scope, where every earlier access is performed; or it has been
made, and every core has acknowledged it and, at system scope, the host and other packages the group's writes before it. -/
def ReleaseMade (s : State) : Prop :=
  (mScope s.mode = 0 ∧ (s.lead.released = true ∨ NothingOwed s)) ∨
  (s.lead.released = true ∧ s.unacked = false ∧
    (mScope s.mode = 4 → ∀ r ∈ s.remotes, r.group = s.gk → r.op = .store → r.jset < copySets → s.lead.snap ≤ r.id))

/-- The release half of an ordered instruction has nothing left to do, or MODE.order asks for none. -/
def ReleaseDone (s : State) : Prop := mRelease s.mode = false ∨ ReleaseMade s

/-- MODE.order asks for no acquire that reaches another core. -/
abbrev NoAcquire (s : State) : Prop := mAcquire s.mode = false ∨ mScope s.mode = 0

/-- What an acquire by the issuing set leaves of a core (R388): the lines its published signature names are dropped and the
signature is empty; at stack scope and above the handle entries go, at system scope every line. -/
def Acquired (s : State) (c d : Core) : Prop :=
  if NoAcquire s then d = c
  else
    { d with l1 := c.l1, l1order := c.l1order, l1poison := c.l1poison, psig := c.psig, handles := c.handles } = c ∧
    d.psig = 0 ∧ d.handles = (if 2 ≤ mScope s.mode then [] else c.handles) ∧
    ∀ line, tfind d.l1 line = if mScope s.mode = 4 ∨ sigMatch c.psig line = true then none else tfind c.l1 line

/-- A group that is no traveller's, or a traveller in handler mode: its set does not leave its core. -/
def Resident (s : State) : Prop := ∀ tr, s.g.trav = some tr → (s.g.strand 0).handler = true

/-! ## Barriers (R193-R196) -/

/-- A group of the issuing group's team. -/
def InTeam (s : State) (g : Group) : Prop := g.launch = s.g.launch ∧ g.team = s.g.team

/-- Every strand of the team outside the issuing set has ended or has an arrival pending at barrier n. -/
def OthersArrived (s : State) (n : Nat) : Prop :=
  ∀ e ∈ s.groups, InTeam s e.2 → ∀ k, k < e.2.strands.length → e.1 = s.gk ∧ k ∈ s.ks ∨
    (e.2.strand k).ended = true ∨ (e.2.strand k).barPend.getLsbD n = true

/-- A strand but for what its arrivals at barriers change. -/
def sameBut (x y : Strand) : Prop := { y with barPend := x.barPend, barMark := x.barMark } = x

/-- Arrivals pending at a strand afterwards were pending before. -/
def FewerPending (x y : Strand) : Prop := ∀ i, y.barPend.getLsbD i = true → x.barPend.getLsbD i = true

/-- Between two states, other groups of the issuing group's team differ in pending arrivals alone, and none is added;
every group of another team is unchanged. -/
def BarriersOnly (s t : State) : Prop :=
  ∀ k, k ≠ s.gk → (¬ InTeam s (s.grp k) → tfind t.groups k = tfind s.groups k) ∧
    { t.grp k with strands := (s.grp k).strands } = s.grp k ∧ (t.grp k).strands.length = (s.grp k).strands.length ∧
    ∀ j, sameBut ((s.grp k).strand j) ((t.grp k).strand j) ∧ FewerPending ((s.grp k).strand j) ((t.grp k).strand j)

/-- The issuing set has passed a barrier instruction; `pend` tells whether its arrivals at barrier n are pending afterwards, and
`acq` whether it ended with the acquire that MODE.order asks for. -/
def PassesBarrier (s t : State) (n : Nat) (pend acq : Bool) : Prop :=
  { t with groups := s.groups, nextKey := s.nextKey, cores := s.cores } = s ∧
  (∀ c, c ≠ s.g.core → tfind t.cores c = tfind s.cores c) ∧
  (if acq then Acquired s (s.core s.g.core) (t.core s.g.core) else t.cores = s.cores) ∧
  BarriersOnly s t ∧ GroupIs s t id ∧ t.g.strands.length = s.g.strands.length ∧
  ∀ k, if k ∈ s.ks then
      ∃ j m b, t.g.strand k = ready { landed (s.g.strand k) (seqNext (s.g.strand k).pc 1) with barPend := b } j m ∧
        b.getLsbD n = pend ∧ ∀ i, i ≠ n → b.getLsbD i = true → (s.g.strand k).barPend.getLsbD i = true
    else sameBut (s.g.strand k) (t.g.strand k) ∧ FewerPending (s.g.strand k) (t.g.strand k)

/-- The issuing set waits at barrier n with the arrivals of its strands recorded: those that had none pending have made one, whose
strands are marked, and the others wait for their earlier one. Nothing else changes but arrivals at barriers that complete. -/
def WaitsArrived (s t : State) (n : Nat) : Prop :=
  { t with groups := s.groups, ctl := s.ctl } = s ∧ { t.ctl with waitSeq := s.ctl.waitSeq } = s.ctl ∧
  BarriersOnly s t ∧ GroupIs s t id ∧ t.g.strands.length = s.g.strands.length ∧
  ∀ k, if k ∈ s.ks then
      (t.g.strand k).wait = some (.barrier n) ∧ (t.g.strand k).barPend.getLsbD n = true ∧
      (t.g.strand k).barMark = (if (s.g.strand k).barPend.getLsbD n = true then none else some n) ∧
      (∀ i, i ≠ n → (t.g.strand k).barPend.getLsbD i = true → (s.g.strand k).barPend.getLsbD i = true) ∧
      { t.g.strand k with wait := none, waitSeq := 0, barPend := 0, barMark := none, released := false } =
        { s.g.strand k with wait := none, waitSeq := 0, barPend := 0, barMark := none, released := false }
    else sameBut (s.g.strand k) (t.g.strand k) ∧ FewerPending (s.g.strand k) (t.g.strand k)

/-! ## The palette (R197-R203) -/

/-- A claim of u units is granted at once: no claim and no restore waits in the group's partition, and its free units
cover it (R198, R199). -/
def GrantedAtOnce (s : State) (u : Nat) : Prop :=
  (∀ c ∈ (s.core s.g.core).claims, c.part ≠ s.g.part) ∧
  (∀ e ∈ s.groups, e.2.core = s.g.core → e.2.part = s.g.part → e.2.restoring = false) ∧
  u ≤ s.freeUnits s.g.core s.g.part

/-- The registers a claim asks for, in a group of its width. -/
def Claim.regs (s : State) (c : Claim) : Nat := c.units * 16 / (s.grp c.group).width * 16

/-- Claims served in order from some free units, `held` telling what each group holds (R198, R201): a claim is granted when the free
units cover it, and the first that they do not cover holds up the rest; one that would take its group past the ceiling by then is
withdrawn (log 91). `gs` are the claims granted, `left` those that still wait. -/
inductive ClaimsServed (s : State) : Nat → (Nat → Nat) → List Claim → List Claim → List Claim → Prop where
  | none (f : Nat) (held : Nat → Nat) : ClaimsServed s f held [] [] []
  | granted (f : Nat) (held : Nat → Nat) (c : Claim) (cs gs left : List Claim)
      (h : held c.group + Claim.regs s c ≤ (s.launch (s.grp c.group).launch).lrec.ceil) (h1 : c.units ≤ f)
      (h2 : ClaimsServed s (f - c.units) (fun k => if k = c.group then held k + Claim.regs s c else held k) cs gs left) :
      ClaimsServed s f held (c :: cs) (c :: gs) left
  | withdrawn (f : Nat) (held : Nat → Nat) (c : Claim) (cs gs left : List Claim)
      (h : (s.launch (s.grp c.group).launch).lrec.ceil < held c.group + Claim.regs s c) (h2 : ClaimsServed s f held cs gs left) :
      ClaimsServed s f held (c :: cs) gs left
  | waits (f : Nat) (held : Nat → Nat) (c : Claim) (cs : List Claim)
      (h : held c.group + Claim.regs s c ≤ (s.launch (s.grp c.group).launch).lrec.ceil) (h1 : f < c.units) :
      ClaimsServed s f held (c :: cs) [] (c :: cs)

/-- The palette of a partition is in order: what its groups and its travel holder hold fits its 128 units, and its claims are of
whole blocks for groups there that hold their units. -/
def PaletteSound (s : State) (core part : Nat) : Prop :=
  ((s.groups.filter fun e => e.2.core == core && e.2.part == part && e.2.trav.isNone && !e.2.restoring).map fun e =>
      e.2.held / 16 * (e.2.width / 16)).sum +
    (match (s.core core).holder with | some h => 8 * ((s.launch h.launch).lrec.base / 16) | none => 0) ≤ 128 ∧
  ∀ c ∈ (s.core core).claims, c.part = part → ∃ g m, tfind s.groups c.group = some g ∧ g.core = core ∧ g.part = part ∧
    g.trav = none ∧ g.restoring = false ∧ g.width ∈ [16, 32, 64] ∧ g.held % 16 = 0 ∧ c.units = m * (g.width / 16)

/-- Registers at and above those a group holds read as zero (R23). -/
def AboveZero (g : Group) : Prop := ∀ r l, l < 64 → g.held ≤ r → g.vr r l = 0

/-! ## System registers (R29, R129, R220-R222, R254, R285, R294, R319, R320, R347-R349, R379, R380, R429, R430) -/

/-- The value of a system register as the issuing set reads it. -/
inductive SysValue (s : State) : Nat → Nat → Prop where
  | cycle : SysValue s 0x000 (s.core s.g.core).cycle.toNat
  | coreid : SysValue s 0x001 s.g.core
  | throt : SysValue s 0x002 ((s.core s.g.core).throt % 8 + 16 * ((s.core s.g.core).throtPrev % 8) +
      256 * (s.core s.g.core).throtCount.toNat)
  | tokstat (x : Nat) (h : x = ((List.range 8).map fun k =>
      ((s.g.token k).state.toNat + 4 * (s.g.token k).cause.toNat) * 256 ^ k).sum) : SysValue s 0x003 x
  | palheld : SysValue s 0x004 (s.g.held / 16 + 16 * (s.lau.lrec.base / 16 % 16) + 256 * (s.lau.lrec.ceil / 16 % 16))
  | palfree : SysValue s 0x005 (s.freeUnits s.g.core s.g.part +
      256 * (((s.core s.g.core).claims.countP fun c => c.part == s.g.part) % 512))
  | mode : SysValue s 0x006 s.mode.toNat
  | prec : SysValue s 0x007 s.prec
  | loop (k : Nat) (h : k < 3) : SysValue s (0x008 + k) (s.lead.loop k).count.toNat
  | link : SysValue s 0x00B (s.lead.lk.toNat % 2 ^ 57)
  | divstat : SysValue s 0x00C (s.lead.stack.length + 256 * s.lead.amask.toNat)
  | live : SysValue s 0x00D s.lead.live.toNat
  | sfufn : SysValue s 0x00E s.g.sfufn.toNat
  | encerr : SysValue s 0x00F (s.core s.g.core).encerr.toNat
  | tcause : SysValue s 0x010 s.lead.tcause.toNat
  | tpc : SysValue s 0x011 (s.lead.tpc.toNat % 2 ^ 57)
  | taddr : SysValue s 0x012 s.lead.taddr.toNat
  | tinfo : SysValue s 0x013 s.lead.tinfo.toNat
  | barstat : SysValue s 0x014 s.lead.barPend.toNat
  | mcdrop : SysValue s 0x015 (s.core s.g.core).mcdrop.toNat
  | l1size : SysValue s 0x016 (s.l1Size s.g.core)
  | tokrow (k : Nat) (h : k < 8) : SysValue s (0x018 + k) (s.g.token k).row.toNat
  | srways : SysValue s 0x020 ((s.stack (s.g.core / 16)).ways % 16 + 256 * (s.stack (s.g.core / 16)).epoch.toNat)
  | govbias : SysValue s 0x021 ((s.stack (s.g.core / 16)).bias % 16).toNat
  | tokaddr (k : Nat) (h : k < 8) : SysValue s (0x028 + k) (s.g.token k).addr.toNat
  | scale (k : Nat) (h : k < 8) : SysValue s (0x030 + k) (s.g.scale k).toNat
  | accstat : SysValue s 0x038 ((s.accOf s.g).2 % 512 + 2 ^ 16 * ((s.accOf s.g).1 % 256))
  | matq : SysValue s 0x039 (s.core s.g.core).mats.length
  | glzstat (z : GlzRank) (h : z = s.g.glz) :
      SysValue s 0x100 ((if z.joined then z.rank + 2 ^ 7 else 0) + (if z.left then 2 ^ 8 else 0) + (if z.cfg ≠ none then 2 ^ 9 else 0) +
        (if z.pend ≠ none then 2 ^ 10 else 0) + (if z.tile.any (!·.closed) then 2 ^ 11 else 0) + (if z.cin ≠ none then 2 ^ 12 else 0) +
        (if z.sent then 2 ^ 13 else 0) + 2 ^ 16 * ((z.tile.elim 0 fun t => t.elems.length) % 2 ^ 16) + 2 ^ 32 * (z.round % 2 ^ 32))
  | glzcfg : SysValue s 0x101 (s.g.glz.cfg.elim 0 fun c =>
      c.code.toNat + (if c.agg then 16 else 0) + (if c.noh then 32 else 0) + (if c.wrap then 64 else 0) + 2 ^ 16 * (c.count.toNat % 2 ^ 16))
  | glzh0 : SysValue s 0x102 (match s.g.glz.cfg with | some c => c.h0.toNat | none => 0)
  | glzcarry : SysValue s 0x103 (match s.g.glz.carry with | some c => c.toNat | none => 0)
  | glzchain : SysValue s 0x104
      (if s.lau.glaze then s.lau.lrec.chainId % 2 ^ 16 + 2 ^ 16 * (s.lau.lrec.chainLen % 256) else 0)
  | pairStat (h : s.tm.pair = true) (h2 : s.g.trav = none) :
      SysValue s 0x110 (1 + (if s.g.core ≠ s.tm.core then 2 else 0) + 4 * (s.tm.core % 4))
  | aloneStat (h : s.tm.pair = false ∨ s.g.trav ≠ none) : SysValue s 0x110 (4 * (s.g.core % 4))
  | slice (k : Nat) (h : k < 16) : SysValue s (0x200 + k)
      ((tget [] (s.stack (s.g.core / 16)).queue k).length % 64 + 256 * (tget 0 (s.stack (s.g.core / 16)).full k).toNat)
  | bypass : SysValue s 0x210 (s.stack (s.g.core / 16)).bypass.toNat
  | pinfail : SysValue s 0x211 (s.stack (s.g.core / 16)).pinfail.toNat
  | pinned : SysValue s 0x212 ((s.stack (s.g.core / 16)).tier.countP fun t => t.2.pin.isSome)
  | srwb : SysValue s 0x213 (s.stack (s.g.core / 16)).srwb.toNat
  | temps : SysValue s 0x218 (((s.stack (s.g.core / 16)).td % 256).toNat + 256 * ((s.stack (s.g.core / 16)).tb % 256).toNat +
      2 ^ 16 * ((s.stack (s.g.core / 16)).bound % 256))
  | periods : SysValue s 0x219 (s.stack (s.g.core / 16)).periods.toNat
  | trvstat (tr : Trav) (h : Holder) (h1 : s.g.trav = some tr) (h2 : (s.core s.g.core).holder = some h) :
      SysValue s 0x300 (tr.id % 2 ^ 32 + 2 ^ 32 * (h.segment % 2 ^ 16) + 2 ^ 48 * (tr.hop % 2 ^ 16))
  | noTrvstat (h : s.g.trav = none ∨ (s.core s.g.core).holder = none) : SysValue s 0x300 0
  | launch : SysValue s 0x301 (s.g.launch % 2 ^ 32 + 2 ^ 32 * (s.lau.lrec.asid % 2 ^ 16) +
      2 ^ 48 * (s.lau.priority % 256))
  | place : SysValue s 0x302 (s.tm.place.home % 16 + 16 * (s.tm.place.stack % 16) +
      (if s.tm.place.stack ≠ s.tm.place.home then 256 else 0) + (if s.tm.place.fall then 512 else 0) +
      2 ^ 16 * (s.tm.place.owned % 2 ^ 16) + 2 ^ 32 * (s.tm.place.saves % 2 ^ 32))
  | trvq (h : Holder) (h1 : s.lau.travel = true) (h2 : (s.core s.g.core).holder = some h) :
      SysValue s 0x303 ((h.arrivals.countP fun e => !e.1) % 2 ^ 7 + 2 ^ 8 * ((s.groups.countP fun e =>
        decide (e.2.core = s.g.core ∧ e.2.trav ≠ none ∧ e.2.live = true)) % 2 ^ 8) + 2 ^ 16 * h.spilled.toNat)
  | trvfwd (h : Holder) (h1 : s.lau.travel = true) (h2 : (s.core s.g.core).holder = some h) : SysValue s 0x304 h.forwarded.toNat
  | noHolder (n : Nat) (h : n = 0x303 ∨ n = 0x304) (h1 : s.lau.travel = false ∨ (s.core s.g.core).holder = none) : SysValue s n 0
  | trvbudg : SysValue s 0x305 (if s.lau.travel then s.lau.lrec.budget % 2 ^ 32 +
      2 ^ 32 * ((s.lau.alive.length + (s.lau.spawns.map (·.packets.length)).sum) % 2 ^ 32) else 0)

/-- The traps of team instructions and system registers (R92, R129, R199-R201, R220, R402). -/
inductive SystemTrap (s : State) : Instr → Trap → Prop where
  | bar n (h : s.lau.travel = true) : SystemTrap s (.bar n) { cause := 0x03 }
  | bara n (h : s.lau.travel = true) : SystemTrap s (.bara n) { cause := 0x03 }
  | barw n (h : s.lau.travel = true) : SystemTrap s (.barw n) { cause := 0x03 }
  | paltake (n : BitVec 8) (h : s.lead.issued = false) (h2 : s.lau.lrec.ceil < s.g.held + 16 * n.toNat) :
      SystemTrap s (.paltake n) { cause := 0x31, detail := 1 }
  | paltry (k : BitVec 3) (n : BitVec 8) (h : s.lau.lrec.ceil < s.g.held + 16 * n.toNat) :
      SystemTrap s (.paltry k n) { cause := 0x31, detail := 1 }
  | palgive (n : BitVec 8) (h : s.g.held < s.lau.lrec.base + 16 * n.toNat) :
      SystemTrap s (.palgive n) { cause := 0x31, detail := 2 }
  | sysrNone (d : Reg) (n : BitVec 16) (h : ∀ x, ¬ SysValue s n.toNat x) : SystemTrap s (.sysr d n) { cause := 0x02 }
  | sysrClass (d : Reg) (n : BitVec 16) (x : Nat) (h : SysValue s n.toNat x)
      (h2 : ∀ k, d = .s k → s.foreignS k.val = true) : SystemTrap s (.sysr d n) { cause := 0x03 }
  | syswNone (d : Reg) (n : BitVec 16) (h : ∀ x, ¬ SysValue s n.toNat x) : SystemTrap s (.sysw d n) { cause := 0x02 }
  | syswClass (d : Reg) (n : BitVec 16) (x : Nat) (h : SysValue s n.toNat x)
      (h2 : ∀ k, d = .s k → s.foreignS k.val = true) : SystemTrap s (.sysw d n) { cause := 0x03 }
  | syswReadOnly (k : Fin 64) (n : BitVec 16) (x : Nat) (h : SysValue s n.toNat x) (h2 : s.foreignS k.val = false)
      (h3 : n.toNat ∉ [0x006, 0x007, 0x008, 0x009, 0x00A, 0x00B, 0x00D, 0x00E, 0x010, 0x011, 0x012, 0x013, 0x021])
      (h4 : n.toNat < 0x030 ∨ 0x037 < n.toNat) : SystemTrap s (.sysw (.s k) n) { cause := 0x11 }
  | syswBias (k : Fin 64) (h : s.foreignS k.val = false) (h2 : s.lau.capable = false) :
      SystemTrap s (.sysw (.s k) 0x021) { cause := 0x11, detail := 6 }
  | syswBiasValue (k : Fin 64) (h : s.foreignS k.val = false) (h2 : s.lau.capable = true)
      (h3 : 4 < (s.g.sr k.val).toNat % 16 ∧ (s.g.sr k.val).toNat % 16 < 12) :
      SystemTrap s (.sysw (.s k) 0x021) { cause := 0x02 }
  | syswMode (k : Fin 64) (h : s.foreignS k.val = false)
      (h2 : 12 ≤ mType ((s.g.sr k.val).setWidth 24) ∨ 6 ≤ mRound ((s.g.sr k.val).setWidth 24) ∨
        5 ≤ mScope ((s.g.sr k.val).setWidth 24) ∨ (s.g.sr k.val).toNat / 2 ^ 20 % 16 ≠ 0) :
      SystemTrap s (.sysw (.s k) 0x006) { cause := 0x02 }
  | syswPrec (k : Fin 64) (h : s.foreignS k.val = false)
      (h2 : (s.g.sr k.val).toNat % 256 < 8 ∨ 237 < (s.g.sr k.val).toNat % 256) : SystemTrap s (.sysw (.s k) 0x007) { cause := 0x06 }
  | syswFunction (k : Fin 64) (h : s.foreignS k.val = false) (h2 : 9 ≤ (s.g.sr k.val).toNat % 16) :
      SystemTrap s (.sysw (.s k) 0x00E) { cause := 0x02 }

/-- A table's keys strictly rise. -/
abbrev Sorted {α : Type} (t : Table α) : Prop := (t.map (·.1)).Pairwise (· < ·)

/-- The barrier instructions that complete at once: the barrier, whether the set's arrivals there are pending afterwards,
and whether the instruction ends with an acquire. -/
inductive BarRule (s : State) : Instr → Nat → Bool → Bool → Prop where
  | bar (n : BitVec 8) (h : n.toNat < 16) (h1 : ReleaseDone s) (h2 : OthersArrived s n.toNat)
      (h3 : ∀ k ∈ s.ks, (s.g.strand k).barMark = none ∧ (s.g.strand k).barPend.getLsbD n.toNat = false) :
      BarRule s (.bar n) n.toNat false true
  | barResumed (n : BitVec 8) (h : n.toNat < 16)
      (h3 : ∀ k ∈ s.ks, (s.g.strand k).barMark ≠ none ∧ (s.g.strand k).barPend.getLsbD n.toNat = false) :
      BarRule s (.bar n) n.toNat false true
  | baraLast (n : BitVec 8) (h : n.toNat < 16) (h1 : ReleaseDone s) (h2 : OthersArrived s n.toNat)
      (h3 : ∀ k ∈ s.ks, (s.g.strand k).barMark = none ∧ (s.g.strand k).barPend.getLsbD n.toNat = false) :
      BarRule s (.bara n) n.toNat false false
  | bara (n : BitVec 8) (h : n.toNat < 16) (h1 : ReleaseDone s) (h2 : ¬ OthersArrived s n.toNat)
      (h3 : ∀ k ∈ s.ks, (s.g.strand k).barMark = none ∧ (s.g.strand k).barPend.getLsbD n.toNat = false) :
      BarRule s (.bara n) n.toNat true false
  | barw (n : BitVec 8) (h : n.toNat < 16) (h3 : ∀ k ∈ s.ks, (s.g.strand k).barPend.getLsbD n.toNat = false) :
      BarRule s (.barw n) n.toNat false s.lead.issued

end Sys2Proof.Safety
end

