-- ==== Sys2Proof/Claims/Memory.lean ====
section
/-!
DEFINITION. The rules of memory instructions, as claims state them: addresses, what a load reads, where a store goes, atomics
in lane order, and what is left alone.
-/
namespace Sys2Proof.Safety
open Sys2Proof.Machine

/-! ## Addresses (R95, R230, R233, R234, R240) -/

/-- The address of a lane's access: s[b] plus the word of v[a], modulo 2^64, or the pair v[a]:v[a + 1]. -/
def vaOf (s : State) (u : Uses) (b : Reg) (l : Nat) : Nat :=
  match b with
  | .s k => ((s.g.sr k.val).toNat + joinWords (src s u 0 l)) % 2 ^ 64
  | _ => joinWords (src s u 0 l)

/-- The operands of a vector access: the address registers, then the data register as a source or as a destination. -/
def loadUses (s : State) (d a b : Reg) (words : Nat) : Uses :=
  { srcs := [memUse a b], dsts := [(d, words)], typeOk := !s.badMem a b }
def storeUses (s : State) (d a b : Reg) (words : Nat) : Uses :=
  { srcs := [memUse a b, (d, words)], typeOk := !s.badMem a b }

/-- An access that is aligned and that the page checks of R234 allow. -/
def Allowed (s : State) (va size : Nat) (acc : Acc) : Prop := va % size = 0 ∧ s.pcheck va acc = none

/-- The trap of an access that is not allowed: alignment first. -/
inductive Denied (s : State) (va size : Nat) (acc : Acc) : Trap → Prop where
  | unaligned (h : va % size ≠ 0) : Denied s va size acc { cause := 0x0A, taddr := BitVec.ofNat 64 va }
  | page (c d : Byte) (h : va % size = 0) (h2 : s.pcheck va acc = some (c, d)) :
      Denied s va size acc { cause := c, taddr := BitVec.ofNat 64 va, detail := d }

/-! ## Lines in good order -/

/-- Writes queued for a line, and the line itself, are held under one key, or under none (R458). -/
def KeyAgrees (s : State) (line : Nat) (key : Option Nat) : Prop :=
  tfind s.sealed line = key ∧ ∀ r ∈ s.queuedAt (line * 128), r.line = line → r.key = key

/-- A line of an access inside the package with one key and no poison anywhere the core would find it (R461). -/
def GoodLine (s : State) (va : Nat) : Prop :=
  let line := s.pa va / 128
  cacheable (s.pa va) = true ∧ KeyAgrees s line (s.vkey va) ∧ s.poisoned line = false ∧
  line ∉ (s.core s.g.core).wcbPoison ∧ line ∉ (s.core s.g.core).l1poison ∧
  (tfind (s.core s.g.core).wcbKey line = s.vkey va ∨ ∀ c ∈ (s.core s.g.core).wcb, c.pa / 128 ≠ line)

/-- No access of the issuing set is under way or answered, none of its core is outstanding, and the next ones are answered at
once. -/
def NoneOutstanding (s : State) : Prop :=
  s.lead.begun = none ∧ (∀ r ∈ s.g.resp, r.jset ≠ s.cur.jset) ∧ (∀ r ∈ s.loads, (s.grp r.group).core ≠ s.g.core) ∧
  (∀ r ∈ s.remotes, r.group = s.gk → r.jset ≠ s.cur.jset) ∧ ∀ x ∈ s.lags.take 2, x = false

/-- The issuing set begins its instruction, and no earlier load of its group is outstanding. -/
def NotBegun (s : State) : Prop := s.lead.begun = none ∧ ∀ r ∈ s.loads, r.group ≠ s.gk

/-- The issuing set's access may be left to be performed later: it acquires nothing, the tape of lags says so, and none of its lanes is
answered or outstanding (R236, log 92). -/
def MayFly (s : State) : Prop :=
  mAcquire s.mode = false ∧ s.lags.headD false = true ∧ s.lead.begun = none ∧ (∀ r ∈ s.g.resp, r.jset ≠ s.cur.jset) ∧
  (∀ r ∈ s.loads, r.group = s.gk → r.jset = s.cur.jset → r.fly ≠ none) ∧ ∀ r ∈ s.remotes, r.group = s.gk → r.jset ≠ s.cur.jset

/-- The access of a lane, with the flight that it becomes. -/
def flightAt (s : State) (lane va size : Nat) (f : Flight) : Load :=
  { group := s.gk, jset := s.cur.jset, lane, pa := s.pa va, size, key := s.vkey va
    fly := some { f with strand := if lane < 64 then lane / 4 else s.leadK, pc := s.pc, va := BitVec.ofNat 64 va } }

/-- The issuing set passes its instruction while its accesses stay outstanding as flights; nothing is performed, and nothing else
changes but the group as given and the translations that its core keeps. -/
def LeftFlying (s t : State) (rs : List Load) (act : Group → Group) : Prop :=
  { t with groups := s.groups, nextKey := s.nextKey, cores := s.cores, loads := s.loads, lags := s.lags } = s ∧
  t.loads = s.loads ++ rs ∧ t.lags = s.lags.tail ∧ (∀ k, k ≠ s.gk → tfind t.groups k = tfind s.groups k) ∧
  (∀ c, c ≠ s.g.core → tfind t.cores c = tfind s.cores c) ∧
  { t.core s.g.core with tlb := (s.core s.g.core).tlb } = s.core s.g.core ∧
  GroupIs s t act ∧ Went s.g t.g s.ks fun _ x => x.pass 1

/-- Words that a value of some bytes gives a register: 8 and 16 bits extended by their sign or by zeros (R239). -/
def loadedWords (signed : Bool) (size x : Nat) : List Word :=
  match size with
  | 1 => [if signed then (BitVec.ofNat 8 x).signExtend 32 else (BitVec.ofNat 8 x).zeroExtend 32]
  | 2 => [if signed then (BitVec.ofNat 16 x).signExtend 32 else (BitVec.ofNat 16 x).zeroExtend 32]
  | 8 => [BitVec.ofNat 32 x, BitVec.ofNat 32 (x / 2 ^ 32)]
  | 16 => [BitVec.ofNat 32 x, BitVec.ofNat 32 (x / 2 ^ 32), BitVec.ofNat 32 (x / 2 ^ 64), BitVec.ofNat 32 (x / 2 ^ 96)]
  | _ => [BitVec.ofNat 32 x]

/-- Values of a flight's lanes are in its registers: an s register, or v registers of each lane, those apart that the group did not hold
when the access issued. -/
def FlightWrote (g h : Group) (size : Nat) (f : Flight) (out : List (Nat × Nat)) : Prop :=
  match f.dst with
  | .s i => h = g.putS i (BitVec.ofNat 64 (out.headD (0, 0)).2)
  | .v i _ held => { h with v := g.v, bad := g.bad } = g ∧ (∀ e ∈ h.bad, e ∈ g.bad) ∧
    ∀ n l, l < 64 → h.vr n l = match out.find? (·.1 == l) with
      | some e => if i ≤ n ∧ n < held then ((loadedWords f.signed size e.2)[n - i]?).getD (g.vr n l) else g.vr n l
      | none => g.vr n l

/-- What an atomic of w bits leaves of an old value: y and z are its operand and, for a compare and exchange, its new value (R242, R244). -/
def atomicValue (op : RemoteOp) (w : Nat) (signed : Bool) (round draw : Nat) (ftz : Bool) (lane : Nat) (pc : DWord) (old y z : Nat) : Nat :=
  let less (a b : Nat) : Prop := wrapInt w signed a < wrapInt w signed b
  match op with
  | .add => (old + y) % 2 ^ w
  | .min => if less y old then y else old
  | .max => if less old y then y else old
  | .and => old &&& y
  | .or => old ||| y
  | .xor => old ^^^ y
  | .xchg => y
  | .cas => if old = y then z else old
  | .fadd => f32.finish round draw ftz lane pc
      (addX round (f32.decode (f32.flush ftz (old % 2 ^ 32))) (f32.decode (f32.flush ftz (y % 2 ^ 32))))
  | _ => old

/-- What the atomic of a flight leaves of an old value. -/
def flightNew (r : Load) (f : Flight) (old : Nat) : Nat :=
  atomicValue f.op (8 * r.size) f.signed f.round f.draw f.ftz r.lane f.pc old f.y.toNat f.z.toNat

/-- Poison that a flight meets stops its launch, with the place of its instruction; no register is written (R235, R243). -/
def FlightStops (s t : State) (g : Group) (f : Flight) : Prop :=
  OffersDropped s t g.launch ∧ (∀ n, n ≠ g.launch → tfind t.launches n = tfind s.launches n) ∧
  ((s.launch g.launch).stop = none → (t.launch g.launch).stop = some
    { kind := 1, cause := 0x3F, launch := g.launch, team := g.team, group := g.index, strand := f.strand, core := g.core
      tpc := f.pc, taddr := f.va, seq := (s.launch g.launch).lrec.seq })

/-- Every slice's queue has room for a request (R325). -/
def QueuesHaveRoom (s : State) : Prop := ∀ n k, (tget [] (s.stack n).queue k).length < 32

/-- No line is held under a key, where it is performed, queued or buffered. -/
def NoKeys (s : State) : Prop :=
  s.sealed = [] ∧ (∀ e ∈ s.cores, e.2.wcbKey = []) ∧
  (∀ e ∈ s.stackTab, ∀ q ∈ e.2.queue, ∀ r ∈ q.2, r.key = none) ∧ ∀ q ∈ s.edge, ∀ r ∈ q.2, r.key = none

/-! ## What an access reads and leaves alone (R235-R239, R382-R384) -/

/-- A byte that a load of a group on a core may read: the last buffered store that the group sees, its own among them, else the
L1's copy or the home's. -/
def MayRead (s : State) (gk core a : Nat) (x : Byte) : Prop :=
  match lastOf a ((s.core core).seenBy gk) with
  | some y => x = y
  | none => x = s.home a ∨ ∃ y, tfind (s.core core).l1 (a / 128) = some y ∧ x = lineByte y (a % 128)

/-- Byte k of a value. -/
def valByte (x k : Nat) : Byte := BitVec.ofNat 8 (x / 256 ^ k)

/-- A core but for its L1, its TLB, what an acquire empties, and which groups see its buffered bytes. -/
def sameButCache (c d : Core) : Prop :=
  { d with l1 := c.l1, l1order := c.l1order, l1poison := c.l1poison, l1key := c.l1key, tlb := c.tlb, psig := c.psig,
           handles := c.handles, wcb := c.wcb } = c ∧ d.cells = c.cells

/-- A core but for those and its write-combining buffer. -/
def sameButBuffer (c d : Core) : Prop :=
  sameButCache c { d with wcb := c.wcb, wcbKey := c.wcbKey, wcbWhole := c.wcbWhole, wcbPoison := c.wcbPoison }

/-- Between two states memory differs only in where its bytes wait: every byte and every line's poison are, where they are
performed, as before, but for the bytes `f` names. Other groups, other cores, and all else are unchanged. -/
def MemoryStep (s t : State) (keep : Core → Core → Prop) (f : Nat → Option Byte) : Prop :=
  { t with groups := s.groups, nextKey := s.nextKey, cores := s.cores, stackTab := s.stackTab, mem := s.mem, edge := s.edge,
           poison := s.poison, lags := s.lags } = s ∧
  (∀ k, k ≠ s.gk → tfind t.groups k = tfind s.groups k) ∧
  (∀ c, c ≠ s.g.core → tfind t.cores c = tfind s.cores c) ∧ keep (s.core s.g.core) (t.core s.g.core) ∧
  (∀ k, { t.stack k with tier := (s.stack k).tier, clock := (s.stack k).clock, bypass := (s.stack k).bypass,
                         queue := (s.stack k).queue, full := (s.stack k).full } = s.stack k) ∧
  (∀ a, t.home a = (f a).getD (s.home a)) ∧ ∀ line, t.poisoned line = s.poisoned line

/-- The issuing set passes its instruction, its group changed as given. -/
def PassesIn (s t : State) (act : Group → Group) : Prop :=
  GroupIs s t act ∧ Went s.g t.g s.ks fun _ x => x.pass 1

/-- Words written from register i up in the active lanes. -/
def LaneWords (s t : State) (i : Nat) (ws : Nat → List Word) : Prop :=
  ∀ r l, l < 64 → t.g.vr r l = if l ∈ s.lanes ∧ i ≤ r then ((ws l)[r - i]?).getD (s.g.vr r l) else s.g.vr r l

/-- The size of a vector load, and the words it makes of a value (R239). -/
inductive LoadForm (s : State) : Instr → Reg → Reg → Reg → Nat → (Nat → List Word) → Prop where
  | ldg8 d a b : LoadForm s (.ldg8 d a b) d a b 1 fun x =>
      [if mType s.mode ∈ [0, 2, 4, 6] then (BitVec.ofNat 8 x).signExtend 32 else (BitVec.ofNat 8 x).zeroExtend 32]
  | ldg16 d a b : LoadForm s (.ldg16 d a b) d a b 2 fun x =>
      [if mType s.mode ∈ [0, 2, 4, 6] then (BitVec.ofNat 16 x).signExtend 32 else (BitVec.ofNat 16 x).zeroExtend 32]
  | ldg32 d a b : LoadForm s (.ldg32 d a b) d a b 4 fun x => [BitVec.ofNat 32 x]
  | ldg64 d a b : LoadForm s (.ldg64 d a b) d a b 8 fun x => [BitVec.ofNat 32 x, BitVec.ofNat 32 (x / 2 ^ 32)]
  | ldg128 d a b : LoadForm s (.ldg128 d a b) d a b 16 fun x =>
      [BitVec.ofNat 32 x, BitVec.ofNat 32 (x / 2 ^ 32), BitVec.ofNat 32 (x / 2 ^ 64), BitVec.ofNat 32 (x / 2 ^ 96)]

/-- The size of a vector store. -/
inductive StoreForm : Instr → Reg → Reg → Reg → Nat → Prop where
  | stg8 d a b : StoreForm (.stg8 d a b) d a b 1
  | stg16 d a b : StoreForm (.stg16 d a b) d a b 2
  | stg32 d a b : StoreForm (.stg32 d a b) d a b 4
  | stg64 d a b : StoreForm (.stg64 d a b) d a b 8
  | stg128 d a b : StoreForm (.stg128 d a b) d a b 16

/-- The byte that stores of values at addresses leave at an address: the last that covers it (R237). -/
def storedAt (sts : List (Nat × Nat)) (size a : Nat) : Option Byte :=
  (sts.reverse.find? fun e => decide (e.1 ≤ a ∧ a < e.1 + size)).map fun e => valByte e.2 (a - e.1)

/-- Stores at physical addresses are in the core's write-combining buffer, in its L1 where it holds the line, and nowhere
else; the group signs their lines. -/
def Stored (s t : State) (sts : List (Nat × Nat)) (size : Nat) (act : Group → Group) : Prop :=
  MemoryStep s t sameButBuffer (fun _ => none) ∧
  PassesIn s t (fun g => act (sts.foldl (fun g e => g.sign (e.1 / 128)) g)) ∧
  (∀ a, lastOf a (t.core s.g.core).cells = (storedAt sts size a).or (lastOf a (s.core s.g.core).cells)) ∧
  (∀ a x, storedAt sts size a = some x → t.loadByte s.gk s.g.core a = x) ∧
  (NoAcquire s → ∀ a, storedAt sts size a = none → t.loadByte s.gk s.g.core a = s.loadByte s.gk s.g.core a)

/-! ## Atomics (R241-R244) -/

/-- The operation of a vector atomic and the types it takes. -/
inductive AtomicForm : Instr → RemoteOp → Reg → Reg → Reg → List Nat → Prop where
  | aadd d a b : AtomicForm (.aadd d a b) .add d a b [0, 1, 6, 7]
  | amin d a b : AtomicForm (.amin d a b) .min d a b [0, 1, 6, 7]
  | amax d a b : AtomicForm (.amax d a b) .max d a b [0, 1, 6, 7]
  | aand d a b : AtomicForm (.aand d a b) .and d a b [0, 1, 6, 7]
  | aor d a b : AtomicForm (.aor d a b) .or d a b [0, 1, 6, 7]
  | axor d a b : AtomicForm (.axor d a b) .xor d a b [0, 1, 6, 7]
  | axchg d a b : AtomicForm (.axchg d a b) .xchg d a b [8, 0, 1, 6, 7]
  | acas d a b : AtomicForm (.acas d a b) .cas d a b [8, 0, 1, 6, 7]
  | afadd d a b : AtomicForm (.afadd d a b) .fadd d a b [8]

/-- The width of an atomic in words under MODE.type. -/
def atomicWords (s : State) : Nat := if mType s.mode = 6 ∨ mType s.mode = 7 then 2 else 1

/-- The data registers of a vector atomic in a lane: the operand, or ACAS's compare value, and its new value. -/
def atomicData (s : State) (d : Reg) (k l : Nat) : Nat :=
  joinWords ((List.range (atomicWords s)).map fun i => s.g.vr (regIdx d + (k * atomicWords s + i)) l)

def atomicUses (s : State) (op : RemoteOp) (d a b : Reg) (types : List Nat) : Uses :=
  { srcs := [memUse a b], dsts := [(d, if op = .cas then 2 * atomicWords s else atomicWords s)], noq := true,
    typeOk := !s.badMem a b && decide (mType s.mode ∈ types) }

/-- The value a vector atomic writes to memory from the old one (R242). -/
def atomicResult (s : State) (op : RemoteOp) (d : Reg) (l old : Nat) : Nat :=
  atomicValue op (32 * atomicWords s) (typeSigned (mType s.mode)) (mRound s.mode) (drawOf s 1 l 0) (mFtz s.mode) l s.pc old
    (atomicData s d 0 l) (atomicData s d 1 l)

/-- Atomics performed one after another on bytes: each finds the value the earlier ones left, which is what its lane
receives, and leaves its own (R243). -/
inductive InOrder (size : Nat) (f : Nat → Nat → Nat) : (Nat → Byte) → List (Nat × Nat) → (Nat → Nat) → (Nat → Byte) → Prop where
  | none (m : Nat → Byte) (old : Nat → Nat) : InOrder size f m [] old m
  | next (m m' : Nat → Byte) (l pa : Nat) (t : List (Nat × Nat)) (old : Nat → Nat) (h : old l = bytesLE m pa size)
      (h2 : InOrder size f (fun a => if pa ≤ a ∧ a < pa + size then valByte (f l (old l)) (a - pa) else m a) t old m') :
      InOrder size f m ((l, pa) :: t) old m'

/-- The bytes that atomics on some lines start from: the issuing core's buffered stores to those lines are performed
first (R237, R241). -/
def drainedView (s : State) (lines : List Nat) (a : Nat) : Byte :=
  if a / 128 ∈ lines then s.fresh s.g.core a else s.home a

/-- A core but for the buffered bytes and L1 copies of some lines, its TLB and what an acquire empties. -/
def sameButLines (lines : List Nat) (c d : Core) : Prop :=
  sameButBuffer c d ∧ d.wcb = c.wcb.filter fun x => decide (x.pa / 128 ∉ lines)

/-! ## Scratchpad (R224-R232) -/

/-- A vector register or an s register, as the address field of LDS and STS takes (R21). -/
def notQueue : Reg → Bool | .q _ => false | _ => true

/-- The operands of LDS and STS. -/
def ldsUses (d a : Reg) (size : Nat) : Uses := { srcs := [(a, 1)], dsts := [(d, size / 4)], typeOk := notQueue a }
def stsUses (d a : Reg) (size : Nat) : Uses := { srcs := [(a, 1), (d, size / 4)], typeOk := notQueue a }

/-- The instructions with per-lane operands, each with its operands; a memory instruction, before it has issued. -/
inductive LaneForm (s : State) : Instr → Uses → Prop where
  | int i u d P (h : IntRule s i u d P) : LaneForm s i u
  | float i u d n P (h : FloatRule s i u d n P) : LaneForm s i u
  | pred i u k ls f (h : PredRule s i u k ls f) : LaneForm s i u
  | cross i u d n ls P (h : CrossRule s i u d n ls P) : LaneForm s i u
  | load i d a b size f (h : LoadForm s i d a b size f) (h2 : s.lead.begun = none) : LaneForm s i (loadUses s d a b (max 1 (size / 4)))
  | store i d a b size (h : StoreForm i d a b size) (h2 : s.lead.begun = none) : LaneForm s i (storeUses s d a b (max 1 (size / 4)))
  | atomic i op d a b ts (h : AtomicForm i op d a b ts) (h2 : s.lead.begun = none) : LaneForm s i (atomicUses s op d a b ts)
  | lds32 d a n (h : s.lead.begun = none) : LaneForm s (.lds32 d a n) (ldsUses d a 4)
  | lds128 d a n (h : s.lead.begun = none) : LaneForm s (.lds128 d a n) (ldsUses d a 16)
  | sts32 d a n (h : s.lead.begun = none) : LaneForm s (.sts32 d a n) (stsUses d a 4)
  | sts128 d a n (h : s.lead.begun = none) : LaneForm s (.sts128 d a n) (stsUses d a 16)

/-- The offset of a lane's scratchpad access, exact. -/
def offsetOf (s : State) (u : Uses) (imm : BitVec 8) (l : Nat) : Nat := joinWords (src s u 0 l) + 4 * imm.toNat

/-- Every active lane's offset is aligned and inside the allocation (R230). -/
def OffsetsOk (s : State) (u : Uses) (imm : BitVec 8) (size : Nat) : Prop :=
  ∀ l ∈ s.lanes, offsetOf s u imm l % size = 0 ∧ offsetOf s u imm l + size ≤ (s.alloc s.g).2.2

/-! ## Poison (R235, R243, R461) -/

/-- The launch has stopped for poison that the access of lane l at an address met; no register and no predicate has changed. -/
def PoisonStops (s t : State) (l : Nat) (va : DWord) : Prop :=
  OffersDropped s t s.g.launch ∧ (∀ n, n ≠ s.g.launch → tfind t.launches n = tfind s.launches n) ∧
  (s.lau.stop = none → t.lau.stop = some (stopRecord s (if l = scalarLane then s.leadK else l / 4) { cause := 0x3F, taddr := va })) ∧
  t.g.v = s.g.v ∧ t.g.s = s.g.s ∧ t.g.p = s.g.p

/-! ## Accesses that leave the package (R442, R450) -/

/-- The request of a lane for an access at an address of the host or of an outbound window; `some` port of the window is up. -/
inductive Leaves (s : State) (id lane : Nat) (op : RemoteOp) (va size : Nat) (data : BitVec 128) : Remote → Prop where
  | host (h : nodeOf (s.pa va) = .host) : Leaves s id lane op va size data
      { id, group := s.gk, jset := s.cur.jset, lane, launch := s.g.launch, asid := s.asidOf s.g, op, pa := s.pa va,
        va := BitVec.ofNat 64 va, size, data, team := s.g.team, index := s.g.index, core := s.g.core
        strand := if lane < 64 then lane / 4 else s.leadK }
  | fabric (w port : Nat) (up : List Nat) (h : nodeOf (s.pa va) = .fabric w)
      (h2 : up = (List.range 64).filter fun p => (s.window w).ports.getLsbD p && s.ctl.portup.getLsbD p)
      (h3 : up[((s.window w).base.toNat + s.pa va % 2 ^ 46) % 2 ^ 52 / 128 % up.length]? = some port) :
      Leaves s id lane op va size data
      { id, group := s.gk, jset := s.cur.jset, lane, launch := s.g.launch, asid := s.asidOf s.g, op, pa := s.pa va,
        va := BitVec.ofNat 64 va, size, data, team := s.g.team, index := s.g.index, core := s.g.core
        strand := if lane < 64 then lane / 4 else s.leadK, window := some w, port, epoch := (s.window w).epoch,
        pkg := (s.window w).cfg.toNat / 2 ^ 8 % 2 ^ 12, target := ((s.window w).base.toNat + s.pa va % 2 ^ 46) % 2 ^ 52 }

/-- The requests of lanes, in their order, numbered from the next key on. -/
inductive AllLeave (s : State) (op : RemoteOp) (size : Nat) : Nat → List (Nat × Nat × BitVec 128) → List Remote → Prop where
  | none (id : Nat) : AllLeave s op size id [] []
  | next (id : Nat) (e : Nat × Nat × BitVec 128) (es : List (Nat × Nat × BitVec 128)) (r : Remote) (rs : List Remote)
      (h : Leaves s id e.1 op e.2.1 size e.2.2 r) (h2 : AllLeave s op size (id + 1) es rs) :
      AllLeave s op size id (e :: es) (r :: rs)

/-- What an access begun earlier captured, each lane's answer being there (R202). -/
def AllAnswered (s : State) (b : Begun) : Prop :=
  s.lead.begun = some b ∧ (b.accs.map (·.lane)).Nodup ∧
  ∀ e ∈ b.accs, e.lane < 64 ∧ ∃ r ∈ s.g.resp, r.jset = s.cur.jset ∧ r.lane = e.lane ∧ r.pa = e.pa

/-- The answer to a lane's access. -/
def answerOf (s : State) (e : Access) : Option Resp := s.g.resp.find? fun r => r.jset == s.cur.jset && r.lane == e.lane && r.pa == e.pa

/-- The trap that a failed answer brings in a lane (R442, R450). -/
def FailsIn (s : State) (c : Begun) (l : Nat) (x : Trap) : Prop :=
  ∃ e ∈ c.accs, ∃ r y, e.lane = l ∧ answerOf s e = some r ∧ r.fail = some y ∧
    x = { cause := y.1, taddr := BitVec.ofNat 64 e.va, detail := y.2 }

/-- The answers of strands of the issuing set have been taken from it, those of its other strands kept. -/
def answersLeft (s : State) (ks : List Nat) : List Resp :=
  s.g.resp.filter fun r => decide (r.jset ≠ s.cur.jset ∨ (ks ≠ s.ks ∧ r.lane / 4 ∉ ks))

/-- The strands whose answers fail as the lowest failing lane's does take that lane's trap together, their answers consumed; nothing
else happens. -/
def TakesAnswers (s t : State) (c : Begun) : Prop :=
  ∃ u x ks, FailTogether s (FailsIn s c) x ks ∧ OnlyIssuer s u ∧ u.nextKey = s.nextKey ∧
    u.g = { s.g with resp := answersLeft s ks } ∧ TakesTrapIn u t ks x

end Sys2Proof.Safety
end

