-- ==== Sys2Proof/Claims/Engines.lean ====
section
/-!
DEFINITION. The rules of the copy engine and of the matrix engine, as claims state them, and those of elastic-float memory
accesses.
-/
namespace Sys2Proof.Safety
open Sys2Proof.Machine

/-! ## Windows in memory (R177-R180) -/

/-- Words that a window in memory may hold as the issuing core's loads read them: a header and the words it counts. -/
def MayReadWindow (s : State) (va : Nat → Nat) (ws : List Word) : Prop :=
  ws.length = (ws.headD 0).toNat / 2 ^ 12 % 8 + 1 ∧
  ∀ i, i < ws.length → ∀ n, n < 4 → MayRead s s.gk s.g.core (s.pa (va i) + n) (valByte (ws.getD i 0).toNat n)

/-! ## One core's share of a step -/

/-- Between two states nothing differs but the issuing group, the counter of new numbers, and the issuing core as given. -/
def CoreStep (s t : State) (keep : Core → Core → Prop) : Prop :=
  { t with groups := s.groups, nextKey := s.nextKey, cores := s.cores } = s ∧
  (∀ k, k ≠ s.gk → tfind t.groups k = tfind s.groups k) ∧
  (∀ c, c ≠ s.g.core → tfind t.cores c = tfind s.cores c) ∧ keep (s.core s.g.core) (t.core s.g.core)

/-- The issuing set passes an instruction of w words, its group changed as given. -/
def PassesBy (s t : State) (w : Nat) (act : Group → Group) : Prop :=
  GroupIs s t act ∧ Went s.g t.g s.ks fun _ x => x.pass w

/-! ## Scratchpad records and descriptors (R227-R229, R247) -/

/-- A record names a target whose allocation holds it, and every span an instruction takes from it, an offset and a length,
lies in its extent (R227-R229). -/
def RecordFits (s : State) (r : Nat) (remote : Bool) (t : Target) (span : Int → Nat → Prop) : Prop :=
  r / 2 ^ 19 % 4 = 0 ∧ (r / 2 ^ 21 % 8 = 0 ∨ remote = true) ∧ s.recTarget r = some t ∧
  recBase r + recExtent r ≤ t.size ∧ ∀ o n, span o n → 0 ≤ o ∧ o + n ≤ recExtent r

/-- A descriptor of 32 bytes at an offset of the issuing team's allocation can be read. -/
def DescriptorOk (s : State) (o : Nat) : Prop :=
  o % 32 = 0 ∧ o + 32 ≤ (s.alloc s.g).2.2 ∧ s.locPoison (s.alloc s.g).1 ((s.alloc s.g).2.1 + o) 32 = false

/-- Bytes of it as a number. -/
def field (s : State) (o n : Nat) : Nat := bytesLE (s.locByte (s.alloc s.g).1) ((s.alloc s.g).2.1 + o) n

/-! ## Traps at issue (R229, R247, R249, R253, R259, R263) -/

/-- The checks of a descriptor of 32 bytes at an offset, in order: alignment, bounds, poison. -/
def descriptorChecks (s : State) (o : Nat) : List (Trap → Prop) :=
  let (core, base, z) := s.alloc s.g
  [Raises (o % 32 ≠ 0) { cause := 0x0A, taddr := BitVec.ofNat 64 o },
   Raises (z < o + 32) { cause := 0x12, taddr := BitVec.ofNat 64 o, detail := 1 },
   Raises (s.locPoison core (base + o) 32 = true) { cause := 0x3F, taddr := BitVec.ofNat 64 o }]

/-- The check of R229 on a record. -/
def recordCheck (s : State) (r : Nat) (remote : Bool) (span : Int → Nat → Prop) : Trap → Prop :=
  Raises (¬ ∃ t, RecordFits s r remote t span) { cause := 0x12, taddr := BitVec.ofNat 64 r, detail := 1 }

/-- The checks of CPY once its token is free, in order (R249). -/
def copyChecks (s : State) (srcs dsts mc : Bool) (o r0 : Nat) : List (Trap → Prop) :=
  let rows := field s (o + 0x14) 4 % 2 ^ 24
  let len := field s (o + 0x10) 4
  let stride (at_ : Nat) : Int := (BitVec.ofNat 32 (field s at_ 4)).toInt
  let span (st : Int) (x : Int) (n : Nat) : Prop := n = len ∧ len ≠ 0 ∧ ∃ i : Nat, r0 ≤ i ∧ i < rows ∧ x = i * st
  let start (isRec : Bool) (x : Nat) : Nat := if isRec then recBase x else x
  let src := field s o 8
  let dst := field s (o + 8) 8
  descriptorChecks s o ++
  [Raises (field s (o + 0x14) 4 / 2 ^ 24 % 16 ≠ 0 ∨ (mc = false ∧ field s (o + 0x14) 4 / 2 ^ 28 ≠ 0) ∨
      (mc = true ∧ (dsts = false ∨ recWhere dst ≠ 0))) { cause := 0x12, taddr := BitVec.ofNat 64 o, detail := 2 },
   Raises (len % 4 ≠ 0 ∨ stride (o + 0x18) % 4 ≠ 0 ∨ stride (o + 0x1C) % 4 ≠ 0 ∨ start srcs src % 4 ≠ 0 ∨ start dsts dst % 4 ≠ 0)
      { cause := 0x0A, taddr := BitVec.ofNat 64 o },
   fun x => srcs = true ∧ recordCheck s src true (span (stride (o + 0x18))) x,
   fun x => dsts = true ∧ recordCheck s dst true (span (stride (o + 0x1C))) x]

/-- The checks of CPYT once its token is free, in order (R253): the descriptor, the alignment of its record, the handle, the box and the
record's span. -/
def tileChecks (s : State) (o hnd : Nat) : List (Trap → Prop) :=
  let e := (s.handleEntry s.g.core (s.asidOf s.g) hnd).1
  let rows := field s (o + 0x14) 4 * field s (o + 0x18) 4 * field s (o + 0x1C) 4
  descriptorChecks s o ++
  [Raises (recBase (field s o 8) % 4 ≠ 0) { cause := 0x0A, taddr := BitVec.ofNat 64 o },
   Raises (4096 ≤ hnd ∨ s.handleValid s.g.core (s.asidOf s.g) e = false) { cause := 0x11, taddr := BitVec.ofNat 64 o, detail := 3 },
   Raises (e.n0 < field s (o + 8) 4 + field s (o + 0x14) 4 ∨ e.n1 < field s (o + 0x0C) 4 + field s (o + 0x18) 4 ∨
      e.n2 < field s (o + 0x10) 4 + field s (o + 0x1C) 4) { cause := 0x11, taddr := BitVec.ofNat 64 o, detail := 4 },
   recordCheck s (field s o 8) false fun x n => rows ≠ 0 ∧ x = 0 ∧ n = rows * e.b]

/-! ## CPY and CPYT (R247-R253) -/

/-- A side of a copy as it stands at issue: a global address, or the place a record names. -/
inductive SideIs (s : State) (isRec : Bool) (x : Nat) : Side → Prop where
  | glob (h : isRec = false) : SideIs s isRec x (.glob x)
  | loc (t : Target) (h : isRec = true) (h2 : s.recTarget x = some t) :
      SideIs s isRec x (.loc t.core t.team t.base t.size (recBase x))

/-- A copy of rows may issue from a descriptor: its reserved bits are 0, its fields multiples of 4, and its records hold rows
r0 to rows - 1 (R249). -/
def CopyOk (s : State) (srcs dsts mc : Bool) (o r0 : Nat) : Prop :=
  let rows := field s (o + 0x14) 4 % 2 ^ 24
  let len := field s (o + 0x10) 4
  let stride (at_ : Nat) : Int := (BitVec.ofNat 32 (field s at_ 4)).toInt
  let span (st : Int) (x : Int) (n : Nat) : Prop := n = len ∧ len ≠ 0 ∧ ∃ i : Nat, r0 ≤ i ∧ i < rows ∧ x = i * st
  let start (isRec : Bool) (x : Nat) : Nat := if isRec then recBase x else x
  DescriptorOk s o ∧ field s (o + 0x14) 4 / 2 ^ 24 % 16 = 0 ∧
  (mc = false → field s (o + 0x14) 4 / 2 ^ 28 = 0) ∧ (mc = true → dsts = true ∧ recWhere (field s (o + 8) 8) = 0) ∧
  len % 4 = 0 ∧ stride (o + 0x18) % 4 = 0 ∧ stride (o + 0x1C) % 4 = 0 ∧
  start srcs (field s o 8) % 4 = 0 ∧ start dsts (field s (o + 8) 8) % 4 = 0 ∧
  (srcs = true → ∃ t, RecordFits s (field s o 8) true t (span (stride (o + 0x18)))) ∧
  (dsts = true → ∃ t, RecordFits s (field s (o + 8) 8) true t (span (stride (o + 0x1C))))

/-- A core but for its write-combining buffer, what the L1 lines its bytes lie in hold, its copies, and the handle entries it
holds. -/
def sameButCopies (c d : Core) : Prop :=
  { d with wcb := c.wcb, wcbPoison := c.wcbPoison, wcbWhole := c.wcbWhole, l1 := c.l1, l1poison := c.l1poison,
           copies := c.copies, handles := c.handles } = c

/-- The queues of the slices have room for every line that the issuing core has buffered (R325). -/
def BufferFits (s : State) : Prop :=
  ∀ n k, (tget [] (s.stack n).queue k).length + (linesOf (s.core s.g.core).cells).length ≤ 32

/-- A copy has issued on token k: the core's buffered stores are on their way, and the token holds r0 in progress with the copy in
the engine, or is done at once. Where the queues have room for the stores, nothing is performed yet, and every byte reads as the
issuing core's stores left it (R249, R251). -/
def CopyIssued (s t : State) (k r0 rows : Nat) (empty : Bool) (c : Copy → Prop) : Prop :=
  { t with groups := s.groups, nextKey := s.nextKey, cores := s.cores, stackTab := s.stackTab, edge := s.edge, mem := s.mem,
           poison := s.poison, sealed := s.sealed } = s ∧
  (∀ g, g ≠ s.gk → tfind t.groups g = tfind s.groups g) ∧ (∀ n, n ≠ s.g.core → tfind t.cores n = tfind s.cores n) ∧
  (∀ n, { t.stack n with queue := (s.stack n).queue, full := (s.stack n).full, tier := (s.stack n).tier,
                         clock := (s.stack n).clock, bypass := (s.stack n).bypass } = s.stack n) ∧
  sameButCopies (s.core s.g.core) (t.core s.g.core) ∧ (t.core s.g.core).wcb = [] ∧
  (BufferFits s → t.mem = s.mem ∧ t.poison = s.poison ∧ t.sealed = s.sealed ∧
    (∀ n, { t.stack n with queue := (s.stack n).queue } = s.stack n) ∧
    ∀ a, t.home a = if cacheable a then s.fresh s.g.core a else s.home a) ∧
  if empty ∨ rows ≤ r0 then
    PassesIn s t (fun g => g.setToken k { state := 0, row := BitVec.ofNat 24 (max r0 rows) }) ∧
    (t.core s.g.core).copies = (s.core s.g.core).copies
  else
    PassesIn s t (fun g => g.setToken k { state := 1, row := BitVec.ofNat 24 r0 }) ∧
    ∃ x, (t.core s.g.core).copies = (s.core s.g.core).copies ++ [x] ∧ c x ∧ x.group = s.gk ∧ x.tok = k ∧
      x.launch = s.g.launch ∧ x.team = s.g.team ∧ x.row = r0 ∧ x.rows = rows ∧ x.lost = 0 ∧ x.wrote = []

/-- The byte i of a row's source. -/
def sourceByte (s : State) (core asid : Nat) (x : Side) (i : Nat) : Byte :=
  match x with
  | .glob va => s.home (s.paOf core asid (va.toNat + i))
  | .loc c _ base _ off => s.locByte c (base + off.toNat + i)

/-- A side of a row lies in the package, each of its bytes once and at its page's offset in its line, under one key a line. -/
def SideGood (s : State) (core asid : Nat) (x : Side) (n : Nat) : Prop :=
  match x with
  | .glob va => 0 ≤ va ∧ va.toNat + n ≤ 2 ^ 57 ∧ ∀ i, i < n → let a := s.paOf core asid (va.toNat + i)
      cacheable a = true ∧ a % 128 = (va.toNat + i) % 128 ∧ KeyAgrees s (a / 128) (s.keyOf core asid (va.toNat + i)) ∧
      ∀ j, j < n → ((va.toNat + i) / 128 = (va.toNat + j) / 128 → s.paOf core asid (va.toNat + j) / 128 = a / 128 ∧
          s.keyOf core asid (va.toNat + j) = s.keyOf core asid (va.toNat + i)) ∧
        (s.paOf core asid (va.toNat + j) = a → j = i)
  | .loc _ _ _ _ _ => True

/-- A destination takes byte x as its byte i. -/
def Lands (s t : State) (core asid : Nat) (d : Side) (i : Nat) (x : Byte) : Prop :=
  match d with
  | .glob va => t.home (s.paOf core asid (va.toNat + i)) = x
  | .loc c _ base _ off => t.locByte c (base + off.toNat + i) = x

/-- A destination covers a global byte, or a byte of a core's local memory. -/
def coversGlobal (s : State) (core asid : Nat) (d : Side) (n a : Nat) : Prop :=
  ∃ va : Int, d = .glob va ∧ ∃ i, i < n ∧ a = s.paOf core asid (va.toNat + i)
def coversLocal (d : Side) (n c a : Nat) : Prop :=
  ∃ team base size off, d = .loc c team base size off ∧ base + off.toNat ≤ a ∧ a < base + off.toNat + n

/-- The token of a row's copy is `token`, its group's answers for the row are gone, and but for that and its write signatures, for
what lies in memory, for the issuing core's copies, count of lost writes, L1 and TLB, and for local memories, nothing differs. -/
def RowFrame (s t : State) (core : Nat) (c : Copy) (token : Token) : Prop :=
  { t with groups := s.groups, cores := s.cores, stackTab := s.stackTab, mem := s.mem, edge := s.edge, poison := s.poison } = s ∧
  (∀ k, k ≠ c.group → tfind t.groups k = tfind s.groups k) ∧
  (∀ k, (t.grp c.group).token k = if k = c.tok then token else (s.grp c.group).token k) ∧
  (t.grp c.group).resp = (s.grp c.group).resp.filter (fun r => r.jset != copySet c.tok) ∧
  { t.grp c.group with tokens := (s.grp c.group).tokens, wsig1 := (s.grp c.group).wsig1, wsig2 := (s.grp c.group).wsig2,
                       wsig3 := (s.grp c.group).wsig3, resp := (s.grp c.group).resp } = s.grp c.group ∧
  { t.core core with
    mem := (s.core core).mem, memPoison := (s.core core).memPoison, memKey := (s.core core).memKey, copies := (s.core core).copies
    mcdrop := (s.core core).mcdrop, l1 := (s.core core).l1, l1order := (s.core core).l1order
    l1poison := (s.core core).l1poison, l1key := (s.core core).l1key, tlb := (s.core core).tlb } = s.core core ∧
  ∀ k, k ≠ core → { t.core k with mem := (s.core k).mem, memPoison := (s.core k).memPoison, memKey := (s.core k).memKey } = s.core k

/-- A row's write to a destination is lost: it is a multicast or remote target that has ended, changed or cannot hold the
row (R250, R290). -/
def Lost (s : State) (c : Copy) (d : Side) : Prop := c.lossy = true ∧ s.sideStands c.launch d c.rowbytes = false

/-! ## Matrix instructions at issue (R255-R284) -/

/-- The strands that perform an operation each, or one operation for the set (R260). -/
def opStrands (s : State) (r : Nat) : List Nat := if r / 2 ^ 16 % 2 = 1 then s.ks else [0]

/-- The first absolute row of the issuing group's accumulator rows, and their number (R255, R256). -/
abbrev accFirst (s : State) : Nat := (s.accOf s.g).1

/-- An accumulator record may be used (R258, R259). -/
def RegionOk (s : State) (r : Nat) (single noPs : Bool) : Prop :=
  let row := r % 256
  let col := r / 256 % 256
  let hs := r / 2 ^ 24 % 16
  let ws := r / 2 ^ 28 % 16
  r < 2 ^ 32 ∧ r / 2 ^ 17 % 128 = 0 ∧ row % 16 = 0 ∧ col % 16 = 0 ∧ (single = true → hs = 0 ∧ ws = 0) ∧
  (r / 2 ^ 16 % 2 = 1 → hs = 0 ∧ noPs = false) ∧
  (∀ k ∈ opStrands s r, row + 16 * k + 16 * (hs + 1) ≤ (s.accOf s.g).2) ∧ col + 16 * (ws + 1) ≤ 256

/-- The operation that strand k performs on a record's region. -/
def regionOp (s : State) (kind : MatKind) (r k : Nat) : MatOp :=
  { kind, group := s.gk, strands := if r / 2 ^ 16 % 2 = 1 then [k] else s.ks, launch := s.g.launch, team := s.g.team
    pc := s.pc, arrived := (s.core s.g.core).cycle.toNat, row := accFirst s + r % 256 + 16 * k, col := r / 256 % 256
    rows := 16 * (r / 2 ^ 24 % 16 + 1), cols := 16 * (r / 2 ^ 28 % 16 + 1) }

/-- Rows of a record that operations of strands ks take, n rows of len bytes each, 16 k further for strand k. -/
def rowsOf (r : Nat) (ks : List Nat) (n len : Nat) (o : Int) (m : Nat) : Prop :=
  m = len ∧ ∃ k ∈ ks, ∃ i, i < n ∧ o = (16 * k + i) * recStride r

/-- A record's base and stride are multiples of 4 (R263). -/
def recordAligned (r : Nat) : Prop := recBase r % 4 = 0 ∧ recStride r % 4 = 0

/-- The scale a slot captures at issue (R284). -/
def capturedScale (s : State) (k : Nat) : Word := if slotScale (s.slotWord k) = 2 then s.g.scale k else 0x3F800000

/-- The engine has room for the operations (R270). -/
def Room (s : State) (r : Nat) : Prop := (s.core s.g.core).mats.length + (opStrands s r).length ≤ 64

/-- The merge word of a drain: none, or the place of an address an atomic may access (R280, R281). -/
inductive MergeWord (s : State) : Nat → Option Nat → Prop where
  | none : MergeWord s 0 .none
  | word (va : Nat) (h : va ≠ 0) (h2 : Allowed s va 4 (.atomic false)) : MergeWord s va (some (s.pa va))

/-- The place of an operation's rows in the issuing team's scratchpad. -/
def placed (s : State) (r k : Nat) (m : MatOp) : MatOp :=
  let t := s.ownTarget
  { m with aCore := t.core, aOff := t.base + recBase r + 16 * k * recStride r, aStride := recStride r, aBase := t.base }

/-- The scratchpad record of ACCLD, ACCST and ACCDR holds its rows. -/
def RowsFit (s : State) (r racc len : Nat) : Prop :=
  recordAligned r ∧ RecordFits s r false s.ownTarget (rowsOf r (opStrands s racc) (16 * (racc / 2 ^ 24 % 16 + 1)) len)

/-- The matrix instructions that queue operations: their s registers, their length, and the operations, whose numbers are
left out. -/
inductive MatRule (s : State) : Instr → List Nat → Nat → List MatOp → Prop where
  | mma (remote : Bool) (sa sb sc : BitVec 6) (fa fb : BitVec 3) (ra rb rc n : Nat) (ta tb : Target)
      (ha : ra = (s.g.sr sa.toNat).toNat) (hb : rb = (s.g.sr sb.toNat).toNat) (hc : rc = (s.g.sr sc.toNat).toNat)
      (hn : n = min (slotK (s.slotWord fa.toNat)) (slotK (s.slotWord fb.toNat)))
      (hw : wideKind (s.slotWord fa.toNat) = wideKind (s.slotWord fb.toNat))
      (h1 : recordAligned ra) (h2 : recordAligned rb)
      (h3 : RecordFits s ra remote ta (rowsOf ra (opStrands s rc) 16 (rowBytes (s.slotWord fa.toNat) n)))
      (h4 : RecordFits s rb remote tb (rowsOf rb [0] 16 (rowBytes (s.slotWord fb.toNat) n)))
      (h5 : RegionOk s rc true false) (h6 : Room s rc) :
      MatRule s (if remote then .mmar sa sb fa fb sc else .mma sa sb fa fb sc) [sa.toNat, sb.toNat, sc.toNat] 1
        ((opStrands s rc).map fun k => { regionOp s .mma rc k with
          fa := s.slotWord fa.toNat, fb := s.slotWord fb.toNat, fbSlot := fb.toNat, ta := capturedScale s fa.toNat, tb := capturedScale s fb.toNat
          aCore := ta.core, aOff := ta.base + recBase ra + 16 * k * recStride ra, aStride := recStride ra, aBase := ta.base
          bCore := tb.core, bOff := tb.base + recBase rb, bStride := recStride rb, bBase := tb.base })
  | accz (a : Fin 64) (h : RegionOk s (s.g.sr a.val).toNat false false) (h2 : Room s (s.g.sr a.val).toNat) :
      MatRule s (.accz (.s a)) [a.val] 1
        ((opStrands s (s.g.sr a.val).toNat).map (regionOp s .zero (s.g.sr a.val).toNat))
  | accld (a b : Fin 64) (r racc : Nat) (ha : racc = (s.g.sr a.val).toNat) (hb : r = (s.g.sr b.val).toNat)
      (h : RegionOk s racc false false) (h2 : Room s racc) (h3 : RowsFit s r racc (64 * (racc / 2 ^ 28 % 16 + 1))) :
      MatRule s (.accld (.s a) (.s b)) [a.val, b.val] 1
        ((opStrands s racc).map fun k => placed s r k (regionOp s .load racc k))
  | accst (d a : Fin 64) (slot : BitVec 3) (r racc : Nat) (hd : r = (s.g.sr d.val).toNat) (ha : racc = (s.g.sr a.val).toNat)
      (h : RegionOk s racc false false) (h2 : Room s racc) (hk : storeKind (s.slotWord slot.toNat) = true)
      (h3 : RowsFit s r racc (rowBytes (s.slotWord slot.toNat) (16 * (racc / 2 ^ 28 % 16 + 1)))) :
      MatRule s (.accst (.s d) (.s a) slot) [d.val, a.val] 1
        ((opStrands s racc).map fun k => { placed s r k (regionOp s .store racc k) with
          fa := s.slotWord slot.toNat, ta := capturedScale s slot.toNat })
  | accdrPad (d a b : Fin 64) (slot : BitVec 3) (o r racc va : Nat) (merge : Option Nat) (hd : o = (s.g.sr d.val).toNat)
      (ha : racc = (s.g.sr a.val).toNat) (hb : va = (s.g.sr b.val).toNat)
      (h : RegionOk s racc false false) (h2 : Room s racc) (hk : storeKind (s.slotWord slot.toNat) = true)
      (h4 : DescriptorOk s o) (hr : r = field s o 8) (h5 : ∀ i, 8 ≤ i → i < 32 → field s (o + i) 1 = 0)
      (h3 : RowsFit s r racc (rowBytes (s.slotWord slot.toNat) (16 * (racc / 2 ^ 28 % 16 + 1))))
      (h6 : MergeWord s va merge) :
      MatRule s (.accdr (.s d) (.s a) (.s b) slot) [d.val, a.val, b.val] 2
        ((opStrands s racc).map fun k => { placed s r k (regionOp s .drain racc k) with
          fa := s.slotWord slot.toNat, ta := capturedScale s slot.toNat, merge, mergeKey := s.vkey va
          mergeVa := BitVec.ofNat 64 va, mode := s.mode })
  | accdrTile (d a b : Fin 64) (slot : BitVec 3) (o racc va hnd tva : Nat) (e : Handle) (merge : Option Nat)
      (hd : o = (s.g.sr d.val).toNat) (ha : racc = (s.g.sr a.val).toNat) (hb : va = (s.g.sr b.val).toNat)
      (h : RegionOk s racc false true) (h2 : Room s racc) (hk : storeKind (s.slotWord slot.toNat) = true)
      (h4 : DescriptorOk s o) (hr : hnd = field s o 8) (h5 : field s (o + 8) 4 = 1) (h6 : field s (o + 0x18) 8 = 0)
      (h7 : hnd < 4096) (h8 : e = (s.handleEntry s.g.core (s.asidOf s.g) hnd).1)
      (h9 : s.handleValid s.g.core (s.asidOf s.g) e = true)
      (h10 : field s (o + 0x0C) 4 < e.n0 ∧ field s (o + 0x10) 4 < e.n1 ∧ field s (o + 0x14) 4 < e.n2)
      (h11 : 16 * (racc / 2 ^ 24 % 16 + 1) * rowBytes (s.slotWord slot.toNat) (16 * (racc / 2 ^ 28 % 16 + 1)) = e.b)
      (h12 : tva = (if e.flags / 2 % 2 = 1 then e.under else e.front) +
        (field s (o + 0x0C) 4 + e.n0 * field s (o + 0x10) 4 + e.n0 * e.n1 * field s (o + 0x14) 4) * e.d)
      (h13 : s.rangeTrap s.g.core (s.asidOf s.g) tva e.b .write true = none) (h14 : MergeWord s va merge) :
      MatRule s (.accdr (.s d) (.s a) (.s b) slot) [d.val, a.val, b.val] 2
        ((opStrands s racc).map fun k => { regionOp s .drain racc k with
          fa := s.slotWord slot.toNat, ta := capturedScale s slot.toNat, merge, mergeKey := s.vkey va
          mergeVa := BitVec.ofNat 64 va, mode := s.mode, tilePa := some (s.paOf s.g.core (s.asidOf s.g) tva)
          tileSlice := (e.slice0 +
            (field s (o + 0x0C) 4 + e.n0 * field s (o + 0x10) 4 + e.n0 * e.n1 * field s (o + 0x14) 4)) % 16
          tileKey := s.keyOf s.g.core (s.asidOf s.g) tva })

/-- The alignment of a record's base and stride (R263), and the check of R259 on an accumulator record. -/
def alignCheck (r : Nat) : Trap → Prop := Raises (¬ recordAligned r) { cause := 0x0A, taddr := BitVec.ofNat 64 r }
def regionCheck (s : State) (r : Nat) (single noPs : Bool) : Trap → Prop :=
  Raises (¬ RegionOk s r single noPs) { cause := 0x12, taddr := BitVec.ofNat 64 r, detail := 4 }

/-- The checks of the scratchpad record of ACCLD, ACCST and ACCDR. -/
def rowsChecks (s : State) (r racc len : Nat) : List (Trap → Prop) :=
  [alignCheck r, recordCheck s r false (rowsOf r (opStrands s racc) (16 * (racc / 2 ^ 24 % 16 + 1)) len)]

/-- The check of the tile registers of ACCRD and ACCWR (R282). -/
def tileRegChecks (s : State) (r : Reg) : List (Trap → Prop) :=
  [Raises (∀ k : Fin 176, r = .v k → 176 < k.val + 256 / s.g.width) { cause := 0x03 },
   Raises (∀ k : Fin 176, r = .v k → s.g.held < k.val + 256 / s.g.width) { cause := 0x04 }]

/-- The check of a drain's merge word (R280). -/
def mergeCheck (s : State) (va : Nat) (x : Trap) : Prop := va ≠ 0 ∧ Denied s va 4 (.atomic false) x

/-- The checks of ACCDR in order (R277, R279, R280, log 89). -/
def drainChecks (s : State) (slot : BitVec 3) (o racc va : Nat) : List (Trap → Prop) :=
  let target := field s o 8
  let mode := field s (o + 8) 4
  let t (i : Nat) : Nat := field s (o + 0x0C + 4 * i) 4
  let len := rowBytes (s.slotWord slot.toNat) (16 * (racc / 2 ^ 28 % 16 + 1))
  let e := (s.handleEntry s.g.core (s.asidOf s.g) target).1
  let tva := (if e.flags / 2 % 2 = 1 then e.under else e.front) + (t 0 + e.n0 * t 1 + e.n0 * e.n1 * t 2) * e.d
  Raises (storeKind (s.slotWord slot.toNat) = false) { cause := 0x03 } :: descriptorChecks s o ++
  [Raises (2 ≤ mode ∨ field s (o + 0x18) 8 ≠ 0 ∨ (mode = 0 ∧ (t 0 ≠ 0 ∨ t 1 ≠ 0 ∨ t 2 ≠ 0)) ∨ (mode = 1 ∧ 4096 ≤ target))
      { cause := 0x12, taddr := BitVec.ofNat 64 o, detail := 2 }] ++
  (if mode = 0 then rowsChecks s target racc len ++ [regionCheck s racc false false]
   else
    [regionCheck s racc false true,
     Raises (s.handleValid s.g.core (s.asidOf s.g) e = false) { cause := 0x11, taddr := BitVec.ofNat 64 o, detail := 3 },
     Raises (e.n0 ≤ t 0 ∨ e.n1 ≤ t 1 ∨ e.n2 ≤ t 2) { cause := 0x11, taddr := BitVec.ofNat 64 o, detail := 4 },
     Raises (16 * (racc / 2 ^ 24 % 16 + 1) * len ≠ e.b) { cause := 0x11, taddr := BitVec.ofNat 64 o, detail := 5 },
     fun x => ∃ c d a, s.rangeTrap s.g.core (s.asidOf s.g) tva e.b .write true = some (c, d, a) ∧
       x = { cause := c, taddr := BitVec.ofNat 64 a, detail := d }]) ++
  [mergeCheck s va]

/-- The matrix instructions with checks at issue: their s operands, the operations they bring, which the engine must have room for, and
their checks in order (R259, R265, R275-R277, R279, R280, R282). -/
inductive MatChecks (s : State) : Instr → List Reg → Nat → List (Trap → Prop) → Prop where
  | mma (remote : Bool) (sa sb sc : BitVec 6) (fa fb : BitVec 3) (ra rb rc n : Nat)
      (ha : ra = (s.g.sr sa.toNat).toNat) (hb : rb = (s.g.sr sb.toNat).toNat) (hc : rc = (s.g.sr sc.toNat).toNat)
      (hn : n = min (slotK (s.slotWord fa.toNat)) (slotK (s.slotWord fb.toNat))) :
      MatChecks s (if remote then .mmar sa sb fa fb sc else .mma sa sb fa fb sc)
        [.s sa.toFin, .s sb.toFin, .s sc.toFin] (opStrands s rc).length
        [Raises (wideKind (s.slotWord fa.toNat) ≠ wideKind (s.slotWord fb.toNat)) { cause := 0x03 }, alignCheck ra, alignCheck rb,
         recordCheck s ra remote (rowsOf ra (opStrands s rc) 16 (rowBytes (s.slotWord fa.toNat) n)),
         recordCheck s rb remote (rowsOf rb [0] 16 (rowBytes (s.slotWord fb.toNat) n)), regionCheck s rc true false]
  | accz (a : Reg) (r : Nat) (h : r = (s.g.sr (regIdx a)).toNat) :
      MatChecks s (.accz a) [a] (opStrands s r).length [regionCheck s r false false]
  | accld (a b : Reg) (r racc : Nat) (ha : racc = (s.g.sr (regIdx a)).toNat) (hb : r = (s.g.sr (regIdx b)).toNat) :
      MatChecks s (.accld a b) [a, b] (opStrands s racc).length
        (rowsChecks s r racc (64 * (racc / 2 ^ 28 % 16 + 1)) ++ [regionCheck s racc false false])
  | accst (d a : Reg) (slot : BitVec 3) (r racc : Nat) (hd : r = (s.g.sr (regIdx d)).toNat) (ha : racc = (s.g.sr (regIdx a)).toNat) :
      MatChecks s (.accst d a slot) [d, a] (opStrands s racc).length
        (Raises (storeKind (s.slotWord slot.toNat) = false) { cause := 0x03 } ::
          rowsChecks s r racc (rowBytes (s.slotWord slot.toNat) (16 * (racc / 2 ^ 28 % 16 + 1))) ++ [regionCheck s racc false false])
  | accdr (d a b : Reg) (slot : BitVec 3) (o racc va : Nat) (hd : o = (s.g.sr (regIdx d)).toNat)
      (ha : racc = (s.g.sr (regIdx a)).toNat) (hb : va = (s.g.sr (regIdx b)).toNat) :
      MatChecks s (.accdr d a b slot) [d, a, b] (opStrands s racc).length (drainChecks s slot o racc va)
  | accrd (d a : Reg) (r : Nat) (h : r = (s.g.sr (regIdx a)).toNat) :
      MatChecks s (.accrd d a) [a] 0 (tileRegChecks s d ++ [regionCheck s r true true])
  | accwr (d b : Reg) (r : Nat) (h : r = (s.g.sr (regIdx d)).toNat) :
      MatChecks s (.accwr d b) [d] 1 (tileRegChecks s b ++ [regionCheck s r true true])

/-- A core but for its matrix operations, its TLB and the handle entries it holds. -/
def sameButMats (c d : Core) : Prop := { d with mats := c.mats, tlb := c.tlb, handles := c.handles } = c

/-- The issuing core's engine has the operations at its end, under numbers of their own. -/
def Queued (s t : State) (ops : List MatOp) : Prop :=
  ∃ new, (t.core s.g.core).mats = (s.core s.g.core).mats ++ new ∧ new.map (fun m => { m with id := 0 }) = ops ∧
    (new.map (·.id)).Pairwise (· < ·) ∧ ∀ m ∈ new, s.nextKey ≤ m.id ∧ m.id < t.nextKey

/-- The tile registers of ACCRD and ACCWR: 256 / W held v registers from one up, in a group of a legal width (R282). -/
def TileRegs (s : State) (k : Nat) : Prop :=
  s.g.width ∈ [4, 16, 32, 64] ∧ k + 256 / s.g.width ≤ 176 ∧ k + 256 / s.g.width ≤ s.g.held

/-- Every matrix operation of the issuing set's strands has completed (R274). -/
def NoMatrixWork (s : State) : Prop :=
  ∀ m ∈ (s.core s.g.core).mats, m.group = s.gk → ∀ k ∈ s.ks, k ∉ m.strands

/-! ## Matrix operations in the engine (R64, R264, R266, R269, R271, R275-R281) -/

/-- An operation that may complete: it stands in the engine at a place, no earlier one of its strands before it; a multiply belongs
to a pass that has started, which has read its sixteen rows of B. -/
def Completes (s : State) (core idx : Nat) (m : MatOp) : Prop :=
  (s.core core).mats[idx]? = some m ∧ (∀ x ∈ (s.core core).mats.take idx, x.group = m.group → ∀ k ∈ x.strands, k ∉ m.strands) ∧
  (m.kind = .mma → ∃ rows, m.bRows = some rows ∧ rows.length = 16) ∧ m.drained = false

/-- A place of an operation's region. -/
def inRegion (m : MatOp) (row col : Nat) : Prop := m.row ≤ row ∧ row < m.row + m.rows ∧ m.col ≤ col ∧ col < m.col + m.cols

/-- A multiply whose pass has not started, and that nothing before it in the engine keeps from being read for: no earlier operation of
its strands that writes scratchpad (R269, R271). -/
def CanStart (before : List MatOp) (m : MatOp) : Prop :=
  m.kind = .mma ∧ m.bRows = none ∧
  ∀ x ∈ before, (x.kind = .store ∨ x.kind = .drain) → x.group = m.group → ∀ k ∈ x.strands, k ∉ m.strands

/-- K of a multiply (R261, R266). -/
def kOf (m : MatOp) : Nat := min (slotK m.fa) (slotK m.fb)

/-- Byte x of row i of A as a multiply reads it when it completes, and of row j of B as its pass read it. -/
def aByte (s : State) (m : MatOp) (i x : Nat) : Byte :=
  if x < rowBytes m.fa (kOf m) then s.engByte m.aCore (m.aOff + i * m.aStride + x) else 0
def bByte (m : MatOp) (j x : Nat) : Byte := ((m.bRows.getD []).getD j []).getD x 0

/-- The reserved ternary bytes that a multiply reads, as places of local memory (R264). -/
def ReservedAt (s : State) (m : MatOp) (c o : Nat) : Prop :=
  (slotKind m.fa = 6 ∧ ∃ i x, i < 16 ∧ x < (kOf m + 4) / 5 ∧ 243 ≤ (aByte s m i x).toNat ∧ c = m.aCore ∧ o = m.aOff + i * m.aStride + x) ∨
  (slotKind m.fb = 6 ∧ ∃ j x, j < 16 ∧ x < (kOf m + 4) / 5 ∧ 243 ≤ (bByte m j x).toNat ∧ c = m.bCore ∧ o = m.bOff + j * m.bStride + x)

/-- The block sums that element (i, j) of a multiply takes, in increasing K (R64). -/
def blockSums (s : State) (m : MatOp) (i j : Nat) : List Nat :=
  let n := kOf m
  let a := aByte s m i
  let b := bByte m j
  (List.range (n / 16)).map fun k =>
    blockSum m.pc ((List.range 16).map fun e => (rowElem m.fa a (16 * k + e), rowElem m.fb b (16 * k + e)))
      [rowScale m.fa n a k, rowScale m.fb n b k, f32.decode m.ta.toNat, f32.decode m.tb.toNat]

/-- The bytes a store or a drain makes of row r of its region (R278). -/
def convertedRow (s : State) (core : Nat) (m : MatOp) (r : Nat) : List Byte :=
  convRow m.fa m.ta m.pc ((List.range m.cols).map fun c => s.accWord core (m.row + r) (m.col + c))

/-- The byte that the rows of a store leave at an offset: the last that covers it. -/
def rowByteAt (s : State) (core : Nat) (m : MatOp) (a : Nat) : Option Byte :=
  ((List.range m.rows).reverse.find? fun r => decide (m.aOff + r * m.aStride ≤ a ∧
    a < m.aOff + r * m.aStride + (convertedRow s core m r).length)).bind
    fun r => (convertedRow s core m r)[a - (m.aOff + r * m.aStride)]?

/-- What an operation leaves of the accumulator store of its core, and of local memory. -/
inductive MatEffect (s t : State) (core : Nat) (m : MatOp) : Prop where
  | mma (h : m.kind = .mma) (bad : List (Nat × Nat)) (hn : bad.Nodup) (hb : ∀ c o, (c, o) ∈ bad ↔ ReservedAt s m c o)
      (he : (t.core core).encerr = BitVec.ofNat 32 (min ((s.core core).encerr.toNat + bad.length) (2 ^ 32 - 1))) (ha : ∀ i j, i < 16 → j < 16 → t.accWord core (m.row + i) (m.col + j) =
        (blockSums s m i j).foldl (accAdd m.pc) (s.accWord core (m.row + i) (m.col + j)))
      (hl : ∀ c a, t.locByte c a = s.locByte c a)
  | zero (h : m.kind = .zero) (ha : ∀ r c, c < 256 → inRegion m r c → t.accWord core r c = 0)
      (hl : ∀ c a, t.locByte c a = s.locByte c a)
  | load (h : m.kind = .load) (ha : ∀ i j, i < m.rows → j < m.cols → t.accWord core (m.row + i) (m.col + j) =
        BitVec.ofNat 32 (bytesLE (s.engByte m.aCore) (m.aOff + i * m.aStride + 4 * j) 4))
      (hl : ∀ c a, t.locByte c a = s.locByte c a)
  | write (h : m.kind = .write) (ha : ∀ e, e < 256 → t.accWord core (m.row + e / 16) (m.col + e % 16) =
        (tfind m.words e).getD (s.accWord core (m.row + e / 16) (m.col + e % 16)))
      (hl : ∀ c a, t.locByte c a = s.locByte c a)
  | store (h : m.kind = .store ∨ (m.kind = .drain ∧ m.tilePa = none)) (ha : ∀ r c, t.accWord core r c = s.accWord core r c)
      (hl : ∀ c a, t.locByte c a = (if c = m.aCore then rowByteAt s core m a else none).getD (s.locByte c a))
  | tile (h : m.kind = .drain) (pa : Nat) (h2 : m.tilePa = some pa) (ha : ∀ r c, t.accWord core r c = s.accWord core r c)
      (hl : ∀ c a, t.locByte c a = s.locByte c a)

/-- The release that a merge makes first has nothing left to do: its order asks for none; or it is at group scope, where every
earlier access of its strands is performed; or it has been made, and every core has acknowledged it and, at system scope, the
host and other packages the group's writes before it (R281, R387). -/
def MergeMay (s : State) (m : MatOp) : Prop :=
  mRelease m.mode = false ∨
  (mScope m.mode = 0 ∧ (m.released = true ∨ NoFlights s m.group m.strands ∧
    ∀ r ∈ s.remotes, r.group = m.group → r.op = .store → r.jset < copySets → r.lane / 4 ∉ m.strands ∧ r.lane ≠ 64)) ∨
  (m.released = true ∧ (∀ p ∈ s.msgs, p.group = m.group → p.jset ≠ mergeSet m) ∧
    (mScope m.mode = 4 → ∀ r ∈ s.remotes, r.group = m.group → r.op = .store → r.jset < copySets → m.snap ≤ r.id))

/-- The bytes of memory an operation writes: those of a drained tile. -/
def tileByteAt (s : State) (core : Nat) (m : MatOp) (a : Nat) : Option Byte :=
  match m.kind, m.tilePa with
  | .drain, some pa => if pa ≤ a then ((List.range m.rows).flatMap (convertedRow s core m))[a - pa]? else none
  | _, _ => none

/-- A core but for its accumulator store, local memory, matrix operations and count of encoding errors. -/
def sameButEngine (c d : Core) : Prop :=
  { d with acc := c.acc, mem := c.mem, memPoison := c.memPoison, mats := c.mats, encerr := c.encerr } = c

end Sys2Proof.Safety
end

