-- ==== Sys2Proof/Claims/Cluster.lean ====
section
/-!
DEFINITION. The rules of the glaze and of the tier instructions, as claims state them.
-/
namespace Sys2Proof.Safety
open Sys2Proof.Machine

/-! ## The glaze (R297-R313) -/

/-- What a lane is still to pop from q2 or q3: what is in the queue, then what the unit's store keeps for it (R303, R304). -/
def owed (g : Group) (agg : Bool) (l : Nat) : List Word :=
  g.queued (if agg then 3 else 2) l ++ (g.glz.store.filter fun e => e.1 == agg && e.2.1 == l).map (·.2.2)

/-- The configuration that a word and an initial value give (R300). -/
def glazeConfig (s : State) (w h : DWord) : GlzCfg :=
  { code := w.setWidth 3, agg := w.getLsbD 4, noh := w.getLsbD 5, wrap := w.getLsbD 6
    count := BitVec.ofNat 16 (w.toNat / 2 ^ 16), h0 := h.setWidth 32, pc := s.pc }

/-- Rank 0's carry-in under a configuration: its initial value, or with wrap after round 0 the last final carry (R308). -/
def firstCarry (s : State) (c : GlzCfg) : Word :=
  if c.wrap = true ∧ s.g.glz.round ≠ 0 then s.lau.chain.final.getD 0 else c.h0

/-- The groups, launches and cores apart, nothing differs; and of the issuing core only its glaze binding. -/
def GlazeStep (s t : State) : Prop :=
  { t with groups := s.groups, nextKey := s.nextKey, launches := s.launches, cores := s.cores } = s ∧
  (∀ k, k ≠ s.gk → tfind t.groups k = tfind s.groups k) ∧
  (∀ k, k ≠ s.g.launch → tfind t.launches k = tfind s.launches k) ∧ { t.lau with chain := s.lau.chain } = s.lau ∧
  ∀ c, { t.core c with glz := (s.core c).glz } = s.core c

/-- Only the unit of the issuing group, and what its lanes may pop, changed. -/
def UnitStep (s t : State) : Prop :=
  GlazeStep s t ∧ t.cores = s.cores ∧ PassesIn s t (fun g => { g with glz := t.g.glz, fifo := t.g.fifo }) ∧
  (∀ q l, l < 64 → q ≠ 2 → q ≠ 3 → t.g.queued q l = s.g.queued q l)

/-- The results that a carry-in gives the elements of a lane whose results are not produced yet, in order (R303, R307). -/
def resultsOf (x : GlzTile) (c : Word) (l : Nat) : List Word :=
  if x.cfg.noh then []
  else (((x.elems.zip x.prefixes).drop x.moved).filter fun e => e.1.lane == l).map fun e => x.applyAt e.2 c

/-- The aggregate that closing an open tile of at least one element delivers to a lane (R303). -/
def aggregateOf (x : GlzTile) (l : Nat) : List Word :=
  match x.prefixes.getLast?, x.elems.getLast? with
  | some p, some e => if x.cfg.agg = true ∧ x.closed = false ∧ e.lane = l then [p.1, p.2] else []
  | _, _ => []

/-- A rank whose tile is closed with its carry-in there has sent its carry-out, once (R309). -/
def SentOnce (s t : State) (gk : Nat) (x : GlzTile) (cin : Option Word) : Prop :=
  let z := (s.grp gk).glz
  (t.grp gk).glz.sent = (z.sent || cin.isSome) ∧
  t.launches = (match cin, z.sent with
    | some c, false => (s.glzSend (s.grp gk).launch z.rank (x.carryOut c)).launches
    | _, _ => s.launches)

/-- A group but for its glaze unit and what its lanes may pop from q2 and q3. -/
def UnitOnly (s t : State) (gk : Nat) : Prop :=
  { t with groups := s.groups, launches := s.launches } = s ∧ (∀ k, k ≠ gk → tfind t.groups k = tfind s.groups k) ∧
  { t.grp gk with glz := (s.grp gk).glz, fifo := (s.grp gk).fifo, q0 := (s.grp gk).q0, q1 := (s.grp gk).q1 } = s.grp gk ∧
  ∀ q l, l < 64 → q ≠ 2 → q ≠ 3 → (t.grp gk).queued q l = (s.grp gk).queued q l

/-- The traps of the glaze instructions (R297, R299, R300, R311). -/
inductive GlazeTrap (s : State) : Instr → Trap → Prop where
  | noGlaze (i : Instr) (a b : Fin 64) (h : i ∈ [.glzcfg (.s a) (.s b), .glzjoin (.s a), .glzend, .glzcin (.v 0)])
      (h2 : s.lau.glaze = false) (h3 : s.foreignS a.val = false) (h4 : s.foreignS b.val = false) (h5 : 1 ≤ s.g.held) :
      GlazeTrap s i { cause := 0x30, detail := 1 }
  | noRank (i : Instr) (a b : Fin 64) (h : i ∈ [.glzcfg (.s a) (.s b), .glzend, .glzcin (.v 0)])
      (h2 : s.lau.glaze = true) (h3 : s.foreignS a.val = false) (h4 : s.foreignS b.val = false) (h5 : 1 ≤ s.g.held)
      (h6 : s.g.glz.joined = false) : GlazeTrap s i { cause := 0x30, detail := 3 }
  | noGlazeWait (i : Instr) (h : i ∈ [.glzbar, .glzleave]) (h2 : s.lau.glaze = false) (h3 : s.lead.issued = false) :
      GlazeTrap s i { cause := 0x30, detail := 1 }
  | noRankWait (i : Instr) (h : i ∈ [.glzbar, .glzleave]) (h2 : s.lau.glaze = true) (h3 : s.lead.issued = false)
      (h4 : s.g.glz.joined = false) : GlazeTrap s i { cause := 0x30, detail := 3 }
  | reserved (a b : Fin 64) (h2 : s.lau.glaze = true) (h3 : s.g.glz.joined = true) (h4 : s.foreignS a.val = false)
      (h5 : s.foreignS b.val = false)
      (h6 : let w := (s.g.sr a.val).toNat
            6 ≤ w % 8 ∨ w / 8 % 2 = 1 ∨ w / 2 ^ 7 % 2 ^ 9 ≠ 0 ∨ 2 ^ 32 ≤ w) :
      GlazeTrap s (.glzcfg (.s a) (.s b)) { cause := 0x30, detail := 2 }
  | rank (a : Fin 64) (h2 : s.lau.glaze = true) (h3 : s.foreignS a.val = false)
      (h4 : s.lau.lrec.chainLen ≤ (s.g.sr a.val).toNat ∨ s.lau.chain.at_ (s.g.sr a.val).toNat ≠ .never ∨
        s.g.glz.joined = true) : GlazeTrap s (.glzjoin (.s a)) { cause := 0x30, detail := 4 }

/-! ## The tier (R324-R341) -/

/-- The lines of stack DRAM that a range of n bytes touches, with their stack (R332). -/
def TierLineOf (s : State) (va n k line : Nat) : Prop :=
  ∃ p ∈ pieces va n 128, s.pa p.1 / 128 = line ∧ nodeOf (s.pa p.1) = .stack k ∧ wayBlock (s.pa p.1) = none

/-- A range may be pinned: at most 2^24 bytes, each page translated and allowed but for tensor pages and ways given up
(R334). -/
def PinOk (s : State) (va n : Nat) : Prop :=
  n ≤ 2 ^ 24 ∧ ∀ x ∈ pageStarts va n, ∀ e, s.pageCheck s.g.core (s.asidOf s.g) (x % 2 ^ 64) .read true = some e → e.1 = 0x14

/-- A valid handle of the launch's ASID has a backing at `base` with a tile that holds an address. -/
def InTile (s : State) (va i base : Nat) : Prop :=
  let h := s.readHandle (s.asidOf s.g) i
  s.handleValid s.g.core (s.asidOf s.g) h = true ∧ (base = h.front ∨ (base = h.under ∧ base ≠ 0)) ∧ base ≤ va ∧
  va < base + h.n0 * h.n1 * h.n2 * h.d ∧ (va - base) % h.d < h.shape0 * h.shape1 * h.ebytes

/-- The home slice of the line of a translated address in stack DRAM: that of its tile, where it lies on a tensor page and the lowest
valid handle that reaches it puts it in one, else the line's own (R323, R338). -/
inductive LineSlice (s : State) (va : Nat) : Nat → Prop where
  | own (h : ∀ leaf, s.xlate s.g.core (s.asidOf s.g) va = .ok leaf → leaf.tensor = false) : LineSlice s va (sliceOf (s.pa va))
  | noTile (h : ∀ i, i < 4096 → ∀ base, ¬ InTile s va i base) : LineSlice s va (sliceOf (s.pa va))
  | tile (leaf : Leaf) (h : s.xlate s.g.core (s.asidOf s.g) va = .ok leaf) (h1 : leaf.tensor = true) (i base : Nat) (h2 : i < 4096)
      (h3 : InTile s va i base) (h4 : ∀ j, j < i → ∀ b, ¬ InTile s va j b)
      (h5 : base = (s.readHandle (s.asidOf s.g) i).front ∨ ¬ InTile s va i (s.readHandle (s.asidOf s.g) i).front) :
      LineSlice s va (((s.readHandle (s.asidOf s.g) i).slice0 + (va - base) / (s.readHandle (s.asidOf s.g) i).d) % 16)

/-- A way of a slice that serves as cache: no scratchpad, none that a shrink under way has still to discard, not retired (R326, R329,
R464). -/
def CacheWay (k : Stack) (slice way : Nat) : Prop :=
  way < 16 - k.ways ∧ (∀ r, k.repart = some r → way < 16 - r.hi) ∧ (slice, way) ∉ k.waysOut

/-- The line of a way of the set that a line maps to. -/
def inWay (k : Stack) (line slice way : Nat) : Option TierLine := tfind k.tier (tierKey slice (setOf (line * 128)) way)

/-- A way that an absent line is brought to: the lowest empty cache way of its set, or else the one that holds the unpinned line used
longest ago (R324). -/
def BroughtTo (k : Stack) (line slice way : Nat) : Prop :=
  CacheWay k slice way ∧
  ((inWay k line slice way = none ∧ ∀ w, w < way → CacheWay k slice w → inWay k line slice w ≠ none) ∨
   (∀ w, CacheWay k slice w → inWay k line slice w ≠ none) ∧ ∃ x, inWay k line slice way = some x ∧ x.pin = none ∧
     ∀ w y, CacheWay k slice w → inWay k line slice w = some y → y.pin = none → x.used < y.used ∨ (x.used = y.used ∧ way ≤ w))

/-- What PIN does to a stack for one line: a cached line is pinned unless it is already; an absent one is brought to a cache way of
its set and pinned there; and PINFAIL counts it where every cache way of the set is pinned (R334). -/
inductive PinStep (launch line slice : Nat) (key : Option Nat) (k : Stack) : Stack → Prop where
  | pinned (sl w : Nat) (x : TierLine) (h : sl < 16) (h1 : CacheWay k sl w) (h2 : inWay k line sl w = some x) (h3 : x.line = line)
      (h4 : x.pin ≠ none) : PinStep launch line slice key k k
  | cached (sl w : Nat) (x : TierLine) (h : sl < 16) (h1 : CacheWay k sl w) (h2 : inWay k line sl w = some x) (h3 : x.line = line)
      (h4 : x.pin = none) : PinStep launch line slice key k
        { k with tier := tset k.tier (tierKey sl (setOf (line * 128)) w) { x with pin := some launch } }
  | brought (w : Nat) (h : ∀ sl w x, sl < 16 → CacheWay k sl w → inWay k line sl w = some x → x.line ≠ line)
      (h1 : BroughtTo k line slice w) : PinStep launch line slice key k { k with
        clock := k.clock + 1
        tier := tset k.tier (tierKey slice (setOf (line * 128)) w) (TierLine.mk line false (k.clock + 1) (some launch) key) }
  | fails (h : ∀ sl w x, sl < 16 → CacheWay k sl w → inWay k line sl w = some x → x.line ≠ line)
      (h1 : ∀ w, CacheWay k slice w → ∃ x, inWay k line slice w = some x ∧ x.pin ≠ none) :
      PinStep launch line slice key k { k with pinfail := k.pinfail + 1 }

/-- What PIN does to the stacks for the lines of pieces of a range, one after another: lines outside stack DRAM are skipped. -/
inductive PinsLines (s : State) : (Nat → Stack) → List (Nat × Nat × Nat) → (Nat → Stack) → Prop where
  | none (f : Nat → Stack) : PinsLines s f [] f
  | skip (f g : Nat → Stack) (p : Nat × Nat × Nat) (ps : List (Nat × Nat × Nat))
      (h : ∀ k, nodeOf (s.pa p.1) = .stack k → wayBlock (s.pa p.1) ≠ .none) (h1 : PinsLines s f ps g) : PinsLines s f (p :: ps) g
  | line (f f' g : Nat → Stack) (p : Nat × Nat × Nat) (ps : List (Nat × Nat × Nat)) (k slice : Nat)
      (h : nodeOf (s.pa p.1) = .stack k) (h1 : wayBlock (s.pa p.1) = .none) (h2 : LineSlice s p.1 slice)
      (h3 : PinStep s.g.launch (s.pa p.1 / 128) slice (s.vkey p.1) (f k) (f' k)) (h4 : ∀ j, j ≠ k → f' j = f j)
      (h5 : PinsLines s f' ps g) : PinsLines s f (p :: ps) g

/-- The traps of the tier instructions (R329, R334, R340). -/
inductive TierTrap (s : State) : Instr → Trap → Prop where
  | notCapable (i : Instr) (a b : Fin 64) (h : i ∈ [.pin (.s a) (.s b), .unpin (.s a) (.s b)]) (h1 : s.foreignS a.val = false)
      (h2 : s.foreignS b.val = false) (h3 : s.lau.capable = false) : TierTrap s i { cause := 0x11, detail := 6 }
  | tooLong (i : Instr) (a b : Fin 64) (h : i ∈ [.pin (.s a) (.s b), .unpin (.s a) (.s b)]) (h1 : s.foreignS a.val = false)
      (h2 : s.foreignS b.val = false) (h3 : s.lau.capable = true) (h4 : 2 ^ 24 < (s.g.sr b.val).toNat) :
      TierTrap s i { cause := 0x11, detail := 7 }
  | page (i : Instr) (a b : Fin 64) (before after : List Nat) (x : Nat) (e : Byte × Byte)
      (h : i ∈ [.pin (.s a) (.s b), .unpin (.s a) (.s b)]) (h1 : s.foreignS a.val = false)
      (h2 : s.foreignS b.val = false) (h3 : s.lau.capable = true) (h4 : (s.g.sr b.val).toNat ≤ 2 ^ 24)
      (h5 : pageStarts (s.g.sr a.val).toNat (s.g.sr b.val).toNat = before ++ x :: after)
      (h6 : ∀ y ∈ before, ∀ c, s.pageCheck s.g.core (s.asidOf s.g) (y % 2 ^ 64) .read true = some c → c.1 = 0x14)
      (h7 : s.pageCheck s.g.core (s.asidOf s.g) (x % 2 ^ 64) .read true = some e) (h8 : e.1 ≠ 0x14) :
      TierTrap s i { cause := e.1, taddr := BitVec.ofNat 64 (x % 2 ^ 64), detail := e.2 }
  | srcfgNotCapable (d : Fin 64) (n : BitVec 8) (h : s.foreignS d.val = false) (h1 : s.lead.issued = false)
      (h2 : s.lau.capable = false) : TierTrap s (.srcfg (.s d) n) { cause := 0x11, detail := 6 }
  | noHandle (a : Fin 64) (h : s.foreignS a.val = false) (h1 : s.lead.issued = false)
      (h2 : 4096 ≤ (s.g.sr a.val).toNat ∨
        s.handleValid s.g.core (s.asidOf s.g) (s.handleEntry s.g.core (s.asidOf s.g) (s.g.sr a.val).toNat).1 = false) :
      TierTrap s (.hswap (.s a)) { cause := 0x11, detail := 3 }
  | noShadow (a : Fin 64) (e : Handle) (h : s.foreignS a.val = false) (h1 : s.lead.issued = false) (h2 : (s.g.sr a.val).toNat < 4096)
      (h3 : e = (s.handleEntry s.g.core (s.asidOf s.g) (s.g.sr a.val).toNat).1)
      (h4 : s.handleValid s.g.core (s.asidOf s.g) e = true) (h5 : e.flags / 2 % 2 = 0 ∨ e.under = 0) :
      TierTrap s (.hswap (.s a)) { cause := 0x11, detail := 8 }

/-- What a change of a stack's ways waits for is over: every core holds the new number, and no access to the way-blocks lo to hi - 1
that passed its check is outstanding, a drain's merge among them (R280, R329). -/
def RepartOver (s : State) (stack lo hi : Nat) : Prop :=
  (∀ p ∈ s.msgs, ∀ c w, p.msg ≠ .ways c stack w) ∧ (∀ r ∈ s.loads, inBlocks stack lo hi r.pa = false) ∧
  (∀ e ∈ s.groups, ∀ x ∈ e.2.strands, ∀ b, x.begun = some b → ∀ a ∈ b.accs, inBlocks stack lo hi a.pa = false) ∧
  ∀ c ∈ s.cores, ∀ m ∈ c.2.mats, ∀ pa, m.merge = some pa ∨ m.tilePa = some pa → inBlocks stack lo hi pa = false

/-- It is the turn of the issuing set's SRCFG: no change of the stack is under way and none that issued earlier waits. -/
def RepartTurn (s : State) (stack : Nat) : Prop :=
  (s.stack stack).repart = none ∧ ∀ e, (s.stack stack).repartQueue.head? = some e → e = (s.gk, s.cur.jset)

/-- The state in which an SRCFG has given up its place among those that wait, or has taken one. -/
def onTurn (s : State) (stack : Nat) : State := s.leaveRepartQueue stack
def queued (s : State) (stack : Nat) : State := s.onStack stack fun k => k.queueRepart s.gk s.cur.jset

/-- PSIG of every core names the lines of discarded way-blocks that its L1 holds: its next acquire drops them (R351, R388). -/
def DiscardSigned (s t : State) (stack lo hi : Nat) : Prop :=
  ∀ c, ∀ e ∈ (s.core c).l1, inBlocks stack lo hi (e.1 * 128) = true → sigMatch (t.core c).psig e.1 = true

/-- No store to the way-blocks lo to hi - 1 of a stack waits in a core's buffer. -/
def NoneBuffered (s : State) (stack lo hi : Nat) : Prop :=
  ∀ c ∈ s.cores, ∀ b ∈ c.2.wcb, inBlocks stack lo hi b.pa = false

/-- A core but for its TLB. -/
def sameButTlb (c d : Core) : Prop := { d with tlb := c.tlb } = c

/-- Nothing is queued for a way-block of a stack from lo to hi - 1 under a key, and its lines are under none. -/
def BlocksPlain (s : State) (stack lo hi : Nat) : Prop :=
  (∀ line, inBlocks stack lo hi (line * 128) = true → tfind s.sealed line = none) ∧
  ∀ q ∈ (s.stack stack).queue, ∀ r ∈ q.2, inBlocks stack lo hi (r.line * 128) = true → r.key = none

end Sys2Proof.Safety
end

