-- ==== Sys2Proof/Claims/Rounding.lean ====
section
/-!
DEFINITION. Numbers as the spec speaks of them: the real that an exact value stands for, the neighbours between which it is rounded, the
encodings of results, the procedures of the special functions, and the arithmetic of the matrix engine and the glaze.
-/
namespace Sys2Proof.Safety
open Sys2Proof.Machine

/-! ## Exact values (R46, R47, R54) -/

/-- The magnitude x stands for the real r: m 2^e, or, where sticky, some number strictly between that and (m + 1) 2^e. -/
def Stands (x : Mag) (r : ℝ) : Prop :=
  (r ≠ 0 → (r < 0 ↔ x.neg = true)) ∧
  (x.sticky = false → |r| = x.m * 2 ^ x.e) ∧ (x.sticky = true → x.m * 2 ^ x.e < |r| ∧ |r| < (x.m + 1) * (2 : ℝ) ^ x.e)

/-- A sticky magnitude has bits enough below every place it is rounded at. -/
def Fine (x : Mag) : Prop := x.sticky = true → 290 ≤ bits x.m

/-- The real a finite value is. -/
noncomputable def realOf : FVal → ℝ
  | .num s m e => (if s then -1 else 1) * m * 2 ^ e
  | _ => 0

/-- An exact result is the first NaN of a list of operands (R54). -/
def NanFirst (xs : List FVal) (r : Exact) : Prop :=
  ∃ before s p w after, xs = before ++ .nan s p w :: after ∧ (∀ v ∈ before, v.isNan = false) ∧ r = .nan s p w

/-- An exact result is a finite real, with the sign of a zero as given. -/
def FiniteIs (r : Exact) (x : ℝ) (negZero : Prop) : Prop :=
  ∃ m, r = .fin m ∧ Stands m x ∧ Fine m ∧ (x = 0 → m.m = 0 ∧ m.sticky = false ∧ (m.neg = true ↔ negZero))

/-- The sum of values none of which is a NaN: invalid where infinities of both signs meet, an infinity where there is one, else the exact
sum; an exact zero is -0 where every addend is -0, or where the mode is down and the addends have opposite signs (R46, R47). -/
def SumIs (mode : Nat) (xs : List FVal) (r : Exact) : Prop :=
  (FVal.inf true ∈ xs ∧ FVal.inf false ∈ xs → r = .invalid) ∧
  (∀ s, FVal.inf s ∈ xs → FVal.inf (!s) ∉ xs → r = .inf s) ∧
  ((∀ s, FVal.inf s ∉ xs) → FiniteIs r (xs.map realOf).sum
    ((∀ v ∈ xs, v.neg? = true ∧ v.isZero = true) ∨ (mode = 2 ∧ (∃ v ∈ xs, v.neg? = true) ∧ ∃ v ∈ xs, v.neg? = false)))

/-- The product of values neither of which is a NaN: invalid for a zero and an infinity, else an infinity or the exact product, of the
sign that the two signs give (R46). -/
def ProductIs (x y : FVal) (r : Exact) : Prop :=
  (x.isInf = true ∧ y.isZero = true ∨ x.isZero = true ∧ y.isInf = true → r = .invalid) ∧
  (x.isInf = true ∧ y.isZero = false ∨ y.isInf = true ∧ x.isZero = false → r = .inf (xor x.neg? y.neg?)) ∧
  (x.isInf = false → y.isInf = false → FiniteIs r (realOf x * realOf y) (xor x.neg? y.neg? = true))

/-- The quotient of values neither of which is a NaN (R46, R146). -/
def QuotientIs (x y : FVal) (r : Exact) : Prop :=
  (x.isInf = true ∧ y.isInf = true ∨ x.isZero = true ∧ y.isZero = true → r = .invalid) ∧
  (x.isInf = true ∧ y.isInf = false ∨ y.isZero = true ∧ x.isZero = false ∧ x.isInf = false → r = .inf (xor x.neg? y.neg?)) ∧
  (x.isInf = false ∧ y.isInf = true → FiniteIs r 0 (xor x.neg? y.neg? = true)) ∧
  (x.isInf = false → y.isInf = false → y.isZero = false → FiniteIs r (realOf x / realOf y) (xor x.neg? y.neg? = true))

/-! ## Neighbours and modes (R49, R51) -/

/-- Whether the mode takes the neighbour hi away from zero for a magnitude r between lo and hi that is neither, `odd` telling whether the
last significand bit of lo is 1, and `draw` the value drawn (R49, R51). -/
noncomputable def GoesUp (mode draw : Nat) (neg odd : Bool) (lo hi r : ℝ) : Prop :=
  match mode with
  | 0 => hi - r < r - lo ∨ (hi - r = r - lo ∧ odd = true)
  | 1 => False
  | 2 => neg = true
  | 3 => neg = false
  | 4 => hi - r ≤ r - lo
  | _ => (2 : ℤ) ^ 32 ≤ ⌊2 ^ 32 * ((r - lo) / (hi - lo))⌋ + draw

/-- The magnitude of the code c of a format, and, one past the largest finite code, the step X beyond it (R45, R49, R56). -/
noncomputable def gridVal (f : Fmt) (c : Nat) : ℝ :=
  if c / 2 ^ f.fb = 0 then (c % 2 ^ f.fb : Nat) * (2 : ℝ) ^ (1 - f.bias - f.fb)
  else (2 ^ f.fb + c % 2 ^ f.fb : Nat) * (2 : ℝ) ^ (((c / 2 ^ f.fb : Nat) : ℤ) - f.bias - f.fb)

/-- The code that the magnitude r is rounded to, one past the largest finite code meaning X (R49). -/
def RoundsTo (f : Fmt) (mode draw : Nat) (neg : Bool) (r : ℝ) (c : Nat) : Prop :=
  ∃ lo, lo ≤ f.maxCode ∧ gridVal f lo ≤ r ∧ (r < gridVal f (lo + 1) ∨ lo = f.maxCode) ∧
    let up := GoesUp mode draw neg (decide (lo % 2 = 1)) (gridVal f lo) (gridVal f (lo + 1)) (min r (gridVal f (lo + 1)))
    (r = gridVal f lo → c = lo) ∧ (r ≠ gridVal f lo → up → c = lo + 1) ∧ (r ≠ gridVal f lo → ¬ up → c = lo)

/-- The formats of R45 and R56. -/
def formats : List Fmt := [f32, f16, bf16, e4m3, e5m2, e3m2, e2m3, e2m1]

/-- A code with a sign. -/
def withSign (f : Fmt) (neg : Bool) (c : Nat) : Nat := (if neg then 2 ^ (f.eb + f.fb) else 0) + c

/-- The code of an infinity, or in a format without them that of the largest finite value (R57). -/
def infCode (f : Fmt) : Nat := if f.hasInf then (2 ^ f.eb - 1) * 2 ^ f.fb else f.maxCode

/-- The fold of the PC in the payload of an invalid result (R53). -/
def pcFold (pc : DWord) : Nat := (pc.toNat / 2 ^ 2 % 2 ^ 16) ^^^ (pc.toNat / 2 ^ 18 % 2 ^ 16)

/-- The NaN that an invalid operation produces in a lane (R53). -/
def invalidCode (f : Fmt) (lane : Nat) (pc : DWord) : Nat :=
  if f = f32 then 0x7FC00000 + lane * 2 ^ 16 + pcFold pc
  else if f = f16 then 0x7E00 + lane * 2 ^ 3 + pcFold pc % 8
  else if f = bf16 then 0x7FC0 + lane
  else if f = e4m3 then 0x7F
  else 0x7E

/-- The fraction that a NaN with fraction p of width w has in a width w': its most significant bits, the quiet bit set (R54). -/
def quieted (p w w' : Nat) : Nat := (if w ≤ w' then p * 2 ^ (w' - w) else p / 2 ^ (w - w')) ||| 2 ^ (w' - 1)

/-- A window of elastic float at precision p (R35, R65, R67): a header whose field n is the number of extension words, and a value. -/
def WindowIs (p : Nat) (ws : List Word) (v : FVal) : Prop :=
  ws.length = 1 + nP p ∧ (ws.headD 0).toNat / 2 ^ 12 % 8 = nP p ∧ efDecode (ws.headD 0) ws.tail = v

/-- Rounding of a magnitude r, not 0, to p significand bits, the exponent unbounded (R67). -/
def RoundsToBits (p mode draw : Nat) (neg : Bool) (r v : ℝ) : Prop :=
  ∃ (k : ℤ) (t u : Nat), (2 : ℝ) ^ k ≤ r ∧ r < 2 ^ (k + 1) ∧ v = u * 2 ^ (k - (p - 1)) ∧
    t * (2 : ℝ) ^ (k - (p - 1)) ≤ r ∧ r < (t + 1) * (2 : ℝ) ^ (k - (p - 1)) ∧
    let up := GoesUp mode draw neg (decide (t % 2 = 1)) (t * 2 ^ (k - (p - 1))) ((t + 1) * 2 ^ (k - (p - 1))) r
    (r = t * (2 : ℝ) ^ (k - (p - 1)) → u = t) ∧ (r ≠ t * (2 : ℝ) ^ (k - (p - 1)) → up → u = t + 1) ∧
    (r ≠ t * (2 : ℝ) ^ (k - (p - 1)) → ¬ up → u = t)

/-! ## Special functions (R72-R78) -/

/-- The nearest integer, ties to even. -/
def Nearest (r : ℝ) (n : ℤ) : Prop := |r - n| ≤ 1 / 2 ∧ (|r - n| = 1 / 2 → n % 2 = 0)

/-- The product of R71, floor(a b / 2^62). -/
def timesQ (a b : ℤ) : ℤ := a * b / 2 ^ 62

/-- The exponential core of R73: m and i for X. -/
def expSteps (x : ℤ) : ℤ × ℤ :=
  let c (k : Nat) : ℤ := coefC.getD (k - 1) 0
  let t := tabT.getD (x / 2 ^ 34 % 64).toNat 0
  let tq := x % 2 ^ 34 * 2 ^ 22
  let q := timesQ (c 1 + timesQ (c 2 + timesQ (c 3 + timesQ (c 4) tq) tq) tq) tq
  (t + timesQ t q, x / 2 ^ 40)

/-- The total of R75 for x = M 2^(e - 23). -/
def logSteps (M e : ℤ) : ℤ :=
  let j := (M / 2 ^ 17 % 64).toNat
  let d (k : Nat) : ℤ := coefD.getD (k - 1) 0
  let z := M * tabRC.getD j 0 / 2 ^ 23 - 2 ^ 62
  let q := timesQ (d 1 + timesQ (d 2 + timesQ (d 3 + timesQ (d 4 + timesQ (d 5 + timesQ (d 6 + timesQ (d 7) z) z) z) z) z) z) z
  e * 2 ^ 62 + tabL.getD j 0 + q

/-- The pair (sin, cos) of R76 for F = (x mod 2) 2^52. -/
def sinSteps (F : ℤ) : ℤ × ℤ :=
  let w := F % 2 ^ 51
  let j := (w / 2 ^ 45).toNat
  let tq := w % 2 ^ 45 * 2 ^ 10
  let t2 := timesQ tq tq
  let a (k : Nat) : ℤ := coefA.getD k 0
  let b (k : Nat) : ℤ := coefB.getD k 0
  let sp := timesQ (a 0 + timesQ (a 1 + timesQ (a 2 + timesQ (a 3) t2) t2) t2) tq
  let cp := b 0 + timesQ (b 1 + timesQ (b 2 + timesQ (b 3) t2) t2) t2
  let sn := timesQ (tabS.getD j 0) cp + timesQ (tabC.getD j 0) sp
  let cs := timesQ (tabC.getD j 0) cp - timesQ (tabS.getD j 0) sp
  if F / 2 ^ 51 = 0 then (sn, cs) else if F / 2 ^ 51 = 1 then (cs, -sn) else if F / 2 ^ 51 = 2 then (-sn, -cs) else (-cs, sn)

/-! ## The glaze (R295, R296, R306) -/

/-- The f32 code that an exact result of the glaze is rounded to: nearest even, an invalid one naming lane 62 and the address of the
GLZCFG (R295). -/
def glazeRound (pc : DWord) (x : Exact) : Word := BitVec.ofNat 32 (f32.finish 0 0 false 62 pc x)

/-- The larger or the smaller of two f32 values that are not NaN, -0 below +0 (R295). -/
def PickIs (larger : Bool) (x y z : Word) : Prop :=
  let below (u v : FVal) : Prop := match u, v with
    | .inf true, .inf true => False
    | .inf true, _ => True
    | .inf false, _ => False
    | _, .inf s => s = false
    | u, v => realOf u < realOf v ∨ (realOf u = realOf v ∧ u.neg? = true ∧ v.neg? = false)
  (below (f32.decode x.toNat) (f32.decode y.toNat) → z = if larger then y else x) ∧
  (below (f32.decode y.toNat) (f32.decode x.toNat) → z = if larger then x else y) ∧ (z = x ∨ z = y)

/-- The prefix of element m of a block after the four levels of R306, each of which reads what the level before it left. -/
def levelPrefix (join : GPair → GPair → GPair) (x : Nat → GPair) : Nat → Nat → GPair
  | 0, m => x m
  | n + 1, m => if 2 ^ n ≤ m then join (levelPrefix join x n (m - 2 ^ n)) (levelPrefix join x n m) else levelPrefix join x n m

/-! ## The matrix engine (R64, R278) -/

/-- The products of a block meet a NaN, a zero times an infinity, or infinities of opposite signs (R64). -/
def BlockNan (ps : List (FVal × FVal)) (scales : List FVal) : Prop :=
  (∃ e ∈ ps, e.1.isNan = true ∨ e.2.isNan = true) ∨ (∃ v ∈ scales, v.isNan = true) ∨
  (∃ e ∈ ps, e.1.isInf = true ∧ e.2.isZero = true ∨ e.1.isZero = true ∧ e.2.isInf = true) ∨
  ∃ e ∈ ps, ∃ g ∈ ps, (e.1.isInf = true ∨ e.2.isInf = true) ∧ (g.1.isInf = true ∨ g.2.isInf = true) ∧
    xor e.1.neg? e.2.neg? ≠ xor g.1.neg? g.2.neg?

/-- The code that an exact value becomes in a slot's kind: nearest even, an integer saturated, a NaN 0 there (R278). -/
def ConvIs (k : Nat) (pc : DWord) (x : Exact) (c : Nat) : Prop :=
  (k ≠ 9 → c = (kindFmt k).finish 0 0 false 63 pc x) ∧
  (k = 9 → match x with
    | .inf s => c = if s then 128 else 127
    | .fin m => ∀ r, Stands m r → ∃ n : ℤ, Nearest r n ∧ (c : ℤ) = max (-128) (min 127 n) % 256
    | _ => c = 0)

/-- The largest finite magnitude of a kind. -/
noncomputable def kindTop (k : Nat) : ℝ := if k = 9 then 127 else gridVal (kindFmt k) (kindFmt k).maxCode

/-- The scale byte of a block (R278). -/
def BlockExpIs (k : Nat) (xs : List FVal) (e : Nat) : Prop :=
  ((∃ x ∈ xs, x.isNan = true) → e = 255) ∧
  ((∀ x ∈ xs, x.isNan = false) →
    ((∀ x ∈ xs, x.isInf = true ∨ x.isZero = true) → e = 127) ∧
    ∀ m, (∃ x ∈ xs, x.isInf = false ∧ |realOf x| = m) → (∀ x ∈ xs, x.isInf = false → |realOf x| ≤ m) → 0 < m →
      ∃ t : ℤ, kindTop k * 2 ^ (t - 1) < m ∧ m ≤ kindTop k * 2 ^ t ∧ (e : ℤ) = min 254 (max 0 (127 + t)))

/-- The exact value that an element of a row is converted from: itself, scaled by its block's byte, or divided by the slot's
scale (R278). -/
def ElementIs (w : Half) (scl : Word) (pc : DWord) (x : FVal) (e : Nat) (y : Exact) : Prop :=
  (slotScale w = 1 → (e = 255 → y = .nan x.neg? 0 23) ∧ (e ≠ 255 → ∀ s, x = .inf s → y = .inf s) ∧
    (e ≠ 255 → x.isInf = false → FiniteIs y (realOf x * 2 ^ (127 - (e : ℤ))) (x.neg? = true))) ∧
  (slotScale w = 2 → (∀ s p n, x = .nan s p n → y = .nan s p n) ∧
    (x.isNan = false → (∀ s p n, f32.decode scl.toNat = .nan s p n → y = .nan s p n) ∧
      ((f32.decode scl.toNat).isNan = false →
        QuotientIs x (f32.decode scl.toNat) y ∨
        (QuotientIs x (f32.decode scl.toNat) .invalid ∧ y = .ofVal (f32.decode (invalidCode f32 63 pc)))))) ∧
  (slotScale w ≠ 1 → slotScale w ≠ 2 → y = .ofVal x)

end Sys2Proof.Safety
end

