-- ==== Sys2Proof/Claims/Package.lean ====
section
/-!
DEFINITION. The rules of the events of the package, as claims state them: queues and the control space, the mailbox, messages
between cores, the governor, answers from outside, and the management core.
-/
namespace Sys2Proof.Safety
open Sys2Proof.Machine

/-! ## The driver's queues and the control space (R353-R356, R443, R449, R455, R474) -/

/-- What QCFG leaves of a queue: an enabled queue keeps its size; enabling clears a stop. -/
def configured (x : Queue) (v : DWord) : Queue :=
  { x with
    size := if x.enable then x.size else v.toNat % 32, priority := v.toNat / 2 ^ 8 % 2 ^ 8, enable := v.getLsbD 16
    stopped := if v.getLsbD 16 then none else x.stopped, reread := if v.getLsbD 16 then x.reread else 0 }

/-- Whether a queue takes a QCFG value: it is enabled, or the size code lies in 4 to 16. -/
def takesConfig (x : Queue) (v : DWord) : Prop := x.enable = true ∨ (4 ≤ v.toNat % 32 ∧ v.toNat % 32 ≤ 16)

/-- A value with its low n bits cleared. -/
def cleared (v : DWord) (n : Nat) : DWord := BitVec.ofNat 64 (v.toNat / 2 ^ n * 2 ^ n)

/-- A change of a stack's throttle state, counted by each of its cores (R346, R348). -/
def Throttled (s t : State) (k st : Nat) : Prop :=
  (t.stack k).throt = st ∧
  if (s.stack k).throt = st then t.cores = s.cores
  else ∀ c, t.core c = if c / 16 = k then { s.core c with
    throtPrev := (s.core c).throt, throt := st, throtCount := (s.core c).throtCount + 1 } else s.core c

/-- The stack dispatchers without the teams of a launch (R367). -/
def withoutOffers (s : State) (id : Nat) : Table Stack :=
  s.stackTab.map fun k => (k.1, { k.2 with offers := k.2.offers.filter fun o => o.launch != id })

/-- A launch that runs stops with a record: that is kept as its first cause, and no dispatcher holds a team of it (R367). -/
def stoppedBy (s : State) (id : Nat) (r : FaultRec) : State :=
  { s with
    stackTab := withoutOffers s id
    launches := tset s.launches id { s.launch id with stop := some { r with launch := id, seq := (s.launch id).lrec.seq } } }

/-- What FWCFG and FICFG keep of a value: the size, the package and the two flags, with zeros between (R451). -/
def windowFields (v : DWord) : DWord :=
  BitVec.ofNat 64 (v.toNat % 2 ^ 6 + v.toNat / 2 ^ 8 % 2 ^ 12 * 2 ^ 8 + v.toNat / 2 ^ 24 % 4 * 2 ^ 24)

/-- Host writes to the control space, the driver's queue writes, and the mailbox commands, each with the state it leaves. -/
inductive DriverRule (s : State) : Instr → State → Prop where
  | asleep (i : Instr) (q : Nat) (v : DWord) (h : s.ctl.boot ≠ 1)
      (h2 : i ∈ [.qkick q v, .qcfg q v, .chead q v, .qctlCancel q, .qctlRenumber q]) : DriverRule s i s
  | kick (q : Nat) (v : DWord) (h : s.ctl.boot = 1) (h2 : (s.queue q).kicked.toNat < v.toNat) (h4 : (s.queue q).size < 64)
      (h3 : (v - (s.queue q).cons).toNat ≤ 2 ^ (s.queue q).size) :
      DriverRule s (.qkick q v) (s.setQueue q { s.queue q with kicked := v })
  | kickOld (q : Nat) (v : DWord) (h : s.ctl.boot = 1) (h2 : v.toNat ≤ (s.queue q).kicked.toNat) :
      DriverRule s (.qkick q v) s
  | kickFar (q : Nat) (v : DWord) (h : s.ctl.boot = 1) (h2 : (s.queue q).kicked.toNat < v.toNat)
      (h4 : (s.queue q).size < 64) (h3 : 2 ^ (s.queue q).size < (v - (s.queue q).cons).toNat) :
      DriverRule s (.qkick q v) (s.setQueue q { s.queue q with stopped := some 4 })
  | config (q : Nat) (v : DWord) (h : s.ctl.boot = 1) (h2 : takesConfig (s.queue q) v) :
      DriverRule s (.qcfg q v) (s.setQueue q (configured (s.queue q) v))
  | configVoid (q : Nat) (v : DWord) (h : s.ctl.boot = 1) (h2 : ¬ takesConfig (s.queue q) v) : DriverRule s (.qcfg q v) s
  | cancelNone (q : Nat) (h : s.ctl.boot = 1) (h2 : (s.queue q).head = none) : DriverRule s (.qctlCancel q) s
  | cancel (q : Nat) (x : Head) (h : s.ctl.boot = 1) (h2 : (s.queue q).head = some x) :
      DriverRule s (.qctlCancel q) (s.setQueue q { s.queue q with
        head := none, stopped := some 5
        endings := (s.queue q).endings ++ [{ status := 4, seq := x.seq, fault := { kind := 4, seq := x.seq } }] })
  | renumber (q : Nat) (h : s.ctl.boot = 1) (h2 : (s.queue q).enable = false) (h3 : ∀ l ∈ s.launches, l.2.queue ≠ q)
      (h4 : (s.queue q).head = none ∧ (s.queue q).endings = []) : DriverRule s (.qctlRenumber q) (s.setQueue q { s.queue q with
        cons := 0, done := 0, doneAhead := [], ctail := 0, chead := 0, kicked := 0, reread := 0 })
  | renumberBusy (q : Nat) (h : s.ctl.boot = 1) (h2 : (s.queue q).enable = true ∨ (∃ l ∈ s.launches, l.2.queue = q) ∨
      (s.queue q).head ≠ none ∨ (s.queue q).endings ≠ []) : DriverRule s (.qctlRenumber q) s
  | chead (q : Nat) (v : DWord) (h : s.ctl.boot = 1) :
      DriverRule s (.chead q v) (s.setQueue q { s.queue q with chead := v })
  | base (q : Nat) (v : DWord) (h : s.ctl.boot = 1) (hq : q < 1024) (h2 : (s.queue q).enable = false) :
      DriverRule s (.controlRegisterWrite (0x10000 + 128 * q) v) (s.setQueue q { s.queue q with base := cleared v 8 })
  | cbase (q : Nat) (v : DWord) (h : s.ctl.boot = 1) (hq : q < 1024) (h2 : (s.queue q).enable = false) :
      DriverRule s (.controlRegisterWrite (0x10000 + 128 * q + 0x30) v) (s.setQueue q { s.queue q with cbase := cleared v 7 })
  | baseFixed (q o : Nat) (v : DWord) (h : s.ctl.boot = 1) (hq : q < 1024) (ho : o = 0 ∨ o = 0x30) (h2 : (s.queue q).enable = true) :
      DriverRule s (.controlRegisterWrite (0x10000 + 128 * q + o) v) s
  | ccfg (q : Nat) (v : DWord) (h : s.ctl.boot = 1) (hq : q < 1024) (h2 : (s.queue q).enable = false)
      (h3 : 4 ≤ v.toNat % 32 ∧ v.toNat % 32 ≤ 16) : DriverRule s (.controlRegisterWrite (0x10000 + 128 * q + 0x38) v)
        (s.setQueue q { s.queue q with csize := v.toNat % 32, cint := v.getLsbD 8 })
  | ccfgVoid (q : Nat) (v : DWord) (h : s.ctl.boot = 1) (hq : q < 1024) (h2 : (s.queue q).enable = false)
      (h3 : v.toNat % 32 < 4 ∨ 16 < v.toNat % 32) : DriverRule s (.controlRegisterWrite (0x10000 + 128 * q + 0x38) v) s
  | ccfgKept (q : Nat) (v : DWord) (h : s.ctl.boot = 1) (hq : q < 1024) (h2 : (s.queue q).enable = true) :
      DriverRule s (.controlRegisterWrite (0x10000 + 128 * q + 0x38) v) (s.setQueue q { s.queue q with cint := v.getLsbD 8 })
  | queueReadOnly (q o : Nat) (v : DWord) (h : s.ctl.boot = 1) (hq : q < 1024) (ho : o ∈ [0x18, 0x20, 0x28, 0x48]) :
      DriverRule s (.controlRegisterWrite (0x10000 + 128 * q + o) v) s
  | kickRegister (q : Nat) (v : DWord) (t : State) (h : s.ctl.boot = 1) (hq : q < 1024) (h2 : DriverRule s (.qkick q v) t) :
      DriverRule s (.controlRegisterWrite (0x10000 + 128 * q + 0x10) v) t
  | configRegister (q : Nat) (v : DWord) (t : State) (h : s.ctl.boot = 1) (hq : q < 1024) (h2 : DriverRule s (.qcfg q v) t) :
      DriverRule s (.controlRegisterWrite (0x10000 + 128 * q + 0x08) v) t
  | cheadRegister (q : Nat) (v : DWord) (t : State) (h : s.ctl.boot = 1) (hq : q < 1024) (h2 : DriverRule s (.chead q v) t) :
      DriverRule s (.controlRegisterWrite (0x10000 + 128 * q + 0x40) v) t
  | cancelRegister (q : Nat) (t : State) (h : s.ctl.boot = 1) (hq : q < 1024) (h2 : DriverRule s (.qctlCancel q) t) :
      DriverRule s (.controlRegisterWrite (0x10000 + 128 * q + 0x50) 1) t
  | renumberRegister (q : Nat) (t : State) (h : s.ctl.boot = 1) (hq : q < 1024) (h2 : DriverRule s (.qctlRenumber q) t) :
      DriverRule s (.controlRegisterWrite (0x10000 + 128 * q + 0x50) 2) t
  | qctlReserved (q : Nat) (v : DWord) (h : s.ctl.boot = 1) (hq : q < 1024) (h2 : 4 ≤ v.toNat) :
      DriverRule s (.controlRegisterWrite (0x10000 + 128 * q + 0x50) v) s
  | fabid (v : DWord) (h : ∀ e ∈ s.ctl.outw, winValid e.2.cfg = false) :
      DriverRule s (.controlRegisterWrite 0x10 v) { s with ctl := { s.ctl with fabid := BitVec.ofNat 64 (v.toNat % 2 ^ 12) } }
  | fabidFixed (v : DWord) (h : ∃ e ∈ s.ctl.outw, winValid e.2.cfg = true) : DriverRule s (.controlRegisterWrite 0x10 v) s
  | asidbase (v : DWord) :
      DriverRule s (.controlRegisterWrite 0x100 v) { s with ctl := { s.ctl with asidbase := cleared v 22 } }
  | invaddr (v : DWord) :
      DriverRule s (.controlRegisterWrite 0x110 v) { s with ctl := { s.ctl with invaddr := cleared v 16 } }
  | invpages (v : DWord) : DriverRule s (.controlRegisterWrite 0x118 v) { s with ctl := { s.ctl with invpages := v } }
  | hevbase (v : DWord) (h : s.ctl.boot = 1) (h2 : s.ctl.heven = false) :
      DriverRule s (.controlRegisterWrite 0x5000 v) { s with ctl := { s.ctl with hevbase := cleared v 12 } }
  | hevcfg (v : DWord) (h : s.ctl.boot = 1) (h2 : s.ctl.heven = true ∨ (4 ≤ v.toNat % 32 ∧ v.toNat % 32 ≤ 16)) :
      DriverRule s (.controlRegisterWrite 0x5008 v) { s with ctl := { s.ctl with
        hevsize := if s.ctl.heven then s.ctl.hevsize else v.toNat % 32, hevint := v.getLsbD 8, heven := v.getLsbD 9 } }
  | hevcfgVoid (v : DWord) (h2 : s.ctl.heven = false) (h3 : v.toNat % 32 < 4 ∨ 16 < v.toNat % 32) :
      DriverRule s (.controlRegisterWrite 0x5008 v) s
  | hevbaseFixed (v : DWord) (h2 : s.ctl.heven = true) : DriverRule s (.controlRegisterWrite 0x5000 v) s
  | unserved (off : Nat) (v : DWord) (h : s.ctl.boot ≠ 1) (h2 : 0x5000 ≤ off) : DriverRule s (.controlRegisterWrite off v) s
  | hevhead (v : DWord) (h : s.ctl.boot = 1) :
      DriverRule s (.controlRegisterWrite 0x5010 v) { s with ctl := { s.ctl with hevhead := v } }
  | inbound (w : Nat) (v : DWord) (hw : w < 32) :
      DriverRule s (.controlRegisterWrite (0x2000 + 32 * w) v)
        { s with ctl := { s.ctl with inw := tset s.ctl.inw w { tget {} s.ctl.inw w with base := cleared v 16 } } }
  | inboundConfig (w : Nat) (v : DWord) (hw : w < 32) :
      DriverRule s (.controlRegisterWrite (0x2008 + 32 * w) v)
        { s with ctl := { s.ctl with inw := tset s.ctl.inw w { tget {} s.ctl.inw w with cfg := windowFields v } } }
  | outbound (w : Nat) (v : DWord) (hw : w < 32) :
      DriverRule s (.controlRegisterWrite (0x1000 + 32 * w) v)
        { s with ctl := { s.ctl with outw := tset s.ctl.outw w { s.window w with base := cleared v 16 } } }
  | outboundConfig (w : Nat) (v : DWord) (hw : w < 32) :
      DriverRule s (.controlRegisterWrite (0x1008 + 32 * w) v)
        { s with ctl := { s.ctl with outw := tset s.ctl.outw w { s.window w with cfg := windowFields v } } }
  | outboundPorts (w : Nat) (v : DWord) (hw : w < 32) (h : v &&& s.ctl.portup = (s.window w).ports &&& s.ctl.portup) :
      DriverRule s (.controlRegisterWrite (0x1010 + 32 * w) v)
        { s with ctl := { s.ctl with outw := tset s.ctl.outw w { s.window w with ports := v } } }
  | outboundRouted (w : Nat) (v : DWord) (hw : w < 32) (h : v &&& s.ctl.portup ≠ (s.window w).ports &&& s.ctl.portup) :
      DriverRule s (.controlRegisterWrite (0x1010 + 32 * w) v)
        { s with ctl := { s.ctl with outw := tset s.ctl.outw w { s.window w with ports := v, epoch := (s.window w).epoch + 1 } } }
  | pastWindows (off : Nat) (v : DWord) (h : (0x1400 ≤ off ∧ off < 0x2000) ∨ (0x2400 ≤ off ∧ off < 0x3000)) :
      DriverRule s (.controlRegisterWrite off v) s
  | windowStatus (w : Nat) (v : DWord) (hw : w < 32) : DriverRule s (.controlRegisterWrite (0x1018 + 32 * w) v) s
  | mailData (o : Nat) (v : DWord) (ho : o < 256) :
      DriverRule s (.controlRegisterWrite (0x4000 + 8 * o) v) { s with ctl := { s.ctl with
        mbdata := (List.range 8).foldl (fun t i => tput 0 t (8 * o + i) (valByte v.toNat i)) s.ctl.mbdata } }
  | readOnly (off : Nat) (v : DWord) (h : off ∈ [0x00000, 0x00008, 0x00018, 0x00020, 0x00120, 0x00208, 0x03008]) :
      DriverRule s (.controlRegisterWrite off v) s
  | certificate (hm : s.ctl.mbslot = none) :
      DriverRule s .mbCertificate { s with ctl := { s.ctl.putMb Config.certificate with mbresult := 0 } }
  | attest (hm : s.ctl.mbslot = none) : DriverRule s .mbAttest
      { s with ctl := { s.ctl.putMb (s.ctl.report ++ bytesOf (Config.pssSign s.ctl.report).toNat 512) with mbresult := 0 } }
  | keyLoad (slot : BitVec 6) (hm : s.ctl.mbslot = none) (h : tfind s.ctl.keys slot.toNat = none) :
      DriverRule s (.mbKeyLoad slot false) { s with ctl := { s.ctl with
        keys := tset s.ctl.keys slot.toNat (BitVec.ofNat 512 (bytesLE (tget 0 s.ctl.mbdata) 0 64)), mbresult := 0 } }
  | keyWrapped (slot : BitVec 6) (k : BitVec 512) (hm : s.ctl.mbslot = none) (h : tfind s.ctl.keys slot.toNat = none)
      (h2 : Config.oaepUnwrap ((List.range 512).map (tget 0 s.ctl.mbdata)) = some k) :
      DriverRule s (.mbKeyLoad slot true) { s with ctl := { s.ctl with
        keys := tset s.ctl.keys slot.toNat k, mbresult := 0 } }
  | keyTaken (slot : BitVec 6) (wrap : Bool) (hm : s.ctl.mbslot = none) (h : tfind s.ctl.keys slot.toNat ≠ none) :
      DriverRule s (.mbKeyLoad slot wrap) { s with ctl := { s.ctl with mbresult := 2 } }
  | keyBad (slot : BitVec 6) (hm : s.ctl.mbslot = none) (h : tfind s.ctl.keys slot.toNat = none)
      (h2 : Config.oaepUnwrap ((List.range 512).map (tget 0 s.ctl.mbdata)) = none) :
      DriverRule s (.mbKeyLoad slot true) { s with ctl := { s.ctl with mbresult := 4 } }
  | unloadEmpty (slot : BitVec 6) (hm : s.ctl.mbslot = none) (h : tfind s.ctl.keys slot.toNat = none) :
      DriverRule s (.mbKeyUnload slot) { s with ctl := { s.ctl with mbresult := 3 } }
  | raise (n : Nat) (f : DWord) (x : FwImage) (rest : List FwImage) (hm : s.ctl.mbslot = none) (h : s.ctl.images = x :: rest)
      (hn : n = bytesLE (tget 0 s.ctl.mbdata) 0 8) (h2 : n ≤ x.svn.toNat) (h3 : n ≤ 64)
      (hf : ∀ i, i < 64 → f.getLsbD i = (s.ctl.fusedSvn.getLsbD i || decide (i < n))) :
      DriverRule s .mbRaiseSvn { s with ctl := { s.ctl with fusedSvn := f, mbresult := 0 } }
  | raiseFar (n : Nat) (x : FwImage) (rest : List FwImage) (hm : s.ctl.mbslot = none) (h : s.ctl.images = x :: rest)
      (hn : n = bytesLE (tget 0 s.ctl.mbdata) 0 8) (h2 : x.svn.toNat < n ∨ 64 < n) :
      DriverRule s .mbRaiseSvn { s with ctl := { s.ctl with mbresult := 5 } }
  | mailBusy (i : Instr) (hm : s.ctl.mbslot ≠ none) (h : i = .mbAttest ∨ i = .mbCertificate ∨ i = .mbRaiseSvn ∨
      (∃ slot wrap, i = .mbKeyLoad slot wrap) ∨ ∃ slot : BitVec 6, i = .mbKeyUnload slot ∧ s.ctl.mbslot ≠ some slot.toNat) :
      DriverRule s i s
  | abort (id : Nat) (l : Launch) (h : tfind s.launches id = some l) (h2 : l.finished = false) (h3 : l.stop = none)
      (h4 : id < 2 ^ 32) :
      DriverRule s (.lcmdAbort id) { s with
        launches := tset s.launches id { l with
          stop := some { kind := 4, launch := id, seq := l.lrec.seq }, lst := 4 }
        stackTab := withoutOffers s id
        ctl := { s.ctl with lstateId := BitVec.ofNat 32 id, lstate := 4 } }
  | abortEnded (id : Nat) (h : ∀ l, tfind s.launches id = some l → l.finished = true) :
      DriverRule s (.lcmdAbort id) { s with ctl := { s.ctl with lstateId := BitVec.ofNat 32 id, lstate := 5 } }

/-! ## Messages, units and sensors (R207, R330, R340, R345, R387, R442, R450, R452, R471) -/

/-- A request to the host, or through a window with nothing older of an earlier port set under way (R442, R450). -/
def HostReq (s : State) (r : Remote) : Prop := (s.remotes.find? fun x => x.id == r.id && x.window.isNone) = some r
def FabricReq (s : State) (r : Remote) : Prop := s.fabricReq r.id = some r

/-- The state once a request has ended. -/
def ended (s : State) (r : Remote) : State := { s with remotes := s.remotes.filter fun x => x.id != r.id }

/-- An answer of a request is kept for the set that asked. -/
def answered (s : State) (r : Remote) (data : BitVec 128) (fail : Option (Byte × Byte)) : State :=
  (ended s r).setGrp r.group { s.grp r.group with
    resp := (s.grp r.group).resp ++ [{ jset := r.jset, lane := r.lane, pa := r.pa, data, fail }] }

/-- A store that failed outside stops its launch, the first cause kept, with the place of the strand that issued it (R373, R442,
R452). -/
def storeFailed (s : State) (r : Remote) (detail : Byte) : State :=
  stoppedBy s r.launch { kind := 1, cause := 0x11, detail := detail.zeroExtend 16, team := r.team, group := r.index
                         strand := r.strand, core := r.core, tinfo := tinfoOf { cause := 0x11, detail }, taddr := r.va }

/-- The fused security version: the fuses blown (R454, log 97). -/
def fuses (s : State) : Nat := (List.range 64).countP fun i => s.ctl.fusedSvn.getLsbD i

/-- The first step of bring-up that fails, in the order of R473: how many images had been accepted by then, and what BOOTSTAT says of
the image that was not. -/
inductive BootFails (svn : Nat) (images : List FwImage) (ring rest : Bool) : Nat → Nat → Nat → Prop where
  | management (why : Nat) (h : imageFails svn 1 images[0]? = some why) : BootFails svn images ring rest 0 1 why
  | ring (h : imageFails svn 1 images[0]? = none) (h1 : ring = false) : BootFails svn images ring rest 1 0 0
  | second (why : Nat) (h : imageFails svn 1 images[0]? = none) (h1 : ring = true) (h2 : imageFails svn 2 images[1]? = some why) :
      BootFails svn images ring rest 1 2 why
  | third (why : Nat) (h : imageFails svn 1 images[0]? = none) (h1 : ring = true) (h2 : imageFails svn 2 images[1]? = none)
      (h3 : imageFails svn 3 images[2]? = some why) : BootFails svn images ring rest 2 3 why
  | rest (h : imageFails svn 1 images[0]? = none) (h1 : ring = true) (h2 : imageFails svn 2 images[1]? = none)
      (h3 : imageFails svn 3 images[2]? = none) (h4 : rest = false) : BootFails svn images ring rest 3 0 0

/-- Events of single units, each with the state it leaves. -/
inductive UnitRule (s : State) : Instr → State → Prop where
  | signature (core : Nat) (m : Posted) (sig : Line)
      (h : (s.msgs.find? fun m => match m.msg with | .signature c _ => c == core | _ => false) = some m)
      (h2 : m.msg = .signature core sig) : UnitRule s (.signaturePublish core)
        ({ s with msgs := s.msgs.erase m }.setCore core { s.core core with psig := (s.core core).psig ||| sig })
  | drop (core asid hnd : Nat) (m : Posted)
      (h : (s.msgs.find? fun m => match m.msg with | .drop c _ _ => c == core | _ => false) = some m)
      (h2 : m.msg = .drop core asid hnd) : UnitRule s (.handleEntryDrop core)
        ({ s with msgs := s.msgs.erase m }.setCore core { s.core core with
          handles := tdel (s.core core).handles (asid * 4096 + hnd) })
  | ways (core k w : Nat) (m : Posted)
      (h : (s.msgs.find? fun m => match m.msg with | .ways c _ _ => c == core | _ => false) = some m)
      (h2 : m.msg = .ways core k w) :
      UnitRule s (.srwaysPublish core) ({ s with msgs := s.msgs.erase m }.setCore core { s.core core with
        ways := tput 0 (s.core core).ways k w })
  | sfu (k lane : Nat) (a : SfuArg) (rest : List SfuArg) (h : (s.grp k).args lane = a :: rest)
      (h2 : ((s.grp k).queued 5 lane).length < 8) :
      UnitRule s (.sfuResult k lane) (s.setGrp k { ((s.grp k).setQueued 5 lane ((s.grp k).queued 5 lane ++ [a.result lane])) with
        sfu := tput [] (s.grp k).sfu lane rest })
  | sfuFull (k lane : Nat) (h2 : 8 ≤ ((s.grp k).queued 5 lane).length) : UnitRule s (.sfuResult k lane) s
  | hostLoad (r : Remote) (data : BitVec 128) (h : HostReq s r) (h2 : r.op ≠ .store) (h3 : (tfind s.groups r.group).isSome = true) :
      UnitRule s (.hostWindowCompletion r.id data true) (answered s r data none)
  | hostLoadFails (r : Remote) (data : BitVec 128) (h : HostReq s r) (h2 : r.op ≠ .store)
      (h3 : (tfind s.groups r.group).isSome = true) :
      UnitRule s (.hostWindowCompletion r.id data false) (answered s r 0 (some (0x10, 3)))
  | hostStore (r : Remote) (data : BitVec 128) (h : HostReq s r) (h2 : r.op = .store) :
      UnitRule s (.hostWindowCompletion r.id data true) (ended s r)
  | hostTimeout (r : Remote) (h : HostReq s r) (h2 : r.op ≠ .store) (h3 : (tfind s.groups r.group).isSome = true) :
      UnitRule s (.hostRequestTimeout r.id) (answered s r 0 (some (0x10, 3)))
  | hostStoreLost (r : Remote) (h : HostReq s r) (h2 : r.op = .store) (h3 : (tfind s.launches r.launch).isSome = true)
      (h4 : (s.launch r.launch).stop = none) : UnitRule s (.hostRequestTimeout r.id)
        { (storeFailed (ended s r) r 13) with ctl := { s.ctl with hosterr := s.ctl.hosterr + 1 } }
  | fabricLoad (r : Remote) (data : BitVec 128) (ok : Bool) (h : FabricReq s r) (h2 : r.op ≠ .store)
      (h3 : (tfind s.groups r.group).isSome = true) :
      UnitRule s (.fabricResponse r.id data ok) (answered s r data (if ok then none else some (0x11, 11)))
  | fabricStore (r : Remote) (data : BitVec 128) (h : FabricReq s r) (h2 : r.op = .store) :
      UnitRule s (.fabricResponse r.id data true) (ended s r)
  | fabricStoreRefused (r : Remote) (w : Nat) (data : BitVec 128) (h : FabricReq s r) (h2 : r.op = .store)
      (hw : r.window = some w) (h3 : (tfind s.launches r.launch).isSome = true) (h4 : (s.launch r.launch).stop = none) :
      UnitRule s (.fabricResponse r.id data false) { (storeFailed (ended s r) r 11) with ctl := { s.ctl with
        outw := tset s.ctl.outw w { s.window w with refused := (s.window w).refused + 1 } } }
  | fabricStoreLost (r : Remote) (w : Nat) (h : FabricReq s r) (h2 : r.op = .store)
      (hw : r.window = some w) (h3 : (tfind s.launches r.launch).isSome = true) (h4 : (s.launch r.launch).stop = none) :
      UnitRule s (.fabricResponseTimeout r.id) { (storeFailed (ended s r) r 11) with ctl := { s.ctl with
        outw := tset s.ctl.outw w { s.window w with refused := (s.window w).refused + 1 } } }
  | fabricTimeout (r : Remote) (h : FabricReq s r) (h2 : r.op ≠ .store) (h3 : (tfind s.groups r.group).isSome = true) :
      UnitRule s (.fabricResponseTimeout r.id) (answered s r 0 (some (0x10, 3)))
  | wear (k eol em : Nat) : UnitRule s (.wearPrediction k eol em)
      (s.setStack k { s.stack k with
        wearEol := BitVec.ofNat 64 (eol % 2 ^ 32), wearDay := some (s.stack k).periods.toNat, wearEm := (s.stack k).wearEm + BitVec.ofNat 64 em })
  | launchWaits (q : Nat) (h : (s.queue q).head = none) : UnitRule s (.waitReread q) s
  | recordNone (q : Nat) (h : (s.queue q).reads = false) : UnitRule s (.recordRead q) s
  | completionFull (q : Nat) (e : Ending) (rest : List Ending) (h : (s.queue q).endings = e :: rest)
      (h2 : (s.queue q).ctail - (s.queue q).chead = BitVec.ofNat 64 (2 ^ (s.queue q).csize)) :
      UnitRule s (.completionRecord q) s
  | booted (images : List FwImage) (a b c : FwImage) (rest : List FwImage) (h : s.ctl.boot = 0)
      (h2 : images = a :: b :: c :: rest) (h3 : imageFails (fuses s) 1 (some a) = none)
      (h4 : imageFails (fuses s) 2 (some b) = none) (h5 : imageFails (fuses s) 3 (some c) = none) :
      UnitRule s (.bringUp images ⟨true, true, true⟩) { s with ctl := { s.ctl with boot := 1, images := [a, b, c] } }
  | bootFails (images : List FwImage) (trained : Training) (kept image why : Nat) (h : s.ctl.boot = 0)
      (h2 : BootFails (fuses s) images trained.ring (trained.memory && trained.port) kept image why) :
      UnitRule s (.bringUp images trained) { s with ctl := { s.ctl with
        boot := 2, bootImage := image, bootWhy := why, images := images.take kept } }
  | bootTwice (images : List FwImage) (trained : Training) (h : s.ctl.boot ≠ 0) :
      UnitRule s (.bringUp images trained) s

/-- Accesses that have passed their key check under a slot and are not performed yet, stores apart (R459). -/
def UnderKey (s : State) (slot : Nat) : Prop :=
  (∃ r ∈ s.loads, r.key = some slot) ∨
  (∃ e ∈ s.groups, ∃ x ∈ e.2.strands, ∃ b, x.begun = some b ∧ ∃ a ∈ b.accs, a.key = some slot) ∨
  ∃ c ∈ s.cores, ∃ m ∈ c.2.mats, m.tileKey = some slot ∨ m.mergeKey = some slot

/-- An outstanding access of a group that may be performed alone: no earlier one of its core meets its bytes, which lie in one line
inside the package, and none is of a lane before it of one atomic (R237, R243, R382). -/
def NextLoad (s : State) (k idx : Nat) (r : Load) : Prop :=
  (s.loads.filter (·.group == k))[idx]? = some r ∧ s.loads.count r = 1 ∧ cacheable r.pa = true ∧ r.size ≤ 16 ∧
  r.pa % 128 + r.size ≤ 128 ∧ KeyAgrees s (r.pa / 128) r.key ∧
  ∀ x ∈ s.loads.takeWhile (· != r), ((s.grp x.group).core = (s.grp k).core → x.pa + x.size ≤ r.pa ∨ r.pa + r.size ≤ x.pa) ∧
    ∀ f g, r.fly = some f → x.fly = some g → x.group = k → f.unit ≠ 0 → g.unit ≠ f.unit

/-- Every tier line of a memory line that holds it under a key is pinned, or none is (R441). -/
def KeyedPinned (s : State) (line : Nat) (pinned : Bool) : Prop :=
  ∀ n, nodeOf (line * 128) = .stack n → ∀ e ∈ (s.stack n).tier, e.2.line = line → e.2.key ≠ none → e.2.pin.isSome = pinned

/-- No poison waits on a line for a core's access. -/
def CleanFor (s : State) (core line : Nat) : Prop :=
  s.poisoned line = false ∧ line ∉ (s.core core).wcbPoison ∧ line ∉ (s.core core).l1poison

/-! ## The event ring (R475) -/

/-- Byte o of an event record. -/
def eventByte (kind unit launch place : Nat) (detail : List Nat) (e o : Nat) : Byte :=
  if o = 0 then BitVec.ofNat 8 kind else if o = 1 then BitVec.ofNat 8 unit
  else if 4 ≤ o ∧ o < 8 then valByte launch (o - 4) else if 8 ≤ o ∧ o < 16 then valByte place (o - 8)
  else if 16 ≤ o ∧ o < 56 then valByte (detail.getD ((o - 16) / 4) 0) (o % 4)
  else if 56 ≤ o then valByte e (o - 56) else 0

/-- An event record is logged: it enters the ring where the ring is enabled and has room, else it is counted as lost. -/
def Logged (s t : State) (kind unit launch place : Nat) (detail : List Nat) : Prop :=
  let c := s.ctl
  if c.heven = false ∨ c.hevtail - c.hevhead = BitVec.ofNat 64 (2 ^ c.hevsize) then
    t = { s with ctl := { c with hevlost := c.hevlost + 1 } }
  else
    let e := c.hevtail + 1
    let a := c.hevbase.toNat + 64 * (e.toNat % 2 ^ c.hevsize)
    { t with ctl := s.ctl, stackTab := s.stackTab, edge := s.edge, mem := s.mem, poison := s.poison } = s ∧
    t.ctl = { c with hevtail := e, msix := if c.hevint then c.msix ++ [1024] else c.msix } ∧
    ∀ x, t.home x = if a ≤ x ∧ x < a + 64 then eventByte kind unit launch place detail e.toNat (x - a) else s.home x

/-- The n bytes from an address up lie under a key, or under none, have storage or a window that answers, and no write of
the device's own to them fails (R321, R442, R450, R458, log 113). -/
def Reaches (s : State) (a n : Nat) (key : Option Nat) : Prop :=
  ∀ i, i < n → KeyAgrees s ((a + i) / 128) key ∧ s.physFail ((a + i) / 128 * 128) true = none

/-- The event ring's next record can be written as it stands. -/
def RingPlain (s : State) : Prop :=
  Reaches s (s.ctl.hevbase.toNat + 64 * ((s.ctl.hevtail + 1).toNat % 2 ^ s.ctl.hevsize)) 64 none

/-- The record of the stop that an uncorrected error in an accumulator row causes (R462). -/
def rowLost (s : State) (id core row : Nat) : FaultRec :=
  { kind := 1, cause := 0x3F, core := core, taddr := BitVec.ofNat 64 row, launch := id, seq := (s.launch id).lrec.seq }

/-- A place whose error is still to be tested; and one whose test is done (R463). -/
def toTest (s : State) (p : EccPlace) : State := { s with ctl := { s.ctl with tests := s.ctl.tests ++ [p] } }
def testedAt (s : State) (p : EccPlace) : State :=
  let s : State := { s with ctl := { s.ctl with tests := s.ctl.tests.erase p } }
  match p with
  | .sram stack slice way _ => s.setStack stack ((s.stack stack).testWay slice way)
  | _ => s

/-- A corrected error counted, those of the last 24 hours kept; and how many of those a place has (R464). -/
def counted (s : State) (p : EccPlace) : State :=
  { s with ctl := { s.ctl with
    errors := (s.ctl.errors.filter fun e => decide ((s.stack (placeStack e.1)).periods.toNat < e.2 + 86400000)) ++
      [(p, (s.stack (placeStack p)).periods.toNat)] } }
def recentErrors (s : State) (p : EccPlace) : Nat :=
  s.ctl.errors.countP fun e => e.1 == p && decide ((s.stack (placeStack p)).periods.toNat < e.2 + 86400000)

/-- A parity error discards the TLB entry, the handle entry or the L1 line it stands in (R460). -/
def discarded (s : State) (core : Nat) (tlb handle line : Option Nat) : State :=
  let c := match line with | some l => (s.core core).dropL1 (· == l) | none => s.core core
  s.setCore core { c with
    tlb := match tlb with | some i => ldel c.tlb i | none => c.tlb
    handles := match handle with | some k => tdel c.handles k | none => c.handles }

/-- No resident allocation of a core touches a bank (R464). -/
def BankFree (s : State) (core b : Nat) : Prop :=
  (∀ t ∈ s.teams, t.2.core = core → t.2.size ≠ 0 → (b + 1) * 65536 ≤ t.2.base ∨ t.2.base + t.2.size ≤ b * 65536) ∧
  ∀ h, (s.core core).holder = some h → h.size ≠ 0 → (b + 1) * 65536 ≤ h.base ∨ h.base + h.size ≤ b * 65536

/-- Nothing stands in a partition: no group, and no holder's carrier groups (R407, R464). -/
def PartFree (s : State) (core part : Nat) : Prop :=
  (s.core core).holder = none ∧ ∀ e ∈ s.groups, ¬ (e.2.core = core ∧ e.2.part = part)

/-- A test finds a lasting fault in a place: it fails, or it is the third corrected error within 24 hours (R464). -/
def Lasting (s : State) (p : EccPlace) (passed : Bool) : Prop :=
  p ∈ s.ctl.tests ∧ (passed = false ∨ 3 ≤ recentErrors s p)

/-- A bank of a core's local memory, as a place of the scratchpad or of L1 data. -/
inductive BankPlace (core : Nat) : EccPlace → Nat → Prop where
  | pad (block : Nat) : BankPlace core (.localMem core block) (block / 512)
  | l1 (bank line : Nat) : BankPlace core (.l1Data core bank line) bank

/-- Queued writes of a line are struck. -/
def struck (q : List SliceReq) (line : Nat) : List SliceReq := q.map fun r => if r.line = line then { r with poison := true } else r

/-- Events of the management core that end with an event record: the state before the record, and the record (R460-R464,
R469, R470, R472). -/
inductive HealthRule (s : State) : Instr → State → Nat → Nat → Nat → Nat → List Nat → Prop where
  | corrected (p : EccPlace) (u x : Nat) (h : placeUnit p = (u, x)) (h2 : ∀ c a b l, p ≠ .parity c a b l) :
      HealthRule s (.eccError p true) (toTest (counted s p) p) 1 u 0 x []
  | parity (core : Nat) (tlb handle line : Option Nat) (good : Bool) :
      HealthRule s (.eccError (.parity core tlb handle line) good)
        (toTest (discarded (counted s (.parity core tlb handle line)) core tlb handle line) (.parity core tlb handle line))
        1 6 0 (core * 2 ^ 8) []
  | memory (pa : Nat) : HealthRule s (.eccError (.dram pa) false)
      (toTest { s with poison := s.poison.filter (· != pa / 128) ++ [pa / 128] } (.dram pa)) 2 1 0 pa []
  | sram (stack slice way pa : Nat) : HealthRule s (.eccError (.sram stack slice way pa) false)
      (toTest { s with poison := s.poison.filter (· != pa / 128) ++ [pa / 128] } (.sram stack slice way pa))
      2 2 0 (stack * 2 ^ 16 + slice * 2 ^ 8 + way) []
  | l1Held (core bank line : Nat) (h : (tfind (s.core core).l1 line).isSome = true) :
      HealthRule s (.eccError (.l1Data core bank line) false)
        (toTest (s.setCore core { s.core core with l1poison := (s.core core).l1poison.filter (· != line) ++ [line] })
          (.l1Data core bank line)) 2 3 0 (core * 2 ^ 8 + bank) []
  | buffered (core line : Nat) (h : ∃ c ∈ (s.core core).wcb, c.pa / 128 = line) :
      HealthRule s (.eccError (.buffer core line) false)
        (toTest (s.setCore core { s.core core with wcbPoison := (s.core core).wcbPoison.filter (· != line) ++ [line] }) (.buffer core line))
        2 0 0 (core * 2 ^ 8) []
  | queued (core line n : Nat) (h : ∀ c ∈ (s.core core).wcb, c.pa / 128 ≠ line) (h2 : nodeOf (line * 128) = .stack n) :
      HealthRule s (.eccError (.buffer core line) false)
        (toTest (s.setStack n { s.stack n with queue := (s.stack n).queue.map fun e => (e.1, struck e.2 line) }) (.buffer core line))
        2 0 0 (core * 2 ^ 8) []
  | queuedEdge (core line n : Nat) (h : ∀ c ∈ (s.core core).wcb, c.pa / 128 ≠ line) (h2 : nodeOf (line * 128) = .edge n) :
      HealthRule s (.eccError (.buffer core line) false)
        (toTest { s with edge := tset s.edge n (struck (tget [] s.edge n) line) } (.buffer core line)) 2 0 0 (core * 2 ^ 8) []
  | accUnowned (core row : Nat) (h : s.rowOwner core row = none) :
      HealthRule s (.eccError (.accStore core row) false) (toTest s (.accStore core row)) 2 5 0 (core * 2 ^ 8 + row) []
  | localMem (core block : Nat) : HealthRule s (.eccError (.localMem core block) false)
      (toTest (s.setCore core { s.core core with memPoison := (s.core core).memPoison.filter (· != block) ++ [block] })
        (.localMem core block)) 2 3 0 (core * 2 ^ 8 + block / 512) []
  | regFile (core part k reg : Nat) (h : (tfind s.groups k).isSome = true) :
      HealthRule s (.eccError (.regFile core part k reg) false)
        (toTest (s.setGrp k { s.grp k with bad := (s.grp k).bad.filter (· != reg) ++ [reg] }) (.regFile core part k reg))
        2 4 0 (core * 2 ^ 8 + part) []
  | accStore (core row id : Nat) (h : s.rowOwner core row = some id) (h2 : (s.launch id).stop = none) :
      HealthRule s (.eccError (.accStore core row) false)
        (toTest (stoppedBy s id (rowLost s id core row)) (.accStore core row)) 2 5 id (core * 2 ^ 8 + row) []
  | soft (p : EccPlace) (u x : Nat) (h : placeUnit p = (u, x)) (h1 : p ∈ s.ctl.tests) (h2 : 1 ≤ u ∧ u ≤ 4)
      (h3 : recentErrors s p < 3) : HealthRule s (.selfTest p true) (testedAt s p) 3 u 0 x []
  | lastingFrame (pa : Nat) (passed : Bool) (h1 : Lasting s (.dram pa) passed) :
      HealthRule s (.selfTest (.dram pa) passed)
        { s with ctl := { s.ctl with
          tests := s.ctl.tests.erase (.dram pa)
          framesOut := (pa / 65536 :: Config.rowFrames pa).foldl (fun xs f => if f ∈ xs then xs else xs ++ [f]) s.ctl.framesOut } }
        4 1 0 pa []
  | lastingWay (stack slice way pa : Nat) (passed : Bool) (h1 : Lasting s (.sram stack slice way pa) passed) (h3 : (slice, way) ∉ (s.stack stack).waysOut) (u : State)
      (h4 : u = testedAt s (.sram stack slice way pa)) :
      HealthRule s (.selfTest (.sram stack slice way pa) passed)
        (u.setStack stack { u.stack stack with
          waysOut := (s.stack stack).waysOut ++ [(slice, way)]
          tier := (u.stack stack).tier.filter fun e => !(e.1 % 16 == way && e.1 / (16 * 8192) == slice) })
        4 2 0 (stack * 2 ^ 16 + slice * 2 ^ 8 + way) []
  | lastingBank (core b : Nat) (p : EccPlace) (passed : Bool) (hp : BankPlace core p b) (h1 : Lasting s p passed)
      (h : b ∉ (s.core core).banksOut) (h2 : (s.core core).banksDue = [] ∧ (s.core core).partsDue = []) (h3 : ¬ BankFree s core b)
      (h4 : (s.core core).l1order.length ≤ s.l1Size core * 512) :
      HealthRule s (.selfTest p passed)
        { (s.setCore core { s.core core with banksDue := [b] }) with ctl := { s.ctl with tests := s.ctl.tests.erase p } }
        4 3 0 (core * 2 ^ 8 + b) []
  | bankGone (core b : Nat) (p : EccPlace) (passed : Bool) (hp : BankPlace core p b) (h1 : Lasting s p passed)
      (h : b ∉ (s.core core).banksOut) (h2 : (s.core core).banksDue = [] ∧ (s.core core).partsDue = []) (h3 : BankFree s core b)
      (h4 : (s.core core).l1order = []) :
      HealthRule s (.selfTest p passed)
        { (s.setCore core { s.core core with banksOut := (s.core core).banksOut ++ [b] }) with
          ctl := { s.ctl with tests := s.ctl.tests.erase p } }
        4 3 0 (core * 2 ^ 8 + b) []
  | lastingPart (core part k reg : Nat) (passed : Bool) (h1 : Lasting s (.regFile core part k reg) passed)
      (h : part ∉ (s.core core).partsOut) (h2 : (s.core core).banksDue = [] ∧ (s.core core).partsDue = []) (h3 : ¬ PartFree s core part)
      (h4 : (s.core core).l1order.length ≤ s.l1Size core * 512) :
      HealthRule s (.selfTest (.regFile core part k reg) passed)
        { (s.setCore core { s.core core with partsDue := [part] }) with
          ctl := { s.ctl with tests := s.ctl.tests.erase (.regFile core part k reg) } }
        4 4 0 (core * 2 ^ 8 + part) []
  | partGone (core part k reg : Nat) (passed : Bool) (h1 : Lasting s (.regFile core part k reg) passed)
      (h : part ∉ (s.core core).partsOut) (h2 : (s.core core).banksDue = [] ∧ (s.core core).partsDue = []) (h3 : PartFree s core part)
      (h4 : (s.core core).l1order.length ≤ s.l1Size core * 512) :
      HealthRule s (.selfTest (.regFile core part k reg) passed)
        { (s.setCore core { s.core core with partsOut := (s.core core).partsOut ++ [part] }) with
          ctl := { s.ctl with tests := s.ctl.tests.erase (.regFile core part k reg) } }
        4 4 0 (core * 2 ^ 8 + part) []
  | knotGone (b : Break) (h : (s.ctl.breaks.find? (·.seq == b.seq)) = some b)
      (h2 : (b.group, b.jset) ∉ s.waiters ∨ s.seqOf (b.group, b.jset) ≠ b.seq) :
      HealthRule s (.knotBreakDeliver b.seq) { s with ctl := { s.ctl with
        breaks := s.ctl.breaks.erase b, abandoned := s.ctl.abandoned + 1 } } 7 7 (s.grp b.group).launch b.seq b.members
  | knotOne (k : List (Nat × Nat)) (h : s.knots = [k]) :
      HealthRule s .waitForWalk { s with ctl := { s.ctl with
        knots := s.ctl.knots + 1
        breaks := s.ctl.breaks ++ [{ seq := s.seqOf (s.youngest k), group := (s.youngest k).1, jset := (s.youngest k).2,
                                     members := k.map s.seqOf }] } }
        5 7 (s.grp (s.youngest k).1).launch (s.seqOf (s.youngest k)) (k.map s.seqOf)

/-! ## The breaking of a knot (R192, R196, R204, R212, R318, R470) -/

/-- TINFO[15:8] of a broken wait. -/
def breakCode : Wait → Byte
  | .palette => 1 | .queue _ => 2 | .barrier _ => 3 | .regang => 4 | .token _ => 5 | _ => 6

/-- The agent of a knot break still waits as it did when it was chosen. -/
def StillWaits (s : State) (b : Break) (w : Wait) : Prop :=
  (b.group, b.jset) ∈ s.waiters ∧ s.seqOf (b.group, b.jset) = b.seq ∧ s.waitOf (b.group, b.jset) = some w

/-- A set other than a broken agent's waits in a GLZLEAVE of the same group. -/
def LeavesToo (s : State) (b : Break) : Prop :=
  let g := s.grp b.group
  ∃ j ∈ g.sets, j ≠ b.jset ∧ ∃ r, (g.strand ((g.members j).headD 0)).wait = some (.glzRound r true)

/-- A knot break delivered to an agent that still waits: its strands take trap 0x32 with the code of the wait, the arrivals they made
for it are pending no longer, a claim is withdrawn, a GLZLEAVE asks to leave no longer, and the break is done with. The group still
leaves if another set's GLZLEAVE waits, and a broken GLZBAR changes nothing of it. A withdrawn claim serves those behind it, which
may touch other groups of its partition. -/
def BreakTaken (s u : State) (b : Break) (w : Wait) : Prop :=
  let g := s.grp b.group
  let h := u.grp b.group
  let handler := (s.launch g.launch).lrec.handler
  let x : Trap := { cause := 0x32, detail := breakCode w }
  u.ctl = { s.ctl with breaks := s.ctl.breaks.erase b } ∧
  (∀ k, if k ∈ g.members b.jset then
      Entered (g.strand k) (h.strand k) x handler ∧ ∀ n, n < 16 → ((h.strand k).barPend.getLsbD n = true ↔
        (g.strand k).barPend.getLsbD n = true ∧ ¬ ((∃ m, w = .barrier m) ∧ (g.strand k).barMark = some n))
    else w ≠ .palette → h.strand k = g.strand k) ∧
  (w = .palette → ∀ c ∈ (u.core g.core).claims, ¬ (c.group = b.group ∧ c.jset = b.jset)) ∧
  (w ≠ .palette →
    { u with groups := s.groups, ctl := s.ctl } = s ∧ (∀ k, k ≠ b.group → tfind u.groups k = tfind s.groups k) ∧
    { h with strands := g.strands, glz := g.glz } = g ∧
    { h.glz with leaving := g.glz.leaving } = g.glz ∧
    ((∃ r, w = .glzRound r true) → (h.glz.leaving = true ↔ LeavesToo s b)) ∧
    ((∀ r, w ≠ .glzRound r true) → h.glz = g.glz))

end Sys2Proof.Safety
end

