-- ==== Sys2Proof/Claims/Launches.lean ====
section
/-!
DEFINITION. The rules of launches and teams, as claims state them: records, hand-out, admission, saves, endings and the
driver's commands.
-/
namespace Sys2Proof.Safety
open Sys2Proof.Machine

/-! ## Memory as the dispatcher sees it -/

/-- A byte with every store under way performed: some core's latest buffered store of it, or what its home gives. -/
def Flushed (s : State) (a : Nat) (x : Byte) : Prop :=
  (∃ c y, lastOf a (s.core c).cells = some y ∧ x = y) ∨ ((∀ c, lastOf a (s.core c).cells = none) ∧ x = s.home a)

/-- n bytes at home became those of a function of their place, every other byte as before. -/
def Wrote (s t : State) (a n : Nat) (f : Nat → Byte) : Prop :=
  ∀ x, t.home x = if a ≤ x ∧ x < a + n then f (x - a) else s.home x

/-- A state but for memory and what its performing points keep of it. -/
def sameButMem (s t : State) : State :=
  { t with mem := s.mem, poison := s.poison, stackTab := s.stackTab, edge := s.edge }

/-- Byte o of a fault record (R373). -/
def faultByte (f : FaultRec) (o : Nat) : Byte :=
  if o = 0 then f.kind else if o = 1 then f.cause else if o < 4 then valByte f.detail.toNat (o - 2)
  else if o < 8 then valByte f.count.toNat (o - 4) else if o < 12 then valByte f.launch (o - 8)
  else if o < 16 then valByte f.team (o - 12) else if o < 18 then valByte f.group (o - 16)
  else if o = 18 then valByte f.strand 0 else if o = 19 then valByte f.core 0
  else if o < 24 then valByte f.tinfo.toNat (o - 20) else if o < 32 then valByte f.tpc.toNat (o - 24)
  else if o < 40 then valByte f.taddr.toNat (o - 32) else if o < 48 then valByte f.seq.toNat (o - 40) else 0

/-! ## Records (R353-R359, R444) -/

/-- The next pending record of a queue, as its ring holds it. -/
def nextRecord (s : State) (q : Nat) : Rec :=
  let x := s.queue q
  parseRec fun o k => s.homeN (x.base.toNat + 256 * ((x.cons + 1).toNat % 2 ^ x.size) + o) k

/-- Slot 1 of an entry line: the header of its line can be fetched and has bits 0 and 1 set (R82). -/
def EntryLine (s : State) (asid t : Nat) : Prop :=
  t % 128 = 4 ∧ s.devFail asid (t - 4) .fetch = none ∧ s.devN asid (t - 4) 4 % 4 = 3

/-- A format slot word that R62 and R63 allow. -/
def SlotWordOk (w : Nat) : Prop :=
  let kind := w % 16
  let mb := w / 16 % 16
  let scale := w / 256 % 4
  w < 1024 ∧ kind < 10 ∧ scale < 3 ∧ (if kind = 5 then 2 ≤ mb ∧ mb ≤ 8 else mb = 0) ∧ ¬ (scale = 1 ∧ 5 ≤ kind ∧ kind ≤ 8)

/-- Groups of a team that an empty core, or pair, has room for: 16 to a partition and 128 palette units (R183, R185). -/
def roomFor (cores base width : Nat) : Nat := 4 * cores * min 16 (128 / (base / 16 * (width / 16)))

/-- Bytes at an address that the dispatcher may read through a record's ASID. -/
def Readable (s : State) (asid va n : Nat) : Prop := ∀ a ∈ pageStarts va n, s.devFail asid a .read = none

/-- An address of a record is 0 or translates for an access (R357). -/
def Maps (s : State) (r : Rec) (a : Nat) (acc : Acc) : Prop := a = 0 ∨ s.devCheck r.asid a acc = none

/-- A segment map and its resident table as R401 and R404 to R406 ask for them. -/
def MapOk (s : State) (r : Rec) : Prop :=
  let m := r.segmap
  let rd (va n : Nat) : Nat := s.devN r.asid va n
  let n := rd (m + 8) 4
  let entry (i : Nat) : Nat := rd (m + 0x40 + 8 * i) 8
  let tab := rd (m + 0x10) 8
  m ≠ 0 ∧ m % 64 = 0 ∧ Readable s r.asid m 0x40 ∧ rd m 8 % 65536 = 0 ∧ 1 ≤ n ∧ n ≤ 128 ∧ rd (m + 0x0C) 4 = 0 ∧
  rd (m + 0x18) 40 = 0 ∧ Readable s r.asid m (0x40 + 8 * n) ∧ (∀ i, i < n → entry i < 2 ^ 33) ∧
  ((List.range n).flatMap fun i => (holdersOf (entry i)).map (·.2)).Nodup ∧
  (tab ≠ 0 → Readable s r.asid tab (16 * n) ∧ ∀ i, i < n →
    rd (tab + 16 * i + 12) 4 = 0 ∧ rd (tab + 16 * i + 8) 4 % 128 = 0 ∧ rd (tab + 16 * i + 8) 4 ≤ (r.scratch + 127) / 128 * 128)

/-- The fields of a launch record that fail their checks, by offset, but for the tests of the ASID and of a traveller's entry segment
(R31, R34, R63, R82, R185, R197, R255, R297, R357, R401). -/
inductive FieldFails (s : State) (r : Rec) : Nat → Prop where
  | entry (h : ¬ EntryLine s r.asid r.entry.toNat) : FieldFails s r 0x00
  | teamsX (h : ¬ (1 ≤ r.teamsX ∧ r.teamsX ≤ 2 ^ 24)) : FieldFails s r 0x10
  | teamsY (h : ¬ (1 ≤ r.teamsY ∧ r.teamsY ≤ 2 ^ 24 ∧ r.teamsX * r.teamsY ≤ 2 ^ 32 - 1)) : FieldFails s r 0x14
  | groups (h : ¬ (1 ≤ r.groups ∧ r.groups ≤ 32)) : FieldFails s r 0x18
  | width (h : 2 < r.widthCode ∨ (r.flags.getLsbD 0 = true ∧ r.widthCode ≠ 0)) : FieldFails s r 0x1A
  | flags (h : 16 ≤ r.flags.toNat ∨ (r.flags.getLsbD 0 = true ∧ (r.flags.getLsbD 1 = true ∨ r.flags.getLsbD 2 = true))) : FieldFails s r 0x1B
  | base (h : ¬ (16 ≤ r.base ∧ r.base ≤ 176 ∧ r.base % 16 = 0) ∨ (r.flags.getLsbD 0 = true ∧ 64 < r.base) ∨
      (r.flags.getLsbD 0 = false ∧ roomFor (if r.flags.getLsbD 1 then 2 else 1) r.base (16 * 2 ^ r.widthCode) < r.groups)) : FieldFails s r 0x1C
  | ceil (h : ¬ (r.base ≤ r.ceil ∧ r.ceil ≤ 176 ∧ r.ceil % 16 = 0) ∨ (r.flags.getLsbD 0 = true ∧ r.ceil ≠ r.base)) : FieldFails s r 0x1E
  | scratch (h : 458752 < r.scratch) : FieldFails s r 0x20
  | mode (h : ¬ (mType r.mode < 12 ∧ mRound r.mode < 6 ∧ mScope r.mode < 5 ∧ r.mode.toNat / 2 ^ 20 = 0)) : FieldFails s r 0x25
  | prec (h : ¬ (8 ≤ r.prec.toNat ∧ r.prec.toNat ≤ 237)) : FieldFails s r 0x28
  | accRows (h : 16 < r.accRows) : FieldFails s r 0x29
  | slot (k : Nat) (w : Half) (h : r.slots[k]? = some w) (h1 : ¬ SlotWordOk w.toNat) : FieldFails s r (0x30 + 2 * k)
  | fbase (h : r.flags.getLsbD 0 = false) (h1 : ¬ (r.fbase % 65536 = 0 ∧ r.fbase < 2 ^ 57)) : FieldFails s r 0x40
  | fstride (h : r.flags.getLsbD 0 = false) (h1 : r.fstride % 65536 ≠ 0) : FieldFails s r 0x48
  | fcount (h : r.flags.getLsbD 0 = false) (h1 : 65536 < r.fcount) : FieldFails s r 0x50
  | wait (i : Nat) (w : Nat × DWord) (h : r.waits[i]? = some w) (h1 : w.1 % 8 ≠ 0 ∨ ¬ Maps s r w.1 .read) : FieldFails s r (0x60 + 16 * i)
  | semaphore (h : r.semAddr % 8 ≠ 0 ∨ ¬ Maps s r r.semAddr .write) : FieldFails s r 0xA0
  | map (h : if r.flags.getLsbD 0 then ¬ MapOk s r else r.segmap ≠ 0) : FieldFails s r 0xB0
  | budget (h : if r.flags.getLsbD 0 then ¬ (r.teamsX * r.teamsY * r.groups * 4 ≤ r.budget ∧ r.budget ≤ 2 ^ 20) else r.budget ≠ 0) :
      FieldFails s r 0xB8
  | pool (h : if r.flags.getLsbD 0 then r.pool = 0 ∨ r.pool % 4096 ≠ 0 else r.pool ≠ 0) : FieldFails s r 0xC0
  | chain (h : r.flags.getLsbD 2 = true) (h1 : ¬ (1 ≤ r.chainLen ∧ r.chainLen ≤ 128)) : FieldFails s r 0xCA
  | handler (h : r.handler ≠ 0) (h1 : ¬ EntryLine s r.asid r.handler.toNat) : FieldFails s r 0xD8
  | save (h : r.save % 4096 ≠ 0) : FieldFails s r 0xE0
  | fault (h : r.fault % 64 ≠ 0 ∨ ¬ Maps s r r.fault .write) : FieldFails s r 0xE8
  | reserved (o x : Nat) (h : (o, x) ∈ [(0x2A, r.res2a), (0x54, r.res54), (0x5A, r.res5a), (0xBC, r.resbc), (0xCC, r.rescc), (0xF0, r.resf0)])
      (h1 : x ≠ 0) : FieldFails s r o

/-- The entry PC of a travel record lies in a segment that has a holder (R401). -/
def EntryHeld (s : State) (r : Rec) : Prop :=
  let base := s.devN r.asid r.segmap 8
  base ≤ r.entry.toNat ∧ (r.entry.toNat - base) / 65536 < s.devN r.asid (r.segmap + 8) 4 ∧
  holdersOf (s.devN r.asid (r.segmap + 0x40 + 8 * ((r.entry.toNat - base) / 65536)) 8) ≠ []

/-- The offset at which a record fails: 0x58 where its ASID's entry is not valid, else the lowest field that fails, else 0x00 for a
travel record whose entry lies in no segment with a holder (R358). -/
inductive RecordFails (s : State) (r : Rec) : Nat → Prop where
  | asid (h : (tget {} s.asids r.asid).flags % 2 = 0) : RecordFails s r 0x58
  | field (o : Nat) (h : (tget {} s.asids r.asid).flags % 2 = 1) (h1 : FieldFails s r o) (h2 : ∀ p, p < o → ¬ FieldFails s r p) :
      RecordFails s r o
  | travel (h : (tget {} s.asids r.asid).flags % 2 = 1) (h1 : ∀ p, ¬ FieldFails s r p) (h2 : r.flags.getLsbD 0 = true)
      (h3 : ¬ EntryHeld s r) : RecordFails s r 0x00

/-- The next record of a queue can be read: its bytes have storage, or a window that answers (R321, R450, log 21, log 113). -/
def RecordThere (s : State) (q : Nat) : Prop :=
  let a := (s.queue q).base.toNat + 256 * (((s.queue q).cons + 1).toNat % 2 ^ (s.queue q).size)
  s.physFail a = none ∧ s.physFail (a + 128) = none

/-- The ASID entries once the device has read that of a record's: while an unfinished launch uses the ASID, as they are (R374, log
22). -/
def withAsid (s : State) (asid : Nat) : State :=
  if s.launches.any fun e => e.2.lrec.asid == asid && !e.2.finished then s
  else { s with asids := tset s.asids asid (s.readAsid asid) }

/-- A wait of a record reads as satisfied: unused, or its word is at least its target (R359). -/
def WaitMet (s : State) (asid : Nat) (w : Nat × DWord) : Prop :=
  w.1 = 0 ∨ (s.devFail asid w.1 .read = none ∧ s.poisoned (s.devPa asid w.1 / 128) = false ∧
    w.2.toNat ≤ s.devN asid w.1 8)

/-- The waits of a head seen satisfied: those seen before and those met now. -/
def SeesWaits (s : State) (h : Head) (seen : List Nat) : Prop :=
  ∀ i, i ∈ seen ↔ i ∈ h.seen ∨ ∃ w, h.lrec.waits[i]? = some w ∧ WaitMet s h.lrec.asid w

/-- Reading the next pending record of a queue that may read it, each case with the state it leaves (R358, R444). -/
inductive RecordRule (s : State) (q : Nat) : State → Prop where
  | again (h : (nextRecord s q).seq ≠ (s.queue q).cons + 1) (h2 : (s.queue q).reread < 4) :
      RecordRule s q (s.setQueue q { s.queue q with reread := (s.queue q).reread + 1 })
  | torn (h : (nextRecord s q).seq ≠ (s.queue q).cons + 1) (h2 : 4 ≤ (s.queue q).reread) :
      RecordRule s q (s.setQueue q { s.queue q with
        cons := (s.queue q).cons + 1, reread := 0, stopped := some 3
        endings := (s.queue q).endings ++ [{ status := 3, seq := (s.queue q).cons + 1 }] })
  | head (r : Rec) (seen : List Nat) (u : State) (h0 : nextRecord s q = r) (h : r.seq = (s.queue q).cons + 1)
      (h1 : u = withAsid s r.asid) (h2 : ∀ o, ¬ RecordFails u r o)
      (h3 : SeesWaits u { lrec := r, priority := (s.queue q).priority, seq := r.seq } seen) :
      RecordRule s q (u.setQueue q { s.queue q with
        cons := r.seq, reread := 0, head := some { lrec := r, priority := (s.queue q).priority, seq := r.seq, seen := seen } })
  | fails (r : Rec) (o : Nat) (u : State) (h0 : nextRecord s q = r) (h : r.seq = (s.queue q).cons + 1)
      (h1 : u = withAsid s r.asid) (h2 : RecordFails u r o) (h3 : r.fault = 0) :
      RecordRule s q (u.setQueue q { s.queue q with
        cons := r.seq, reread := 0, stopped := some 1
        endings := (s.queue q).endings ++
          [{ status := 1, seq := r.seq, fault := { kind := 2, detail := BitVec.ofNat 16 o, seq := r.seq } }] })

/-- A queue's choice: of the highest priority, and after the last one served of that priority where such a one is ready
(R361, R362). -/
def Chosen (ready : Nat → Prop) (prio : Nat → Nat) (last : Option Nat) (q : Nat) : Prop :=
  ready q ∧ (∀ p, ready p → prio p ≤ prio q) ∧
  match last with
  | some x => ∀ p, ready p → prio p = prio q → x < p → x < q ∧ q ≤ p
  | none => True

/-- At a kernel's start every core drops its L1, its handle entries and its published signatures (R341, R399). -/
def Fresh (s t : State) : Prop :=
  ∀ c, (t.core c).l1 = [] ∧ (t.core c).psig = 0 ∧ (t.core c).handles = [] ∧
    { t.core c with l1 := (s.core c).l1, l1order := (s.core c).l1order, l1poison := (s.core c).l1poison, l1key := (s.core c).l1key
                    psig := (s.core c).psig, handles := (s.core c).handles } = s.core c

/-! ## Hand-out and admission (R40, R182-R185, R342, R362-R365) -/

/-- A launch whose teams may be handed out, and one with a team left. -/
def MayHandOut (s : State) (id : Nat) : Prop :=
  ∃ l, tfind s.launches id = some l ∧ l.travel = false ∧ l.stop = none ∧ l.draining = false ∧ l.finished = false
def HandsOut (s : State) (id : Nat) : Prop :=
  MayHandOut s id ∧ ((s.launch id).unplaced ≠ [] ∨ (s.launch id).next < (s.launch id).lrec.teamsX * (s.launch id).lrec.teamsY)

/-- The team that is handed out next: the one whose hand-out paused, else the lowest left of the launch whose queue had the highest
priority at its consumption, in turn among equals (R355, R362, R365, R369). -/
def NextOut (s : State) (id i : Nat) : Prop :=
  let prio (id : Nat) : Nat := (s.launch id).priority
  (s.ctl.paused = some (id, i) ∧ MayHandOut s id) ∨
  ((∀ e, s.ctl.paused = some e → ¬ MayHandOut s e.1) ∧ Chosen (HandsOut s) prio (tfind s.ctl.rrLaunch (prio id)) id ∧
    if (s.launch id).unplaced = [] then i = (s.launch id).next
    else i ∈ (s.launch id).unplaced ∧ ∀ j ∈ (s.launch id).unplaced, i ≤ j)

/-- The home of a team from the nodes of its footprint pages: the stack with most of them, of equals the one of the
earliest page; without one, i mod 8 as a fallback (R364). -/
def HomeOf (i : Nat) (pages : List Nat) (p : Place) : Prop :=
  (p.fall = true ∧ (∀ e ∈ pages, 8 ≤ e) ∧ p.home = i % 8 ∧ p.owned = 0) ∨
  (p.fall = false ∧ p.home < 8 ∧ p.owned = pages.count p.home ∧ 0 < p.owned ∧ (∀ k, k < 8 → pages.count k ≤ p.owned) ∧
    ∀ k, k < 8 → pages.count k = p.owned → pages.idxOf p.home ≤ pages.idxOf k)

/-- The stack a team goes to: its home with room, else the nearest on the ring with room, the lower of a tie (R365). -/
def NearestRoom (s : State) (home k : Nat) : Prop :=
  k < 8 ∧ (s.stack k).room = true ∧
  ∀ j, j < 8 → (s.stack j).room = true → ringDist home k < ringDist home j ∨ (ringDist home k = ringDist home j ∧ k ≤ j)

/-- The head that a stack's dispatcher serves: new or saved, the first queued of its priority whose launch neither drains nor stops, and
of the highest priority that has such a head with a place (R342). -/
def ServedNext (s : State) (k : Nat) (o : Offer) : Prop :=
  let live (o : Offer) : Prop := o ∈ (s.stack k).offers ∧ (s.launch o.launch).draining = false ∧ (s.launch o.launch).stop = none
  let prio (o : Offer) : Nat := (s.launch o.launch).lrec.priority
  let head (o : Offer) : Prop := live o ∧ prio o < 256 ∧ ∃ before after, (s.stack k).offers = before ++ o :: after ∧
    ∀ x ∈ before, live x → prio x ≠ prio o
  head o ∧ ∀ x, head x → prio o < prio x → s.placeFor k x = none

/-- What a place for a team on a core must give it: a free team slot, a free extent of local memory, a free run of
accumulator rows, and for every group a free group slot of a partition in use, an unbound unit of its own beside it where it holds a
rank (R182, R183, R225, R255, R317, R464). -/
def PlanFits (s : State) (l : Launch) (core : Nat) (units : List (Nat × Bool)) (p : Plan) : Prop :=
  p.slot < 64 ∧ (∀ t ∈ s.teams, t.2.core = core → t.2.slot ≠ p.slot) ∧
  (l.bytes ≠ 0 → p.base + l.bytes ≤ 458752 ∧ ∀ t ∈ s.teams, t.2.core = core → t.2.size ≠ 0 →
    p.base + l.bytes ≤ t.2.base ∨ t.2.base + t.2.size ≤ p.base) ∧
  (l.rows ≠ 0 → p.accFirst % 16 = 0 ∧ p.accFirst + l.rows ≤ 256 ∧ ∀ t ∈ s.teams, t.2.core = core → t.2.accRows ≠ 0 →
    p.accFirst + l.rows ≤ t.2.accFirst ∨ t.2.accFirst + t.2.accRows ≤ p.accFirst) ∧
  p.spots.map (fun x => (x.units, x.ranked)) = units ∧
  ∀ x ∈ p.spots, x.core = core ∧ x.part < 4 ∧ x.slot < 16 ∧ x.part ∉ (s.core core).partsOut ∧
    (∀ e ∈ s.groups, e.2.core = core → e.2.part = x.part → e.2.trav = none → e.2.slot ≠ x.slot) ∧
    (∀ h, (s.core core).holder = some h → x.slot ∉ h.carriers.getD x.part []) ∧
    p.spots.countP (fun y => y.part == x.part && y.slot == x.slot) = 1 ∧
    (x.ranked = true → (s.core core).glz = none ∧ p.spots.countP (·.ranked) = 1)

/-- The state R40 gives group g of team i at its start. -/
def Starts (l : Launch) (i g : Nat) (x : Group) : Prop :=
  let r := l.lrec
  x.width = 16 * 2 ^ r.widthCode ∧ x.held = r.base ∧ x.team = i ∧ x.index = g ∧
  x.sr 0 = r.arg ∧ x.sr 1 = BitVec.ofNat 64 i ∧ x.sr 2 = BitVec.ofNat 64 (i % r.teamsX) ∧
  x.sr 3 = BitVec.ofNat 64 (i / r.teamsX) ∧ x.sr 4 = BitVec.ofNat 64 g ∧ x.sr 5 = BitVec.ofNat 64 r.groups ∧
  (∀ k, 6 ≤ k → x.sr k = 0) ∧
  (∀ n ln, ln < 64 → x.vr n ln = if n = 0 ∧ ln < x.width then BitVec.ofNat 32 ln else 0) ∧
  (∀ k ln, x.pr k ln = decide (k = 0 ∧ ln < x.width)) ∧
  x.strands.length = x.width / 4 ∧
  ∀ y ∈ x.strands, y.pc = r.entry ∧ y.mode = r.mode ∧ y.prec = r.prec ∧ y.lk = 0 ∧ y.loops = [] ∧ y.amask = 0xF ∧
    y.stack = [] ∧ y.ended = false ∧ y.handler = false ∧ y.jset = 0 ∧ (∀ k, k < 64 → y.live.getLsbD k = decide (k < r.base))

/-! ## Saves and endings (R215-R219, R366, R367, R371) -/

/-- A group of a team. -/
def OfTeam (g : Group) (launch team : Nat) : Prop := g.launch = launch ∧ g.team = team ∧ g.trav = none

/-- A group's context as a save keeps it and a restore gives it back: everything but its place, its signatures and the
marks of the save and the restore (R215, R219, R400). -/
def contextOf (g : Group) : Group :=
  { g with core := 0, part := 0, slot := 0, wsig1 := 0, wsig2 := 0, wsig3 := 0, saving := false, restoring := false, lastIssue := 0, fifo := []
           strands := g.strands.map fun (x : Strand) => { x with readyAt := (0, 0) } }

/-- Nothing of a launch is left. -/
def Gone (t : State) (id : Nat) : Prop :=
  tfind t.launches id = none ∧ (∀ e ∈ t.groups, e.2.launch ≠ id) ∧ (∀ e ∈ t.teams, e.2.launch ≠ id) ∧
  (∀ v ∈ t.saved, v.team.launch ≠ id) ∧ (∀ p ∈ t.packets, p.launch ≠ id) ∧
  (∀ k, ∀ o ∈ (t.stack k).offers, o.launch ≠ id) ∧ ∀ k, ∀ e ∈ (t.stack k).tier, e.2.pin ≠ some id

/-- Every strand of a launch stands at an instruction boundary, and nothing it issued is outstanding (R367). -/
def AtBoundary (s : State) (id : Nat) : Prop :=
  ∀ e ∈ s.groups, e.2.launch = id → (∀ x ∈ e.2.strands, x.begun = none) ∧ ∀ r ∈ s.loads, r.group ≠ e.1

/-- Nothing of a launch waits in an engine or for the outside. -/
def EnginesIdle (s : State) (id : Nat) : Prop :=
  (∀ c ∈ s.cores, (∀ x ∈ c.2.copies, x.launch ≠ id) ∧ ∀ m ∈ c.2.mats, m.launch ≠ id) ∧ ∀ r ∈ s.remotes, r.launch ≠ id

/-- What a stopping launch has begun has run out: it has come to an instruction boundary, its engines are idle, and a change of ways that one of its groups makes has
nothing left to wait for (R329, R367). -/
def RunOut (s : State) (id : Nat) : Prop :=
  AtBoundary s id ∧ EnginesIdle s id ∧
  ∀ k ∈ s.stackTab, ∀ r, k.2.repart = some r → (s.grp r.group).launch = id → RepartOver s k.1 r.lo r.hi

/-- No change of ways of a launch's groups is in progress. -/
def NoReparts (s : State) (id : Nat) : Prop :=
  ∀ k ∈ s.stackTab, ∀ r, k.2.repart = some r → (s.grp r.group).launch ≠ id

/-- A resident team of a launch on a core, and the cycle of the latest issue of its groups. -/
def TeamOn (s : State) (core launch i : Nat) : Prop :=
  ∃ e ∈ s.teams, e.2.launch = launch ∧ e.2.index = i ∧ (e.2.core = core ∨ (e.2.pair = true ∧ e.2.core + 1 = core))
def LastIssue (s : State) (launch i n : Nat) : Prop :=
  (∀ e ∈ s.groups, OfTeam e.2 launch i → e.2.lastIssue ≤ n) ∧
  (n = 0 ∨ ∃ e ∈ s.groups, OfTeam e.2 launch i ∧ e.2.lastIssue = n)

/-- The resident team of a launch on a core whose latest issue is the earliest, the lowest index of a tie (R217). -/
def IdlestTeam (s : State) (core launch i : Nat) : Prop :=
  TeamOn s core launch i ∧ ∀ j n m, TeamOn s core launch j → LastIssue s launch i n → LastIssue s launch j m →
    n < m ∨ (n = m ∧ i ≤ j)

/-- A launch that a forward-progress swap of a core may serve: one with a waiting head at its stack, a save area and a resident
team, that has had no swap for this count; and its N (R217). -/
def SwapWaits (s : State) (core id : Nat) : Prop :=
  (∃ o ∈ s.heads (core / 16), o.launch = id) ∧ (s.launch id).travel = false ∧ (s.launch id).lrec.save ≠ 0 ∧
  (∃ i, TeamOn s core id i) ∧ id ∉ (s.core core).swapped
def patienceOf (s : State) (id : Nat) : Nat :=
  if (s.launch id).lrec.progress = 0 then 2 ^ 20 else (s.launch id).lrec.progress

/-- Group keys are given once: those in use, resident or saved, are below the next one, and no saved group is resident too. -/
def KeysOnce (s : State) : Prop :=
  (∀ e ∈ s.groups, e.1 < s.nextKey) ∧ ∀ v ∈ s.saved, ∀ e ∈ v.groups, tfind s.groups e.1 = none

/-- Accesses of an ASID are under way that use a translation, or, where handle entries are dropped, an entry, made earlier (R378). -/
def StillUses (s : State) (asid : Nat) (hnd : Bool) : Prop :=
  let uses (launch : Nat) : Prop := (s.launch launch).lrec.asid = asid
  (∃ r ∈ s.loads, uses (s.grp r.group).launch) ∨ (∃ r ∈ s.remotes, r.asid = asid) ∨
  (∃ e ∈ s.groups, uses e.2.launch ∧ ∃ x ∈ e.2.strands, x.begun ≠ none) ∨
  ∃ c ∈ s.cores, (∃ m ∈ c.2.mats, uses m.launch ∧ (m.tilePa ≠ none ∨ m.merge ≠ none)) ∨
    ∃ x ∈ c.2.copies, uses x.launch ∧ (x.sent = true ∨ (hnd = true ∧ x.tile ≠ none))

/-- LSTATE as an LCMD that names a launch leaves it, before the command's own effect (R370). -/
def named (s : State) (id : Nat) : State :=
  { s with ctl := { s.ctl with
    lstateId := BitVec.ofNat 32 id
    lstate := match tfind s.launches id with | some l => if l.finished then 5 else l.lst | none => 5 } }

/-- A launch that an LCMD acts on. -/
def Commanded (s : State) (id : Nat) (l : Launch) : Prop := tfind s.launches id = some l ∧ l.finished = false

end Sys2Proof.Safety
end

