-- ==== Sys2Proof/Claims/Governor.lean ====
section
/-!
DEFINITION. The rules of the governor and the power limit, as claims state them, in exact arithmetic.
-/
namespace Sys2Proof.Safety
open Sys2Proof.Machine

/-- Issue cycles per 20 of a throttle state, and its DRAM ceiling (R344). -/
def issuesPer20 (T : Nat) : Rat := ([20, 20, 17, 14, 14, 11, 8].getD T 2 : Nat)
def ceilingOf (T : Nat) : Rat := if T = 0 then 85 else if T ≤ 3 then 95 else 105

/-- The activity of a state when of `avail` issue cycles `idle` were spent waiting for memory (R345). -/
def activity (idle avail T : Nat) : Rat := issuesPer20 T / 20 * (1 - (idle : Rat) / avail)

/-- A state from T0 to T6 is safe with its margins widened by some degrees (R345). -/
def SafeAt (td tb g : Int) (idle avail cur T : Nat) (more : Rat) : Prop :=
  let da := activity idle avail T - activity idle avail cur
  (td : Rat) + 24 * da < ceilingOf T - (2 + (g : Rat) / 2) - more ∧ (tb : Rat) + 40 * da < 110 - (2 - (g : Rat) / 2) - more

/-- The state the governor chooses (R346). `calm` says for each state in how many of the last periods in a row, at most
8, it was safe with 3 °C more. -/
inductive Governs (td tb g : Int) (idle avail cur : Nat) (calm : Nat → Nat) : Nat → Prop where
  | emergency (h : 105 ≤ td ∨ 115 ≤ tb) : Governs td tb g idle avail cur calm 7
  | stays7 (h : td < 105) (h2 : tb < 115) (h3 : cur = 7) (h4 : 100 < td ∨ 110 < tb) : Governs td tb g idle avail cur calm 7
  | leaves7 (h3 : cur = 7) (h4 : td ≤ 100) (h5 : tb ≤ 110) : Governs td tb g idle avail cur calm 6
  | up (T : Nat) (h : td < 105) (h2 : tb < 115) (h3 : cur < 7) (h4 : ¬ SafeAt td tb g idle avail cur cur 0) (h5 : cur < T) (h6 : T < 7)
      (h7 : SafeAt td tb g idle avail cur T 0) (h8 : ∀ U, cur < U → U < T → ¬ SafeAt td tb g idle avail cur U 0) :
      Governs td tb g idle avail cur calm T
  | noneSafe (h : td < 105) (h2 : tb < 115) (h3 : cur < 7) (h4 : ¬ SafeAt td tb g idle avail cur cur 0)
      (h5 : ∀ U, cur < U → U < 7 → ¬ SafeAt td tb g idle avail cur U 0) : Governs td tb g idle avail cur calm 6
  | down (h : td < 105) (h2 : tb < 115) (h3 : cur < 7) (h4 : SafeAt td tb g idle avail cur cur 0) (h5 : 0 < cur)
      (h6 : calm (cur - 1) = 8) : Governs td tb g idle avail cur calm (cur - 1)
  | stay (h : td < 105) (h2 : tb < 115) (h3 : cur < 7) (h4 : SafeAt td tb g idle avail cur cur 0)
      (h5 : cur = 0 ∨ calm (cur - 1) < 8) : Governs td tb g idle avail cur calm cur

/-- Every stack is in the higher of its governor's state and a floor, each change taken and counted by its cores (R346,
R348, R472). -/
def FloorTaken (s t : State) (floor : Nat) : Prop :=
  (∀ k, k < 8 → t.stack k = { s.stack k with throt := max (s.stack k).gov floor }) ∧
  ∀ c, c < 128 → t.core c =
    if (s.stack (c / 16)).throt = max (s.stack (c / 16)).gov floor then s.core c
    else { s.core c with
      throtPrev := (s.core c).throt, throt := max (s.stack (c / 16)).gov floor, throtCount := (s.core c).throtCount + 1 }

end Sys2Proof.Safety
end

