-- ==== Sys2Proof/Claims/Travel.lean ====
section
/-!
DEFINITION. The rules of travel mode, as claims state them: spawning, packets, arrivals, admission, departure and holders.
-/
namespace Sys2Proof.Safety
open Sys2Proof.Machine

/-- Operands of SPAWN of the classes it takes, in a travel launch: its first payload register, its entry address and its payload word. -/
inductive SpawnArgs (s : State) : Reg → Reg → Reg → Nat → DWord → Nat → Prop where
  | mk (k : Fin 176) (i j : Fin 64) (h : s.lau.travel = true) (h1 : s.foreignS i.val = false) (h2 : s.foreignS j.val = false) :
      SpawnArgs s (.v k) (.s i) (.s j) k.val (s.g.sr i.val) (s.g.sr j.val).toNat

/-- A payload of c registers from v[n] on that the group holds. -/
def PayloadHeld (s : State) (n c : Nat) : Prop := c ≤ 64 ∧ n + c ≤ 176 ∧ n + c ≤ s.g.held

/-- The conditions on which SPAWN creates a traveller for every strand of its set (R420). -/
def SpawnOk (s : State) (n : Nat) (t : DWord) (c segment : Nat) : Prop :=
  PayloadHeld s n c ∧ TargetOk s t true ∧ s.segmentOf s.g.core s.lau t = some segment ∧
  holdersOf (s.segEntry s.g.core s.lau segment) ≠ [] ∧ s.lau.aliveNow + s.ks.length ≤ s.lau.lrec.budget

/-- The packet of a new traveller, its id not yet given (R420). -/
def newcomer (s : State) (d : Nat) (t : DWord) (n segment : Nat) : Packet :=
  { launch := s.g.launch, target := t.toNat - s.segBase s.g.core s.lau, segment := segment
    live := BitVec.ofNat 64 (2 ^ n - 1), mode := s.mode, prec := s.lead.prec, pred := 0x01010101
    scalars := (List.range 16).map s.g.sr, core := s.g.core
    regs := (List.range n).map fun r => (r, (List.range 4).map (s.g.vr (d + r))) }

/-- The traps of SPAWN, each where nothing before it fails (R21, R81, R420); TADDR of 0x20 holds the entry address, that of 0x21 and 0x22
is 0 (log 107). -/
inductive SpawnTrap (s : State) (d a b : Reg) : Trap → Prop where
  | noTravel (h : s.lau.travel = false) : SpawnTrap s d a b { cause := 0x03 }
  | notV (h : ∀ k, d ≠ .v k) : SpawnTrap s d a b { cause := 0x03 }
  | notS (h : NotScalar s a ∨ NotScalar s b) : SpawnTrap s d a b { cause := 0x03 }
  | payload (n c : Nat) (t : DWord) (h : SpawnArgs s d a b n t c) (h1 : 64 < c) : SpawnTrap s d a b { cause := 0x22, detail := 6 }
  | past (n c : Nat) (t : DWord) (h : SpawnArgs s d a b n t c) (h1 : c ≤ 64) (h2 : 176 < n + c) : SpawnTrap s d a b { cause := 0x03 }
  | notHeld (n c : Nat) (t : DWord) (h : SpawnArgs s d a b n t c) (h1 : c ≤ 64) (h2 : n + c ≤ 176) (h3 : s.g.held < n + c) :
      SpawnTrap s d a b { cause := 0x04 }
  | target (n c : Nat) (t : DWord) (x : Trap) (h : SpawnArgs s d a b n t c) (h1 : PayloadHeld s n c) (h2 : TargetBad s t true x) :
      SpawnTrap s d a b x
  | outside (n c : Nat) (t : DWord) (h : SpawnArgs s d a b n t c) (h1 : PayloadHeld s n c) (h2 : TargetOk s t true)
      (h3 : s.segmentOf s.g.core s.lau t = none) : SpawnTrap s d a b { cause := 0x20, taddr := t, detail := 1 }
  | unheld (n c i : Nat) (t : DWord) (h : SpawnArgs s d a b n t c) (h1 : PayloadHeld s n c) (h2 : TargetOk s t true)
      (h3 : s.segmentOf s.g.core s.lau t = some i) (h4 : holdersOf (s.segEntry s.g.core s.lau i) = []) :
      SpawnTrap s d a b { cause := 0x20, taddr := t, detail := 2 }
  | full (n c i : Nat) (t : DWord) (h : SpawnArgs s d a b n t c) (h1 : PayloadHeld s n c) (h2 : TargetOk s t true)
      (h3 : s.segmentOf s.g.core s.lau t = some i) (h4 : holdersOf (s.segEntry s.g.core s.lau i) ≠ []) (h5 : s.ks ≠ [])
      (h6 : s.lau.lrec.budget < s.lau.aliveNow + s.ks.length) : SpawnTrap s d a b { cause := 0x21 }

/-- A traveller's packet: its context as a departure for an address of a segment packs it (R413). -/
def PacksUp (g : Group) (base segment : Nat) (t : DWord) (p : Packet) : Prop :=
  let x := g.strand 0
  let off (a : DWord) : Word := BitVec.ofNat 32 (a.toNat - base)
  p.launch = g.launch ∧ p.target = t.toNat - base ∧ p.segment = segment ∧ p.live = x.live ∧ p.mode = x.mode ∧ p.prec = x.prec ∧
  (∀ l k, l < 4 → k < 8 → p.pred.getLsbD (8 * l + k) = g.pr k l) ∧ p.fn = g.sfufn ∧
  p.scalars = (List.range 16).map g.sr ∧ p.whole = none ∧
  (p.lk = if x.lk = 0 then 0 else off x.lk ||| 1) ∧
  p.loops = ((List.range 3).filter fun k => (x.loop k).count ≠ 0).map (fun k =>
    (k, (x.loop k).count, off (x.loop k).start, off (x.loop k).stop)) ∧
  p.regs = ((List.range 64).filter fun r => x.live.getLsbD r).map (fun r => (r, (List.range 4).map (g.vr r))) ∧
  ∀ tr, g.trav = some tr → p.id = tr.id ∧ p.hop = (tr.hop + 1) % 2 ^ 16

/-- The holder that a packet goes to: of an entry's holders one with the lowest occupancy last heard, ties by the traveller's hash, in
the order of the entry's fields (R414). -/
def HolderChosen (entry : Nat) (heard : Nat → Nat) (id c : Nat) : Prop :=
  let cores := (holdersOf entry).map (·.2)
  ∃ tied : List Nat, tied.Sublist cores ∧ tied.length = cores.countP (fun x => cores.all fun y => decide (heard x ≤ heard y)) ∧
    (∀ x ∈ tied, ∀ y ∈ cores, heard x ≤ heard y) ∧ tied[id * 0x9E3779B1 % 2 ^ 32 / 2 ^ 30 % tied.length]? = some c

/-- A packet is sent by a core, or by the dispatcher: under way to the holder chosen from what the sender has heard, or in its spill
slot where its segment has none (R405, R414). -/
def Sent (s t : State) (sender : Option Nat) (p : Packet) : Prop :=
  let l := s.launch p.launch
  let entry := match sender with
    | some k => s.readVa k l.lrec.asid (l.lrec.segmap + 0x40 + 8 * p.segment) 8
    | none => s.devN l.lrec.asid (l.lrec.segmap + 0x40 + 8 * p.segment) 8
  let heard (c : Nat) : Nat := match sender with | some k => tget 0 (s.core k).heard c | none => 0
  (∃ c, HolderChosen entry heard p.id c ∧ t.packets = s.packets ++ [{ p with core := c, sender := sender }] ∧ t.launches = s.launches) ∨
  (holdersOf entry = [] ∧ t.packets = s.packets ∧ (t.launch p.launch).spilled = (s.launch p.launch).spilled ++ [p])

/-- The sender of a packet hears a holder's occupancy with its acknowledgement (R414). -/
def Heard (t : State) (p : Packet) (n : Nat) : Prop := ∀ k, p.sender = some k → tget 0 (t.core k).heard p.core = n

/-- A traveller as the dispatcher reads it back from its spill slot: its whole context where that was saved, else its packet (R413, R425,
R426). -/
def InSlot (s : State) (l : Launch) (p q : Packet) : Prop :=
  if p.whole = none then q.launch = p.launch ∧ q.segment = p.segment ∧
    q = p.parse fun o n => s.devN l.lrec.asid (l.lrec.pool + 4096 * p.id + o) n
  else q = p

/-! ## Departures (R403, R411) -/

/-- A code address lies in the image of the issuing set's launch. -/
def InImage (s : State) (x : DWord) : Prop := s.segmentOf s.g.core s.lau x ≠ none

/-- A register that a packet of live registers carries holds an uncorrected error: a v register of them, s0 to s15, or a predicate
(R413, R462). -/
def CarriesBad (g : Group) (live : DWord) : Prop :=
  ∃ e ∈ g.bad, (e < 2 ^ 12 ∧ live.getLsbD (e / 64) = true) ∨ (2 ^ 14 ≤ e ∧ e < 2 ^ 14 + 16) ∨ 2 ^ 15 ≤ e

/-- The segment that the issuing set's core holds. -/
def ownSegment (s : State) : Nat := match (s.core s.g.core).holder with | some h => h.segment | none => 0

/-- The trap of a departure for the address where a strand comes to stand, the first check in order that fails; but for the active
mask and the stack there, the checks look at the state before the instruction (R411). -/
inductive DepartBad (s : State) (y : Strand) : Trap → Prop where
  | outside (h : ¬ InImage s y.pc) : DepartBad s y { cause := 0x20, taddr := y.pc, detail := 1 }
  | unheld (i : Nat) (h : s.segmentOf s.g.core s.lau y.pc = some i) (h1 : holdersOf (s.segEntry s.g.core s.lau i) = []) :
      DepartBad s y { cause := 0x20, taddr := y.pc, detail := 2 }
  | diverged (i : Nat) (h : s.segmentOf s.g.core s.lau y.pc = some i) (h1 : holdersOf (s.segEntry s.g.core s.lau i) ≠ [])
      (h2 : y.amask ≠ 0xF ∨ y.stack ≠ []) : DepartBad s y { cause := 0x22, taddr := y.pc, detail := 1 }
  | live (i : Nat) (h : s.segmentOf s.g.core s.lau y.pc = some i) (h1 : holdersOf (s.segEntry s.g.core s.lau i) ≠ [])
      (h2 : y.amask = 0xF ∧ y.stack = []) (r : Nat) (h3 : r < 64) (h4 : (s.g.strand 0).live.getLsbD r = true) (h5 : s.g.held ≤ r) :
      DepartBad s y { cause := 0x22, taddr := y.pc, detail := 2 }
  | code (i : Nat) (h : s.segmentOf s.g.core s.lau y.pc = some i) (h1 : holdersOf (s.segEntry s.g.core s.lau i) ≠ [])
      (h2 : y.amask = 0xF ∧ y.stack = []) (h3 : ∀ r, r < 64 → (s.g.strand 0).live.getLsbD r = true → r < s.g.held)
      (h4 : ((s.g.strand 0).lk ≠ 0 ∧ ¬ InImage s (s.g.strand 0).lk) ∨ ∃ k, k < 3 ∧ ((s.g.strand 0).loop k).count ≠ 0 ∧
        (¬ InImage s ((s.g.strand 0).loop k).start ∨ ¬ InImage s ((s.g.strand 0).loop k).stop)) :
      DepartBad s y { cause := 0x22, taddr := y.pc, detail := 4 }
  | size (i : Nat) (h : s.segmentOf s.g.core s.lau y.pc = some i) (h1 : holdersOf (s.segEntry s.g.core s.lau i) ≠ [])
      (h2 : y.amask = 0xF ∧ y.stack = []) (h3 : ∀ r, r < 64 → (s.g.strand 0).live.getLsbD r = true → r < s.g.held)
      (h4 : (s.g.strand 0).lk = 0 ∨ InImage s (s.g.strand 0).lk)
      (h5 : ∀ k, k < 3 → ((s.g.strand 0).loop k).count ≠ 0 →
        InImage s ((s.g.strand 0).loop k).start ∧ InImage s ((s.g.strand 0).loop k).stop)
      (h6 : 1184 < 160 + 16 * (List.range 3).countP (fun k => ((s.g.strand 0).loop k).count != 0) +
        16 * (List.range 64).countP fun r => (s.g.strand 0).live.getLsbD r) :
      DepartBad s y { cause := 0x22, taddr := y.pc, detail := 3 }
  | unit (i : Nat) (h : s.segmentOf s.g.core s.lau y.pc = some i) (h1 : holdersOf (s.segEntry s.g.core s.lau i) ≠ [])
      (h2 : y.amask = 0xF ∧ y.stack = []) (h3 : ∀ r, r < 64 → (s.g.strand 0).live.getLsbD r = true → r < s.g.held)
      (h4 : (s.g.strand 0).lk = 0 ∨ InImage s (s.g.strand 0).lk)
      (h5 : ∀ k, k < 3 → ((s.g.strand 0).loop k).count ≠ 0 →
        InImage s ((s.g.strand 0).loop k).start ∧ InImage s ((s.g.strand 0).loop k).stop)
      (h6 : 160 + 16 * (List.range 3).countP (fun k => ((s.g.strand 0).loop k).count != 0) +
        16 * ((List.range 64).countP fun r => (s.g.strand 0).live.getLsbD r) ≤ 1184)
      (l : Nat) (h7 : l < 4) (h8 : s.g.args l ≠ [] ∨ s.g.queued 5 l ≠ []) :
      DepartBad s y { cause := 0x22, taddr := y.pc, detail := 5 }

/-- The start of a traveller's generator in a lane (R417). -/
def seedOf (l : Launch) (p : Packet) (i : Nat) : Word :=
  let v : Word := l.lrec.seq.setWidth 32 ^^^ BitVec.ofNat 32 (p.id * 0x9E3779B1) ^^^ BitVec.ofNat 32 ((p.hop * 4 + i) * 0x85EBCA77)
  if v = 0 then 1 else v

/-- The state an admitted packet gives its traveller (R417). -/
def Unpacks (p : Packet) (l : Launch) (base : Nat) (g : Group) : Prop :=
  let x := g.strand 0
  let addr (w : Word) : DWord := BitVec.ofNat 64 (base + w.toNat)
  g.strands = [x] ∧ g.launch = p.launch ∧ g.width = 4 ∧ g.held = l.lrec.base ∧ g.sfufn = p.fn ∧
  x.pc = BitVec.ofNat 64 (base + p.target) ∧ x.mode = p.mode ∧ x.prec = p.prec ∧ x.live = p.live ∧
  (x.lk = if p.lk = 0 then 0 else BitVec.ofNat 64 ((base + (p.lk &&& 0xFFFFFFFE).toNat) % 2 ^ 57)) ∧ x.amask = 0xF ∧ x.stack = [] ∧
  x.handler = false ∧ x.tcause = 0 ∧ x.tpc = 0 ∧ x.taddr = 0 ∧ x.tinfo = 0 ∧ x.ended = false ∧ x.wait = none ∧
  (∀ i, i < 16 → p.scalars[i]? = some (g.sr i)) ∧ (∀ i, 16 ≤ i → g.sr i = 0) ∧
  (∀ l k, l < 4 → k < 8 → g.pr k l = p.pred.getLsbD (8 * l + k)) ∧
  (∀ e ∈ p.loops, e.1 < 3 → x.loop e.1 = { count := e.2.1, start := addr e.2.2.1, stop := addr e.2.2.2 }) ∧
  (∀ k, (∀ e ∈ p.loops, e.1 ≠ k) → x.loop k = {}) ∧
  (∀ e ∈ p.regs, e.1 < g.held → ∀ ln, ln < 4 → e.2[ln]? = some (g.vr e.1 ln)) ∧
  (∀ r ln, ln < 64 → (∀ e ∈ p.regs, e.1 ≠ r) → g.vr r ln = 0) ∧
  (∀ k, g.token k = {} ∧ g.scale k = 0x3F800000) ∧
  (∀ i, i < 4 → g.gen i = seedOf l p i) ∧
  ∃ tr, g.trav = some tr ∧ tr.id = p.id ∧ tr.hop = p.hop ∧ tr.leaving = none

/-- A packet in the form R413 gives it: sixteen scalars, each loop level and register once, four lanes each. -/
def PacketForm (p : Packet) : Prop :=
  p.scalars.length = 16 ∧ p.whole = none ∧ (p.loops.map (·.1)).Nodup ∧ (∀ e ∈ p.loops, e.1 < 3) ∧
  (p.regs.map (·.1)).Nodup ∧ ∀ e ∈ p.regs, e.1 < 64 ∧ e.2.length = 4

/-- A strand slot of a core's partition that a traveller stands in. -/
abbrev SlotTaken (s : State) (core part slot : Nat) : Prop :=
  ∃ e ∈ s.groups, e.2.core = core ∧ e.2.part = part ∧ e.2.live = true ∧ e.2.trav.map (·.slot) = some slot

/-- The slot that an admission takes: a free one, the lowest of a partition with the most free ones, the lower partition of a tie
(R416). -/
def SlotChosen (s : State) (core part slot : Nat) : Prop :=
  let free (q : Nat) : Nat := (List.range 32).countP fun k => decide (¬ SlotTaken s core q k)
  part < 4 ∧ slot < 32 ∧ ¬ SlotTaken s core part slot ∧ (∀ k, k < slot → SlotTaken s core part k) ∧
  ∀ q, q < 4 → free q < free part ∨ (free q = free part ∧ part ≤ q)

/-! ## Replication and forced saves (R422, R427) -/

/-- A core that a launch's segment map gives segment g, not fixed and held by two cores or more, in a field of the entry. -/
def MayGive (s : State) (l : Launch) (segment c g f : Nat) : Prop :=
  g ≠ segment ∧ g < s.devN l.lrec.asid (l.lrec.segmap + 8) 4 ∧
  let e := s.devN l.lrec.asid (l.lrec.segmap + 0x40 + 8 * g) 8
  e / 2 ^ 32 % 2 = 0 ∧ (f, c) ∈ holdersOf e ∧ 2 ≤ (holdersOf e).length

/-- Arrivals that a core's queue received over the last 100 reports. -/
def arrivalsLately (s : State) (c : Nat) : Nat := match (s.core c).holder with | some h => h.recent.sum | none => 0

/-- The donor of a replication: of the cores that may give up their segment the one with the fewest arrivals of late, the lower of a tie;
with its segment and its field (R422). -/
def DonorIs (s : State) (l : Launch) (segment c g f : Nat) : Prop :=
  MayGive s l segment c g f ∧ ∀ c' g' f', MayGive s l segment c' g' f' →
    arrivalsLately s c < arrivalsLately s c' ∨ (arrivalsLately s c = arrivalsLately s c' ∧ c ≤ c')

/-- A live traveller that is resident on a core and whose departure is not under way (log 119). -/
def ResidentHere (s : State) (core k id last : Nat) : Prop :=
  ∃ g tr, tfind s.groups k = some g ∧ g.core = core ∧ g.live = true ∧ g.trav = some tr ∧ tr.leaving = none ∧ tr.id = id ∧ g.lastIssue = last

/-- The traveller that a forced save takes: the one whose latest issue is the earliest, the lowest id of a tie (R427). -/
def IdlestIs (s : State) (core k : Nat) : Prop :=
  ∃ id last, ResidentHere s core k id last ∧ ∀ k' id' last', ResidentHere s core k' id' last' → last < last' ∨ (last = last' ∧ id ≤ id')

/-- A segment map names each core once (R405). -/
def NamedOnce (s : State) (l : Launch) (segment : Nat) : Prop :=
  ∀ c g f g' f', MayGive s l segment c g f → MayGive s l segment c g' f' → g = g' ∧ f = f'

/-- The lowest field of an entry that holds no core. -/
def FieldFree (e f : Nat) : Prop := f < 4 ∧ e / 2 ^ (8 * f) % 256 < 128 ∧ ∀ j, j < f → 128 ≤ e / 2 ^ (8 * j) % 256

/-- A core's instruction store holds segment i of a launch as its memory stands: the failure of its page's check for fetches and of
its lines, and its 65,536 bytes (R97, R403, R407, log 11). -/
def PinsSegment (s : State) (core : Nat) (l : Launch) (i : Nat) (p : Pinned) : Prop :=
  let va := s.segBase core l + 65536 * i
  let first := s.paOf core l.lrec.asid va / 128 * 128
  p.fault = s.pageCheck core l.lrec.asid va .fetch true ∧
  ∀ o, o < 65536 → tfind p.lost (o / 128) = s.outFail (first + o / 128 * 128) ∧
    lineByte (tget 0 p.lines (o / 128)) (o % 128) = s.homeK (s.keyOf core l.lrec.asid va) (first + o)

/-- The segment of a launch that its map gives a core: the lowest whose entry names it (R406). -/
def NamedFor (s : State) (core : Nat) (l : Launch) (i : Nat) : Prop :=
  let names (j : Nat) : Prop := j < s.segCount core l ∧ ∃ f, (f, core) ∈ holdersOf (s.segEntry core l j)
  names i ∧ ∀ j, j < i → ¬ names j

end Sys2Proof.Safety
end

