-- ==== Sys2Proof/Claims/Steps.lean ====
section
/-!
DEFINITION. What a step does around an instruction, when a wait ends, and the order of the tables, as claims state them.
-/
namespace Sys2Proof.Safety
open Sys2Proof.Machine

/-! ## The end of a wait (R190, R206, R311) -/

/-- Queue q of a lane holds n entries to pop, or has room for one to push (R205, R206, R208). -/
def QueueHas (s : State) (g : Group) (q n l : Nat) : Prop :=
  match q with
  | 0 => g.q0.countP (fun e => e.1 == l) < 8
  | 1 => g.q1.countP (fun e => e.1 == l) < 8
  | 4 => (g.args l).length < 8
  | 6 => ∀ k, s.partner g = some k → ((s.grp k).queued 7 l).length < 16 ∨ (s.grp k).live = false
  | _ => n ≤ (g.queued q l).length

/-- The wait of joined set j of a group is over, as the strand x that stands for the set waits. A wait for queues also ends where a pop
can no more be satisfied: the instruction then traps. -/
def WaitEnded (s : State) (k : Nat) (g : Group) (j : Nat) (x : Strand) : Wait → Prop
  | .barrier n => ∀ i ∈ g.members j, (g.strand i).barPend.getLsbD n = false
  | .queue needs | .glzPop needs =>
    (∀ e ∈ needs, ∀ l ∈ g.activeOf j, QueueHas s g e.1 e.2 l) ∨ s.queueTraps g (g.activeOf j) needs ≠ []
  | .palette => ∀ c ∈ (s.core g.core).claims, ¬ (c.group = k ∧ c.jset = j)
  | .token m => ∀ t, t < 8 → m.getLsbD t = true → (g.token t).state ≠ 1
  | .regang => ∀ i, i < g.strands.length → (g.strand i).ended = true ∨ (g.strand i).arrived = true
  | .matrix => ∀ m ∈ (s.core g.core).mats, m.group = k → ∀ i ∈ m.strands, i ∉ g.members j
  | .matrixRoom n => (s.core g.core).mats.length + n ≤ 64
  | .glzUnit => ∀ b, (s.core g.core).glz = some b → b = k
  | .glzRound r _ => g.glz.round ≠ r ∨ g.glz.left = true
  | .glzCarry => g.glz.carry ≠ none
  | .load => (∀ r ∈ s.loads, r.group = k → r.jset ≠ j ∧ r.fly = none) ∧
      ∀ r ∈ s.remotes, r.group = k → r.jset = j → r.op = .store
  | .acks => ∀ p ∈ s.msgs, ¬ (p.group = k ∧ p.jset = j)
  | .srcfg n =>
    if x.issued = true then ∀ r, (s.stack n).repart = some r → RepartOver s n r.lo r.hi
    else (k, j) ∉ (s.stack n).repartQueue ∨ ((s.stack n).repart = none ∧ (s.stack n).repartQueue.head? = some (k, j))
  | .remoteWrites => ∀ r ∈ s.remotes, r.group = k → r.op = .store → r.jset < copySets → x.snap ≤ r.id
  | .performed => NoFlights s k (g.members j) ∧
      ∀ r ∈ s.remotes, r.group = k → r.op = .store → r.jset < copySets → r.lane / 4 ∉ g.members j ∧ r.lane ≠ 64
  | .engines => (∀ c ∈ (s.core g.core).copies, c.group ≠ k) ∧ ∀ m ∈ (s.core g.core).mats, m.group ≠ k
  | .departure => False

/-- A strand of a group may issue: the group has its units, and stands at no instruction boundary where it is held for a save or its
launch stops (R203, R216, R367). -/
def MayIssue (s : State) (g : Group) (x : Strand) : Prop :=
  g.restoring = false ∧ (x.begun ≠ none ∨ (g.saving = false ∧ (s.launch g.launch).stop = none))

/-! ## One issue of a joined set (R118, R210) -/

/-- A queue trap has taken strand k of the issuing set: it has parted from the set and is in its handler with 0x30 or 0x32, or its
launch has stopped with that. -/
def QueueTook (s t : State) (k : Nat) : Prop :=
  let queue (c : Byte) : Prop := c = 0x30 ∨ c = 0x32
  (t.g.strand k).jset ≠ s.cur.jset ∧
  (((s.g.strand k).handler = false ∧ (t.g.strand k).handler = true ∧ queue (t.g.strand k).tcause) ∨
   (s.lau.stop = none ∧ ∃ f, t.lau.stop = some f ∧ queue f.cause))

/-- Strands of the issuing set have taken a queue trap, and others of it stand at the instruction, which they have yet to execute. -/
def LeftOver (s t : State) : Prop :=
  t.cur = s.cur ∧ t.ks ≠ [] ∧ t.ks.length < s.ks.length ∧ ∃ k ∈ s.ks, QueueTook s t k

/-- What one issue of an instruction comes to: strands that a queue trap of others leaves at it execute it in turn, until none is
left. -/
inductive SameIssue (i : Instr) : State → Host.Outcome State Fault Refusal → Prop where
  | last (s : State) (h : ∀ t, exec i s = .next t → ¬ LeftOver s t) : SameIssue i s (exec i s)
  | more (s t : State) (o : Host.Outcome State Fault Refusal) (h : exec i s = .next t) (h2 : LeftOver s t) (h3 : SameIssue i t o) :
      SameIssue i s o

/-! ## The state in which an instruction issues -/

/-- A strand but for its wait and the time from which its age counts. -/
def awake (x : Strand) : Strand := { x with wait := none, readyAt := (0, 0) }

/-- The outside of the package as the tape has it before a step: nothing but what lies behind the windows changes (R442, R450, log 21). -/
def OuterTaken (s t : State) : Prop :=
  { t with outer := s.outer, down := s.down, mem := s.mem } = s ∧ (s.outer = [] → t = s) ∧
  ∀ a, outsidePa a = false → tget 0 t.mem a = tget 0 s.mem a

/-- The state in which a chosen set of a core issues: the sets whose waits have ended are ready again, the core has come to the
issue cycle and keeps the translation of the PC, and nothing else has changed (R186, R187, R190). -/
def AtIssue (s t : State) (core : Nat) (r : Ready) : Prop :=
  { t with groups := s.groups, cores := s.cores, cur := s.cur, turns := s.turns, stalls := s.stalls } = s ∧
  t.cur = { group := r.group, jset := r.jset } ∧
  (∀ k, (tfind t.groups k).isSome = (tfind s.groups k).isSome ∧
    { t.grp k with strands := [] } = { s.grp k with strands := [] } ∧ (t.grp k).strands.map awake = (s.grp k).strands.map awake) ∧
  (∀ c, c ≠ core → tfind t.cores c = tfind s.cores c) ∧
  { t.core core with cycle := 0, issues := [], idle := 0, tlb := [] } = { s.core core with cycle := 0, issues := [], idle := 0, tlb := [] }

/-- An address lies at an offset of the segment that the issuing set's core pins, which a traveller outside handler mode fetches from
(R97, R403, R408). -/
inductive Pins (s : State) (va : DWord) : Pinned → Nat → Prop where
  | held (tr : Trav) (h : Holder) (h1 : s.g.trav = some tr) (h2 : (s.core s.g.core).holder = some h)
      (h3 : (s.g.strand 0).handler = false) (h4 : s.segmentOf s.g.core s.lau va = some h.segment) :
      Pins s va h.code ((va.toNat - s.segBase s.g.core s.lau) % 65536)

/-- The word at an address of the issuing group, its four bytes little-endian (R8, R97, R234): those of the pinned segment, or those in
memory, where it may be fetched and a line behind a window answers. -/
def Fetched (s : State) (va : DWord) (w : Word) : Prop :=
  (∀ p o, Pins s va p o → p.fault = none ∧ tfind p.lost (o / 128) = none ∧
    ∀ i, i < 4 → valByte w.toNat i = lineByte (tget 0 p.lines ((o + i) / 128)) ((o + i) % 128)) ∧
  ((∀ p o, ¬ Pins s va p o) →
    s.pageCheck s.g.core (s.asidOf s.g) va.toNat .fetch true = none ∧
    s.outFail (s.paOf s.g.core (s.asidOf s.g) va.toNat) = none ∧
    ∀ i, i < 4 → valByte w.toNat i = s.homeK (s.keyOf s.g.core (s.asidOf s.g) va.toNat) (s.paOf s.g.core (s.asidOf s.g) va.toNat + i))

/-- A word that cannot be fetched, with its cause and detail: as the pinned segment keeps it, or by the checks of its address, a line
behind a window that does not answer among them (R97, R234, R442, R450). -/
def FetchFails (s : State) (va : DWord) (c d : Byte) : Prop :=
  (∃ p o, Pins s va p o ∧ (p.fault = some (c, d) ∨ (p.fault = none ∧ tfind p.lost (o / 128) = some (c, d)))) ∨
  ((∀ p o, ¬ Pins s va p o) ∧
    (s.pageCheck s.g.core (s.asidOf s.g) va.toNat .fetch true = some (c, d) ∨
      (s.pageCheck s.g.core (s.asidOf s.g) va.toNat .fetch true = none ∧
        s.outFail (s.paOf s.g.core (s.asidOf s.g) va.toNat) = some (c, d))))

/-- The issuing set does nothing but wait for its queues: its instruction has not issued (R206). -/
def QueuesOnly (a : State) : Prop :=
  a.ks ≠ [] ∧ ∃ needs, a.lead.wait = some (.queue needs) ∨ a.lead.wait = some (.glzPop needs)

/-- What an issue of any instruction but YIELD restarts: the group issued in this cycle, its core counts from here for every launch, and
so does its holder for its travellers (R214, R217, R427). -/
def restarted (s : State) (core : Nat) : State :=
  let now := (s.core core).cycle.toNat
  let u := s.setGrp s.gk { s.g with lastIssue := now }
  u.setCore core { u.core core with
    idle := 0, swapped := []
    holder := (u.core core).holder.map fun h => if s.g.trav.isSome then { h with lastBusy := now, swapped := false } else h }

/-- Every table of the state that lists groups, cores, stacks, teams, launches, queues, local memory or saved bytes lists each key once,
in rising order. -/
def TablesSorted (s : State) : Prop :=
  Sorted s.groups ∧ Sorted s.cores ∧ Sorted s.stackTab ∧ Sorted s.teams ∧ Sorted s.launches ∧ Sorted s.queues ∧
  (∀ c ∈ s.cores, Sorted c.2.mem) ∧ ∀ v ∈ s.saved, Sorted v.bytes

end Sys2Proof.Safety
end

