-- ==== Sys2Proof/Certificates/Slice0/Obligations.lean ====
section
/-!
DEFINITION. The statements for the provers.
-/
open Sys2Proof Sys2Proof.Machine Sys2Proof.Safety

/-- R8, R85, R88, R91: words written out from the encoding tables decode to their instructions, one for each format. -/
def Obligations.DecodeKnownWords : Prop :=
  (∀ x, decode 0x00000000 x = .ok .nop) ∧ (∀ x, decode 0x02FFFFFE x = .ok (.bra 0xFFFFFE)) ∧
  (∀ x, decode 0x03B00005 x = .ok (.brc 5 true 5)) ∧ (∀ x, decode 0x08850010 x = .ok (.loop 2 5 16)) ∧
  (∀ x, decode 0x0A123456 x = .ok (.setm 0x123456)) ∧ (∀ x, decode 0x0FC10020 x = .ok (.sysr (.s 1) 0x20)) ∧
  (∀ x, decode 0x20C1C2C3 x = .ok (.sadd (.s 1) (.s 2) (.s 3))) ∧ (∀ x, decode 0x2F13C0FF x = .ok (.scmp 3 .lt (.s 0) (.s 63))) ∧
  decode 0x32C40000 0xFFFFFFFF = .ok (.smovx (.s 4) 0xFFFFFFFF) ∧ decode 0x4F050607 3 = .ok (.vsel (.v 5) 3 (.v 6) (.v 7)) ∧
  (∀ x, decode 0x4001B0C2 x = .ok (.vadd (.v 1) (.q 0) (.s 2))) ∧ (∀ x, decode 0x75AF0A0B x = .ok (.vcvt (.v 175) (.v 10) 11)) ∧
  (∀ x, decode 0x80010203 x = .ok (.vshfl (.v 1) (.v 2) (.v 3))) ∧ (∀ x, decode 0x90102030 x = .ok (.efadd (.v 16) (.v 32) (.v 48))) ∧
  (∀ x, decode 0xA201C205 x = .ok (.ldg32 (.v 1) (.s 2) (.v 5))) ∧ (∀ x, decode 0xB001C205 x = .ok (.aadd (.v 1) (.s 2) (.v 5))) ∧
  (∀ x, decode 0xBAA9C300 x = .ok (.cpy 5 9 (.s 3))) ∧ (∀ x, decode 0xC00830C5 x = .ok (.mma 2 3 0 3 5)) ∧
  (∀ x, decode 0xD000C4C5 x = .ok (.glzcfg (.s 4) (.s 5))) ∧ (∀ x, decode 0x1805C6C7 x = .ok (.spawn (.v 5) (.s 6) (.s 7))) ∧
  (∀ x, decode 0x1D00C8C9 x = .ok (.pin (.s 8) (.s 9))) ∧ (∀ x, decode 0xFF123456 x = .ok (.undefinedOpcode 0xFF)) ∧
  (∀ x, decode 0x00000001 x = .reserved) ∧ (∀ x, decode 0x08C50010 x = .reserved) ∧ (∀ x, decode 0x2F33C0FF x = .reserved) ∧
  decode 0x4F050607 8 = .reserved

/-- R83, R85, R88-R92: decoding the words of any well-formed instruction gives it back, with every operand at every value its fields
hold; and a word decodes to a well-formed instruction whose words it is, or, for an undefined opcode, to that opcode, or it
raises the reserved-field trap. An instruction of one word does not depend on the word after it. -/
def Obligations.DecodeEncodeRoundTrip : Prop :=
  (∀ (i : Instr) (w x : Word), WellFormed i = true → encode i = some (w, x) →
    decode w x = .ok i ∧ (i.words = 1 → ∀ y, decode w y = .ok i)) ∧
  ∀ (w x : Word) (i : Instr), decode w x = .ok i → WellFormed i = true ∧
    (encode i = some (w, if i.words = 2 then x else 0) ∨ i = .undefinedOpcode (fld w 24 8))

/-- R24, R79, R83, R97, R118, R189, R206, R210, R214, R217, R234, R236, R427, R462: when the bytes at the program counter of the set
that issues next decode to a well-formed instruction, a step is that instruction's meaning at that set, and again in the same
issue for the strands that a queue trap of others leaves at it; a word that decodes to none, or an extended one in slot 31,
takes 0x02, one that cannot be fetched its fault, and a header word or an unaligned place is never executed. Reading a register
that holds an error takes 0x3F where no operand rule is broken (log 55), and what a flight of the group holds back waits (log
92). Every issue but a YIELD's restarts the counts of forward progress; an instruction that only waits for its queues has not
issued. An event that stands first on the agenda happens; where nothing can happen nothing does. Model's choices in it: log 1,
11, 12, 21, 81, 82. -/
def Obligations.StepRunsDecoded : Prop :=
  (∀ s : State, OuterTaken s s.takeOuter) ∧
  (∀ (s : State) (e : Instr) (es : List Instr), s.agenda = e :: es →
    (encode e = none ∧ WellFormed e = true → step s = exec e { s.takeOuter with agenda := es }) ∧
    (¬ (encode e = none ∧ WellFormed e = true) → step s = .fault .agendaNotEvent)) ∧
  (∀ s u : State, s.agenda = [] → s.takeOuter.wakeAll.nextPart = (none, u) → Steps s (commit u u)) ∧
  (∀ (s u : State) (p : Nat), s.agenda = [] → s.takeOuter.wakeAll.nextPart = (some p, u) →
    Ready.choose (u.readySets (p / 4) (p % 4)) = none → Steps s (commit u u)) ∧
  ∀ (s u : State) (p : Nat) (r : Ready), s.agenda = [] → s.takeOuter.wakeAll.nextPart = (some p, u) →
    Ready.choose (u.readySets (p / 4) (p % 4)) = some r →
    ∃ t, AtIssue s.takeOuter t (p / 4) r ∧ let v := restarted t (p / 4)
      (t.pc.toNat % 4 ≠ 0 → step s = .next (v.trapStep { cause := 0x0A, taddr := t.pc })) ∧
      (t.pc.toNat % 128 = 0 → step s = .next (v.trapStep { cause := 0x09, taddr := t.pc })) ∧
      (∀ c d, t.pc.toNat % 4 = 0 → t.pc.toNat % 128 ≠ 0 → FetchFails t t.pc c d →
        step s = .next (v.trapStep { cause := c, taddr := t.pc, detail := d })) ∧
      ∀ w x, t.pc.toNat % 4 = 0 → t.pc.toNat % 128 ≠ 0 → Fetched t t.pc w →
        (takesExtension (fld w 24 8) = true → t.pc.toNat % 128 = 124 → step s = .next (v.trapStep { cause := 0x02 })) ∧
        (∀ c d, takesExtension (fld w 24 8) = true → t.pc.toNat % 128 ≠ 124 → FetchFails t (t.pc + 4) c d →
          step s = .next (v.trapStep { cause := c, taddr := t.pc + 4, detail := d })) ∧
        ((takesExtension (fld w 24 8) = true → t.pc.toNat % 128 ≠ 124 ∧ Fetched t (t.pc + 4) x) →
          (∀ i, decode w x = .ok i → WellFormed i = true ∧
            (t.heldBack i = true → step s = .next t.holdStep) ∧
            (t.heldBack i = false → t.readsBad i = false → ∀ u, (i = .yield ∨ (∃ a, exec i v = .next a ∧ QueuesOnly a) → u = t) →
              (i ≠ .yield → (∀ a, exec i v = .next a → ¬ QueuesOnly a) → u = v) →
              (t.ks.length ≤ 16 → SameIssue i u (step s)) ∧
              ((∀ a, exec i u = .next a → ¬ LeftOver u a) → step s = exec i u)) ∧
            (t.heldBack i = false → t.readsBad i = true → ∃ a, exec i v = .next a ∧
              (QueuesOnly a → step s = exec i t) ∧
              (¬ QueuesOnly a → v.brokeOperandRule a = true → step s = .next a) ∧
              (¬ QueuesOnly a → v.brokeOperandRule a = false → t.bus = [] → ∃ b ks, step s = .next b ∧ TakesTrapIn v b ks { cause := 0x3F }))) ∧
          (decode w x = .reserved → step s = .next (v.trapStep { cause := 0x02 })))

/-- R186, R187, R189, R190, R206, R214, R216, R311, R344, R367, R408: the set that issues is one of the ready ones: the longest
waiting where one has waited 64 issue cycles, else the oldest of the highest priority, ties to the lower group slot, then the
lower strand. It issues in issue cycles of the core's throttle state, one for each gang. Before each choice a set that waits is
ready again exactly where its wait has ended, its age counted from then. A group that is held for a save, or whose launch stops,
issues only what it has begun. Model's choices in it: log 1, 7, 15. -/
def Obligations.IssueChoice : Prop :=
  (∀ rs : List Ready, (Ready.choose rs = none ↔ rs = []) ∧ ∀ r, Ready.choose rs = some r → r ∈ rs ∧
    let before (a b : Ready) : Prop := b.age < a.age ∨ (a.age = b.age ∧ (a.slot < b.slot ∨ (a.slot = b.slot ∧ a.strand < b.strand)))
    ((∃ x ∈ rs, 64 ≤ x.waited) → 64 ≤ r.waited ∧ ∀ x ∈ rs, 64 ≤ x.waited → ¬ before x r) ∧
    ((∀ x ∈ rs, x.waited < 64) → ∀ x ∈ rs, x.priority ≤ r.priority ∧ (x.priority = r.priority → ¬ before x r))) ∧
  (∀ (s : State) (core part : Nat), ∀ r ∈ s.readySets core part, ∃ g k, (r.group, g) ∈ s.groups ∧ g.core = core ∧ g.part = part ∧
    k < g.strands.length ∧ r.priority = (s.launch g.launch).lrec.priority ∧
    (g.trav = none → r.slot = g.slot ∧ r.strand = k) ∧
    (∀ tr h slots, g.trav = some tr → (s.core core).holder = some h → h.carriers[part]? = some slots → tr.slot / 4 < slots.length →
      slots[tr.slot / 4]? = some r.slot ∧ r.strand = tr.slot % 4) ∧
    (g.strand k).jset = r.jset ∧ (g.strand k).ended = false ∧ (g.strand k).wait = none ∧ MayIssue s g (g.strand k) ∧
    (∀ j, j < k → (g.strand j).ended = true ∨ (g.strand j).jset ≠ r.jset) ∧
    r.age = (s.core core).cycle.toNat - (g.strand k).readyAt.1 ∧
    r.waited = tget 0 (s.core core).issues part - (g.strand k).readyAt.2) ∧
  (∀ (s : State) (core part gangs : Nat), (s.core core).throt ≤ 7 → (s.core core).cycle.toNat + s.stalls.headD 0 + 64 < 2 ^ 64 →
    let c := ((s.passCycles core part gangs).core core).cycle.toNat
    let n := [20, 20, 17, 14, 14, 11, 8, 2].getD (s.core core).throt 0
    (s.core core).cycle.toNat < c ∧ c % 20 * n / 20 < (c % 20 + 1) * n / 20 ∧
    tget 0 ((s.passCycles core part gangs).core core).issues part = tget 0 (s.core core).issues part + gangs) ∧
  ∀ (s : State) (k : Nat) (g : Group) (i : Nat) (w : Wait), Sorted s.groups → tfind s.groups k = some g → g.part < 4 →
    i < g.strands.length → (g.strand i).ended = false →
    let j := (g.strand i).jset
    let x := g.strand ((g.members j).headD 0)
    x.wait = some w →
      (MayIssue s g x → WaitEnded s k g j x w → (s.wakeAll.grp k).strand i =
        { g.strand i with wait := none, readyAt := ((s.core g.core).cycle.toNat, tget 0 (s.core g.core).issues g.part) }) ∧
      (¬ (MayIssue s g x ∧ WaitEnded s k g j x w) → (s.wakeAll.grp k).strand i = g.strand i)

/-- R106, R130-R133, R135, R136: a scalar instruction that writes an s register writes exactly the value of its rule, passes, and
leaves everything else alone. Model's choices in it: log 117. -/
def Obligations.ScalarResults : Prop :=
  ∀ (s : State) (i : Instr) (rs : List Reg) (d : Reg) (x : DWord), ScalarRule s i rs d x →
    ScalarCodes s (d :: rs) → s.bus = [] → Stays s i.words →
    ∃ t, Runs i s t ∧ Passes s t i.words (fun g => g.putS (regIdx d) x) ∧
      t.g.sr (regIdx d) = x ∧ ∀ k, k ≠ regIdx d → t.g.sr k = s.g.sr k

/-- R21, R22, R24, R25, R92, R129, R199-R201, R205, R207-R209, R220, R301, R305, R402: a scalar instruction that names another code
where an s code must stand, or an s register a traveller has not, raises 0x03 and does nothing else. A lane instruction with a
type it does not take, a misaligned register, or a code of a wrong class raises 0x03: an s code as a destination, q8 to q15, a
queue in the wrong direction, a queue for more than a word, and queues without the partner or the type they need among them.
With classes in order and a register not held it raises 0x04. A push or pop of one queue that can never be made raises that
queue's trap in the lanes where it cannot. Nothing else happens. The same of the data and address fields of vector loads, stores
and atomics, and of LDS and STS. Team barriers in a travel launch, palette claims past their limits, and system registers that
do not exist or may not be written raise their traps and do nothing else. Model's choices in it: log 5, 13, 14, 15, 84, 103. -/
def Obligations.OperandTraps : Prop :=
  (∀ (s : State) (i : Instr) (rs : List Reg) (d : Reg) (x : DWord), ScalarRule s i rs d x →
    (d :: rs).any s.badS = true → s.bus = [] → ∃ t, Runs i s t ∧ TakesTrap s t { cause := 0x03 }) ∧
  (∀ (s : State) (i : Instr) (u : Uses), LaneForm s i u → s.bus = [] →
    (ClassBroken s u → ∃ t, Runs i s t ∧ TakesTrap s t { cause := 0x03 }) ∧
    (¬ ClassBroken s u → HoldBroken s u → ∃ t, Runs i s t ∧ TakesTrap s t { cause := 0x04 }) ∧
    ∀ q, ¬ ClassBroken s u → ¬ HoldBroken s u → u.pops ++ u.pushes = [(q, 1)] → (∃ l ∈ s.lanes, ∃ x, QueueTrap s q l x) →
      ∃ t, Runs i s t ∧ TakesLaneTrap s t (QueueTrap s q)) ∧
  (∀ (s : State) (i : Instr) (x : Trap), SystemTrap s i x → s.bus = [] → ∃ t, Runs i s t ∧ TakesTrap s t x)

/-- R107-R109, R137, R138, R140-R142, R174: an integer or word instruction writes in each active lane a value whose elements are
those of its rule, and leaves every other register, lane, flag and byte alone. -/
def Obligations.IntegerResults : Prop :=
  ∀ (s : State) (i : Instr) (u : Uses) (d : Reg) (P : Uses → Nat → List Word → Prop), IntRule s i u d P →
    OperandsReady s u → s.bus = [] → Stays s i.words →
    ∃ (t : State) (ws : Nat → List Word), Runs i s t ∧ (∀ l ∈ s.lanes, P u l (ws l)) ∧ WritesLanes s t i.words u 0 d (s.lanes.map fun l => (l, ws l))

/-- R145-R147, R149-R160: a floating-point, conversion or quantization instruction writes in each active lane a value whose elements
are those of its rule, makes its draws in each active lane, and leaves everything else alone. -/
def Obligations.FloatResults : Prop :=
  ∀ (s : State) (i : Instr) (u : Uses) (d : Reg) (n : Nat) (P : Uses → Nat → List Word → Prop), FloatRule s i u d n P →
    OperandsReady s u → s.bus = [] → Stays s i.words →
    ∃ (t : State) (ws : Nat → List Word), Runs i s t ∧ (∀ l ∈ s.lanes, P u l (ws l)) ∧
      WritesLanes s t i.words u (drawCount s.mode n) d (s.lanes.map fun l => (l, ws l))

/-- R26, R131, R139, R143, R144, R148: an instruction that writes a predicate writes exactly that predicate in exactly its lanes, as
its rule says, and leaves every other predicate bit and every register alone. -/
def Obligations.PredicateResults : Prop :=
  ∀ (s : State) (i : Instr) (u : Uses) (k : Nat) (ls : List Nat) (f : Nat → Prop), PredRule s i u k ls f →
    OperandsReady s u → s.bus = [] → Stays s i.words → ∃ t, Runs i s t ∧ WritesPred s t i.words u k ls f

/-- R61, R161-R167, R169, R170: a cross-lane instruction writes in each of its lanes what its rule says, keeps the destination where
the rule gives nothing, and leaves everything else alone. VTUNPK writes the fifteen trits of three bytes as signed bytes of a
quad, byte 15 zero, and marks in a predicate the lanes with a reserved byte; every other register and predicate bit is
unchanged. Model's choices in it: log 16, 90. -/
def Obligations.CrossLaneResults : Prop :=
  (∀ (s : State) (i : Instr) (u : Uses) (d : Reg) (n : Nat → Nat) (ls : List Nat) (P : Uses → Nat → Option (List Word) → Prop),
    CrossRule s i u d n ls P → OperandsReady s u → s.bus = [] → Stays s i.words →
    ∃ (t : State) (out : Nat → Option (List Word)) (k : Fin 176), d = .v k ∧ Runs i s t ∧ (∀ l ∈ ls, P u l (out l)) ∧
      WritesV s t i.words u n k (ls.filterMap fun l => (out l).map fun ws => (l, ws))) ∧
  (∀ (s : State) (d a : Reg) (pk : BitVec 3), let u : Uses := { srcs := [(a, 1)], dsts := [(d, 4)], noq := true }
    let code (l j : Nat) : Nat := elemNat 8 (src s u 0 l) j
    let trit (l i : Nat) : Nat := if 243 ≤ code l (i / 5) then 0 else code l (i / 5) / 3 ^ (i % 5) % 3
    OperandsReady s u → s.bus = [] → Stays s 1 →
    ∃ (t : State) (k : Fin 176), d = .v k ∧ Runs (.vtunpk d a pk) s t ∧
      Passes s t 1 (fun g => { g.popQueues s.lanes u.pops with v := t.g.v, p := t.g.p, bad := t.g.bad }) ∧
      (∀ l ∈ s.lanes, ∀ i, i < 16 → elemNat 8 ((List.range 4).map fun n => t.g.vr (k.val + n) l) i =
        if i = 15 then 0 else if trit l i = 2 then 255 else trit l i) ∧
      (∀ r l, l < 64 → l ∉ s.lanes ∨ r < k.val ∨ k.val + 4 ≤ r → t.g.vr r l = s.g.vr r l) ∧
      (∀ j l, l < 64 → (t.g.pr j l = true ↔
        if j = pk.toNat ∧ l ∈ s.lanes then ∃ i, i < 3 ∧ 243 ≤ code l i else s.g.pr j l = true)) ∧
      ∀ e ∈ t.g.bad, e ∈ s.g.bad)

/-- R35, R67, R171, R172, R174, R175: an elastic-float instruction writes in each active lane the window that rounding its exact
result to P gives, with one draw under round mode 5, and leaves everything else alone; under MODE.exact it does so when every
lane's result can be held. Model's choices in it: log 59. -/
def Obligations.ElasticResults : Prop :=
  ∀ (s : State) (i : Instr) (srcs : List Reg) (u : Uses) (d : Reg) (x : Nat → Exact), EfRule s i srcs u d x →
    WindowsReady s srcs (some d) u → (mExact s.mode = true → ∀ l ∈ s.lanes, efExhausted s.prec (x l) = none) →
    s.bus = [] → Stays s 1 →
    ∃ t, Runs i s t ∧ WritesLanes s t 1 u (drawCount s.mode 1) d
      (s.lanes.map fun l => (l, efRound s.prec (mRound s.mode) (drawOf s 1 l 0) l s.pc (x l)))

/-- R21, R22, R24, R36, R44, R68, R171, R173, R176, R210: under MODE.exact an elastic-float instruction with lanes whose exact
results do not fit P raises 0x06 in those lanes, each with its detail, and writes and draws nothing. An elastic-float
instruction whose windows or operands are not allowed raises its trap and does nothing else: 0x03 for a wrong class or type,
else 0x05 in the lanes where a window runs past v175 or the destination's over another source's, else 0x04 for a register not
held. EFCMP compares the exact values of two windows in each active lane and writes a predicate there alone. EFCVTO writes in
each active lane the window's value as an f32 or an integer, whatever MODE.exact. Model's choices in it: log 5, 27. -/
def Obligations.ElasticTraps : Prop :=
  (∀ (s : State) (i : Instr) (srcs : List Reg) (u : Uses) (d : Reg) (x : Nat → Exact),
    EfRule s i srcs u d x → WindowsReady s srcs (some d) u → mExact s.mode = true → s.bus = [] →
    (∃ l ∈ s.lanes, efExhausted s.prec (x l) ≠ none) →
    ∃ t, Runs i s t ∧ TakesLaneTrap s t fun l y => ∃ e, efExhausted s.prec (x l) = some e ∧ y = { cause := 0x06, detail := e }) ∧
  (∀ (s : State) (i : Instr) (srcs : List Reg) (dst : Option Reg) (u : Uses), WindowForm s i srcs dst u → s.bus = [] →
    (WindowClass s srcs dst u → ∃ t, Runs i s t ∧ TakesTrap s t { cause := 0x03 }) ∧
    (¬ WindowClass s srcs dst u →
      ((∃ l ∈ s.lanes, WindowPast s srcs dst l) →
        ∃ t, Runs i s t ∧ TakesLaneTrap s t fun l y => WindowPast s srcs dst l ∧ y = { cause := 0x05 }) ∧
      ((∀ l ∈ s.lanes, ¬ WindowPast s srcs dst l) →
        (BaseNotHeld s srcs dst u → ∃ t, Runs i s t ∧ TakesTrap s t { cause := 0x04 }) ∧
        (¬ BaseNotHeld s srcs dst u → (∃ l ∈ s.lanes, WindowNotHeld s srcs dst l) →
          ∃ t, Runs i s t ∧ TakesLaneTrap s t fun l y => WindowNotHeld s srcs dst l ∧ y = { cause := 0x04 })))) ∧
  (∀ (s : State) (k : BitVec 3) (c : Cond) (a b : Reg), WindowsReady s [a, b] none {} → s.bus = [] → Stays s 1 →
    ∃ t, Runs (.efcmp k c a b) s t ∧
      WritesPred s t 1 {} k.toNat s.lanes fun l => CondF c (windowAt s a l) (windowAt s b l)) ∧
  (∀ (s : State) (d a : Reg) (n : BitVec 8),
    let u : Uses := { dsts := [(d, typeWords n.toNat)], typeOk := decide (n.toNat ∈ [0, 1, 6, 7, 8]) }
    WindowsReady s [a] none u → s.bus = [] → Stays s 1 →
    ∃ t, Runs (.efcvto d a n) s t ∧
      WritesLanes s t 1 u (drawCount s.mode 1) d (s.lanes.map fun l => (l, cvtResult s a n.toNat l)))

/-- R34, R80, R81, R84, R111, R112, R117-R119, R122-R128, R213, R220: control transfers, loops, mode setting and the per-strand
system registers move their set's strands as their rules say and leave everything else alone. Strands of one set that stand at
different addresses after an instruction are no longer joined; those at one address still are. -/
def Obligations.StrandsMove : Prop :=
  (∀ (s : State) (i : Instr) (f : Nat → Strand → Strand), MoveRule s i f → s.bus = [] → StaysBy s f →
    ∃ t, Runs i s t ∧ Moves s t f) ∧
  (∀ (s : State) (i : Instr) (f : Nat → Strand → Strand), MoveRule s i f → s.bus = [] → s.g.trav = none →
    s.cur.jset < s.nextKey → ∃ t, Runs i s t ∧ ∀ a ∈ s.ks, ∀ b ∈ s.ks,
      (t.g.strand a).ended = false → (t.g.strand b).ended = false →
      ((t.g.strand a).jset = (t.g.strand b).jset ↔ (t.g.strand a).pc = (t.g.strand b).pc))

/-- R29, R31, R34, R81, R89, R90, R112, R118-R121, R125, R127, R210, R211, R213, R402: TRAP, ILL and the undefined opcodes take
their traps, and the instructions that move strands take theirs where they may not complete, with no other effect. The strands
of one set that BRC, RET, LEAVE or TRET sends to different places, or that may not all go, each fare by their own link, loop
level, lanes and mode; each trap has its own strand's address and detail. Model's choices in it: log 5, 70. -/
def Obligations.ControlTraps : Prop :=
  (∀ (s : State) (i : Instr) (x : Trap), TrapRule s i x → s.bus = [] → ∃ t, Runs i s t ∧ TakesTrap s t x) ∧
  (∀ (s : State) (i : Instr) (R : Nat → Trap ⊕ Strand), (∀ k ∈ s.ks, StrandRule s i k (R k)) → s.ks ≠ [] →
    s.bus = [] → s.g.trav = none →
    s.cur.jset < s.nextKey → ∃ t, Runs i s t ∧ EachFares s t R)

/-- R111, R112, R124: what arriving at an address does to a strand. Exactly the paths parked there on top of its stack join it,
their lanes into its active mask. Then a loop level that ends there, 2 before 1 before 0, counts down: one that reaches zero is
left and the next is tried, and the first that does not goes round. At a new address the paths parked there join in turn, and
nothing else of the strand changes. -/
def Obligations.Arrival : Prop :=
  ∀ (x : Strand), ∃ a b, Rejoins x a ∧ LoopsEnd a b ∧ Rejoins b (x.arrive [2, 1, 0]) ∧ (b.pc = a.pc → x.arrive [2, 1, 0] = b) ∧
    (x.arrive [2, 1, 0]).present = x.present

/-- R115, R116, R120, R411, R428: EXIT in each strand runs the path on top of its stack, or sends it to the REGANG where its other
lanes are parked, or ends it; with its last strand the group has ended, so that a traveller's slot is free at once. No register,
no other core's state and no byte of memory changes. -/
def Obligations.ExitEnds : Prop :=
  ∀ (s : State), s.bus = [] → (∀ k ∈ s.ks, (s.g.strand k).arrived = false) →
    (∀ tr, s.g.trav = some tr → s.ks = [0] ∧ s.g.strands.length = 1 ∧ ∀ y, Exits (s.g.strand 0) y → StaysAt s y) →
    ∃ t, Runs .exit s t ∧ ((∀ k, k < s.g.strands.length → k ∈ s.ks ∧ (s.g.strand k).stack = [] ∧ (s.g.strand k).parked = 0) → t.g.live = false) ∧
      { t with groups := s.groups, nextKey := s.nextKey, launches := s.launches, cur := s.cur } = s ∧
      (∀ k, { t.grp k with strands := [], endPc := 0 } = { s.grp k with strands := [], endPc := 0 }) ∧
      ∀ k ∈ s.ks, let x := s.g.strand k
        match x.stack with
        | e :: st => ∃ j n b, t.g.strand k =
            { ready (landed { x with amask := e.mask, stack := st } e.pc) j n with barPend := b }
        | [] =>
          if x.parked ≠ 0 then (t.g.strand k).amask = x.parked ∧ (t.g.strand k).parked = 0 ∧
            (t.g.strand k).pc = x.parkPc ∧ (t.g.strand k).ended = false
          else (t.g.strand k).ended = true ∧ (t.g.strand k).amask = 0

/-- R120, R121, R190: a set that reaches a REGANG with lanes on every strand's stack parks its running lanes there and runs the path
on top of each stack. A set whose strands have reconverged at a REGANG waits there for the strands of its group that have
neither ended nor arrived. When the last strand of a group arrives at a REGANG and all agree in MODE and PREC, they pass it;
those that then stand at one address are one joined set. When the last strand of a group arrives at a REGANG and its strands
differ in MODE or PREC, every one takes 0x08 there, in the joined set it has; nothing is gathered. -/
def Obligations.Reganging : Prop :=
  (∀ (s : State), s.bus = [] → s.g.trav = none → s.ks ≠ [] →
    (∀ k ∈ s.ks, (s.g.strand k).arrived = false ∧ (s.g.strand k).stack ≠ [] ∧
      ((s.g.strand k).parked = 0 ∨ (s.g.strand k).parkPc = (s.g.strand k).pc)) →
    ∃ t, Runs .regang s t ∧ { t with groups := s.groups, nextKey := s.nextKey, ctl := s.ctl } = s ∧
      { t.ctl with waitSeq := s.ctl.waitSeq } = s.ctl ∧ (∀ k, k ≠ s.gk → tfind t.groups k = tfind s.groups k) ∧
      GroupIs s t id ∧ Went s.g t.g s.ks fun _ x =>
        landed { x with parked := x.parked ||| x.amask, parkPc := x.pc, amask := (x.stack.headD {}).mask,
                        stack := x.stack.tail } (x.stack.headD {}).pc) ∧
  (∀ (s : State), s.bus = [] → s.ks ≠ [] →
    (∀ k ∈ s.ks, (s.g.strand k).pc = s.pc ∧ (s.g.strand k).stack = [] ∧
      ((s.g.strand k).parked = 0 ∨ (s.g.strand k).parkPc = s.pc)) →
    (∀ k, k < s.g.strands.length → (s.g.strand k).ended = false → (s.g.strand k).arrived = true →
      (s.g.strand k).pc = s.pc) →
    (∃ k, k < s.g.strands.length ∧ k ∉ s.ks ∧ (s.g.strand k).ended = false ∧ (s.g.strand k).arrived = false) →
    ∃ t, Runs .regang s t ∧ { t with groups := s.groups, ctl := s.ctl } = s ∧
      { t.ctl with waitSeq := s.ctl.waitSeq } = s.ctl ∧ (∀ k, k ≠ s.gk → tfind t.groups k = tfind s.groups k) ∧
      GroupIs s t id ∧ t.g.strands.length = s.g.strands.length ∧ ∀ k, t.g.strand k = if k ∈ s.ks then
        { s.g.strand k with amask := (s.g.strand k).amask ||| (s.g.strand k).parked, parked := 0, arrived := true,
                            wait := some .regang, waitSeq := s.ctl.waitSeq + 1 }
        else s.g.strand k) ∧
  (∀ (s : State), s.bus = [] → s.g.trav = none → s.ks ≠ [] →
    (∀ k ∈ s.ks, (s.g.strand k).pc = s.pc ∧ (s.g.strand k).stack = [] ∧
      ((s.g.strand k).parked = 0 ∨ (s.g.strand k).parkPc = s.pc)) →
    (∀ k, k < s.g.strands.length → (s.g.strand k).ended = false → k ∉ s.ks →
      (s.g.strand k).arrived = true ∧ (s.g.strand k).pc = s.pc) →
    (∀ k, k < s.g.strands.length → (s.g.strand k).ended = false →
      (s.g.strand k).mode = s.mode ∧ (s.g.strand k).prec.toNat = s.prec) →
    ∃ t, Runs .regang s t ∧ { t with groups := s.groups, nextKey := s.nextKey, cur := s.cur, ctl := s.ctl } = s ∧
      { t.ctl with waitSeq := s.ctl.waitSeq } = s.ctl ∧ (∀ k, k ≠ s.gk → tfind t.groups k = tfind s.groups k) ∧
      GroupIs s t id ∧
      (∀ k, k < s.g.strands.length → (s.g.strand k).ended = false →
        let x := s.g.strand k
        let y : Strand := { x with amask := if k ∈ s.ks then x.amask ||| x.parked else x.amask,
                                   parked := if k ∈ s.ks then 0 else x.parked, arrived := false }
        ∃ j n w, t.g.strand k = { ready (landed y (seqNext s.pc 1)) j n with waitSeq := w }) ∧
      ∀ a b, a < s.g.strands.length → b < s.g.strands.length → (s.g.strand a).ended = false →
        (s.g.strand b).ended = false → (t.g.strand a).pc = (t.g.strand b).pc → (t.g.strand a).jset = (t.g.strand b).jset) ∧
  (∀ (s : State), s.bus = [] → s.ks ≠ [] → s.lau.lrec.handler ≠ 0 →
    (∀ k ∈ s.ks, (s.g.strand k).pc = s.pc ∧ (s.g.strand k).stack = [] ∧
      ((s.g.strand k).parked = 0 ∨ (s.g.strand k).parkPc = s.pc)) →
    (∀ k, k < s.g.strands.length → (s.g.strand k).ended = false → (s.g.strand k).handler = false ∧ (k ∉ s.ks →
      (s.g.strand k).arrived = true ∧ (s.g.strand k).pc = s.pc)) →
    (∃ a b, a < s.g.strands.length ∧ b < s.g.strands.length ∧ (s.g.strand a).ended = false ∧ (s.g.strand b).ended = false ∧
      ((s.g.strand a).mode ≠ (s.g.strand b).mode ∨ (s.g.strand a).prec ≠ (s.g.strand b).prec)) →
    ∃ t, Runs .regang s t ∧ { t with groups := s.groups, ctl := s.ctl } = s ∧
      { t.ctl with waitSeq := s.ctl.waitSeq } = s.ctl ∧ (∀ k, k ≠ s.gk → tfind t.groups k = tfind s.groups k) ∧
      GroupIs s t id ∧ t.g.strands.length = s.g.strands.length ∧
      ∀ k, if k < s.g.strands.length ∧ (s.g.strand k).ended = false then
        let x := s.g.strand k
        Entered { x with amask := if k ∈ s.ks then x.amask ||| x.parked else x.amask,
                         parked := if k ∈ s.ks then 0 else x.parked } (t.g.strand k) { cause := 0x08 } s.lau.lrec.handler
      else t.g.strand k = s.g.strand k)

/-- R193-R195, R402: BAR passes when the last strand of the team arrives, or once the phase it waits for has completed; BARA passes
without waiting; BARW passes with no arrival pending. A phase that completes clears its arrivals in the whole team, and nothing
else of a strand, a register or memory changes. BAR waits at its barrier with its arrivals recorded while a strand outside the
set has neither arrived nor ended, and so does a BARA of which a strand has an earlier arrival pending. Where every strand of
the set has one pending, BAR, BARA and BARW wait and do nothing, and a BARW waits while any has. -/
def Obligations.Barriers : Prop :=
  (∀ (s : State) (i : Instr) (n : Nat) (pend acq : Bool), BarRule s i n pend acq → s.lau.travel = false →
    s.bus = [] → s.g.trav = none → Sorted s.groups → (tfind s.groups s.gk).isSome = true →
    ∃ t, Runs i s t ∧ PassesBarrier s t n pend acq) ∧
  (∀ (s : State) (n : BitVec 8), n.toNat < 16 → s.lau.travel = false → s.bus = [] → s.ks ≠ [] → s.g.trav = none →
    Sorted s.groups → (tfind s.groups s.gk).isSome = true →
    (∀ k ∈ s.ks, (s.g.strand k).wait = none ∧ (s.g.strand k).barMark = none) →
    let pend (k : Nat) : Bool := (s.g.strand k).barPend.getLsbD n.toNat
    (ReleaseDone s → (∃ k ∈ s.ks, pend k = false) → ¬ OthersArrived s n.toNat →
      (∃ t, Runs (.bar n) s t ∧ WaitsArrived s t n.toNat) ∧
      ((∃ k ∈ s.ks, pend k = true) → ∃ t, Runs (.bara n) s t ∧ WaitsArrived s t n.toNat)) ∧
    ((∀ k ∈ s.ks, pend k = true) → (∃ t, Runs (.bar n) s t ∧ Waits s t (.barrier n.toNat)) ∧
      ∃ t, Runs (.bara n) s t ∧ Waits s t (.barrier n.toNat)) ∧
    ((∃ k ∈ s.ks, pend k = true) → ∃ t, Runs (.barw n) s t ∧ WaitsAs s t (.barrier n.toNat) fun x => { x with issued := true }))

/-- R22, R23, R197-R201: PALTAKE and PALTRY take blocks that are granted at once, PALTRY saying so in its predicate; PALGIVE returns
blocks, whose registers lose their contents and whose errors go. Nothing else changes where nothing waits for the units; where
claims wait, they are served in order as far as the units reach. Registers that a group does not hold go on reading as zero
under these and under every lane instruction. A PALTAKE that is not granted at once joins the partition's claims as the last and
waits, and nothing else changes. Model's choices in it: log 69, 83, 91. -/
def Obligations.Palette : Prop :=
  (∀ (s : State) (n : BitVec 8) (k : BitVec 3), s.bus = [] → Stays s 1 →
    (s.lead.issued = false → s.g.held + 16 * n.toNat ≤ s.lau.lrec.ceil →
      GrantedAtOnce s (n.toNat * (s.g.width / 16)) → ∃ t, Runs (.paltake n) s t ∧
        Passes s t 1 fun g => { g with held := g.held + 16 * n.toNat }) ∧
    (s.lead.issued = true → ∃ t, Runs (.paltake n) s t ∧ Passes s t 1 id) ∧
    (s.g.held + 16 * n.toNat ≤ s.lau.lrec.ceil → ∃ t, Runs (.paltry k n) s t ∧
      (GrantedAtOnce s (n.toNat * (s.g.width / 16)) → t.g.held = s.g.held + 16 * n.toNat) ∧
      (¬ GrantedAtOnce s (n.toNat * (s.g.width / 16)) → t.g.held = s.g.held) ∧
      Passes s t 1 (fun g => { g with held := t.g.held, p := t.g.p, bad := t.g.bad }) ∧
      (∀ j l, l < 64 → (t.g.pr j l = true ↔ if j = k.toNat ∧ l ∈ s.setLanes then
        GrantedAtOnce s (n.toNat * (s.g.width / 16)) else s.g.pr j l = true)) ∧ ∀ e ∈ t.g.bad, e ∈ s.g.bad) ∧
    (s.lau.lrec.base + 16 * n.toNat ≤ s.g.held → GrantedAtOnce s 0 → ∃ t, Runs (.palgive n) s t ∧
      Passes s t 1 (fun g => { g with held := g.held - 16 * n.toNat, v := t.g.v, bad := t.g.bad }) ∧
      (∀ r l, l < 64 → t.g.vr r l = if r < s.g.held - 16 * n.toNat then s.g.vr r l else 0) ∧
      ∀ e, e ∈ t.g.bad ↔ e ∈ s.g.bad ∧ (e / 64 < s.g.held - 16 * n.toNat ∨ 2 ^ 14 ≤ e)) ∧
    (s.lau.lrec.base + 16 * n.toNat ≤ s.g.held → s.g.trav = none → s.g.restoring = false → s.g.held % 16 = 0 →
      s.g.width ∈ [16, 32, 64] → PaletteSound s s.g.core s.g.part → Sorted s.groups → (tfind s.groups s.gk).isSome = true →
      (∀ e ∈ s.groups, e.2.core = s.g.core → e.2.part = s.g.part → e.2.restoring = false) → Sorted s.cores →
      (s.core s.g.core).claims.Nodup → ∃ t gs left, Runs (.palgive n) s t ∧
        ClaimsServed s (s.freeUnits s.g.core s.g.part + n.toNat * (s.g.width / 16))
          (fun k => if k = s.gk then s.g.held - 16 * n.toNat else (s.grp k).held)
          ((s.core s.g.core).claims.filter (·.part == s.g.part)) gs left ∧
        (t.core s.g.core).claims.filter (·.part == s.g.part) = left ∧
        (t.core s.g.core).claims.filter (·.part != s.g.part) = (s.core s.g.core).claims.filter (·.part != s.g.part) ∧
        (∀ k, (t.grp k).held = (if k = s.gk then s.g.held - 16 * n.toNat else (s.grp k).held) +
          ((gs.filter (·.group == k)).map (Claim.regs s)).sum) ∧
        (∀ k, k ≠ s.gk → { t.grp k with held := (s.grp k).held, strands := (s.grp k).strands } = s.grp k ∧
          ∀ j, { (t.grp k).strand j with issued := ((s.grp k).strand j).issued } = (s.grp k).strand j) ∧
        { t.core s.g.core with claims := (s.core s.g.core).claims } = s.core s.g.core ∧
        (∀ c, c ≠ s.g.core → tfind t.cores c = tfind s.cores c) ∧
        { t.g with held := s.g.held, v := s.g.v, bad := s.g.bad, strands := s.g.strands } = s.g ∧
        (∀ r l, l < 64 → t.g.vr r l = if r < s.g.held - 16 * n.toNat then s.g.vr r l else 0) ∧
        { t with groups := s.groups, nextKey := s.nextKey, cores := s.cores } = s) ∧
    (AboveZero s.g → ∀ t, (Runs (.paltake n) s t ∨ Runs (.paltry k n) s t ∨ (Runs (.palgive n) s t ∧ GrantedAtOnce s 0)) → AboveZero t.g) ∧
    ∀ i u, LaneForm s i u → OperandsReady s u → AboveZero s.g → s.g.width ≤ 64 → ∀ t, Runs i s t → AboveZero t.g) ∧
  (∀ (s : State) (n : BitVec 8), s.bus = [] → s.lead.issued = false → s.g.held + 16 * n.toNat ≤ s.lau.lrec.ceil →
    ¬ GrantedAtOnce s (n.toNat * (s.g.width / 16)) → (∀ k ∈ s.ks, (s.g.strand k).wait = none) → s.ks ≠ [] →
    ∃ t, Runs (.paltake n) s t ∧
      (t.core s.g.core).claims = (s.core s.g.core).claims ++
        [{ part := s.g.part, group := s.gk, jset := s.cur.jset, units := n.toNat * (s.g.width / 16) }] ∧
      { t.core s.g.core with claims := (s.core s.g.core).claims } = s.core s.g.core ∧
      (∀ c, c ≠ s.g.core → tfind t.cores c = tfind s.cores c) ∧ Waits s { t with cores := s.cores } .palette)

/-- R29, R129, R220-R222, R254, R285, R294, R319, R347-R349, R379, R429: SYSR writes the value of the system register it names into
an s register and leaves everything else alone. SYSW writes the function selector, a per-tensor scale, and, in a launch with the
capability, the stack's governor bias; each alone. Model's choices in it: log 106, 127. -/
def Obligations.SystemRegisters : Prop :=
  (∀ (s : State) (k : Fin 64) (n : BitVec 16) (x : Nat), SysValue s n.toNat x → s.foreignS k.val = false → s.bus = [] →
    Stays s 1 → ∃ t, Runs (.sysr (.s k) n) s t ∧ Passes s t 1 (fun g => g.putS k.val (BitVec.ofNat 64 x)) ∧
      t.g.sr k.val = BitVec.ofNat 64 x ∧ ∀ j, j ≠ k.val → t.g.sr j = s.g.sr j) ∧
  (∀ (s : State) (k : Fin 64), s.foreignS k.val = false → s.bus = [] →
    let x := s.g.sr k.val
    (x.toNat % 16 < 9 → Stays s 1 → ∃ t, Runs (.sysw (.s k) 0x00E) s t ∧
      Passes s t 1 fun g => { g with sfufn := BitVec.ofNat 4 (x.toNat % 16) }) ∧
    (∀ n : BitVec 16, 0x030 ≤ n.toNat → n.toNat ≤ 0x037 → Stays s 1 → ∃ t, Runs (.sysw (.s k) n) s t ∧
      Passes s t 1 (fun g => { g with scl := t.g.scl }) ∧
      ∀ j, t.g.scale j = if j = n.toNat - 0x030 then BitVec.ofNat 32 x.toNat else s.g.scale j) ∧
    (s.lau.capable = true → (x.toNat % 16 ≤ 4 ∨ 12 ≤ x.toNat % 16) → Resident s →
      ∃ t, Runs (.sysw (.s k) 0x021) s t ∧
        { t with groups := s.groups, nextKey := s.nextKey, stackTab := s.stackTab } = s ∧
        (∀ g, g ≠ s.gk → tfind t.groups g = tfind s.groups g) ∧ GroupIs s t id ∧
        (Went s.g t.g s.ks fun _ y => y.pass 1) ∧
        (∀ c, c ≠ s.g.core / 16 → tfind t.stackTab c = tfind s.stackTab c) ∧
        { t.stack (s.g.core / 16) with bias := (s.stack (s.g.core / 16)).bias } = s.stack (s.g.core / 16) ∧
        (t.stack (s.g.core / 16)).bias = if x.toNat % 16 ≤ 4 then (x.toNat % 16 : Int) else (x.toNat % 16 : Int) - 16))

/-- R20, R95, R202, R206, R233-R239, R301, R382-R384, R442, R450: a vector load whose accesses are allowed reads in each active lane
bytes that the core may read, and writes the words of its size and type there; every byte of memory, every other register and
all else are unchanged. A vector load under relaxed or release order may pass while its lanes stay outstanding, to be performed
later; its registers keep their values until then (log 92). A load into a queue register pushes the word each active lane read;
pushing is what R207, R208 and R301 say of each queue. A vector load or store whose lanes all address the host or outbound
windows with a port up sends one request a lane; the load waits for the answers, the store goes on. With every answer there a
load writes their words, or, where answers are failures, writes nothing: the strands that fail as the lowest failing lane does
take its trap (log 76). A load of one lane that meets poison stops its launch with 0x3F and writes nothing. Model's choices in
it: log 1, 78, 79, 112. -/
def Obligations.Loads : Prop :=
  (∀ (s : State) (i : Instr) (k : Fin 176) (a b : Reg) (size : Nat) (f : Nat → List Word),
    LoadForm s i (.v k) a b size f → let u := loadUses s (.v k) a b (max 1 (size / 4))
    OperandsReady s u → (∀ l ∈ s.lanes, Allowed s (vaOf s u b l) size .read ∧ GoodLine s (vaOf s u b l)) →
    ReleaseDone s → NoneOutstanding s → s.bus = [] → Resident s →
    ∃ (t : State) (x : Nat → Nat), Runs i s t ∧ MemoryStep s t sameButCache (fun _ => none) ∧
      (∀ l ∈ s.lanes, ∀ n, n < size → MayRead s s.gk s.g.core (s.pa (vaOf s u b l) + n) (valByte (x l) n)) ∧
      PassesIn s t (fun g => { g with v := t.g.v, bad := t.g.bad }) ∧ LaneWords s t k.val (fun l => f (x l)) ∧
      ∀ e ∈ t.g.bad, e ∈ s.g.bad) ∧
  (∀ (s : State) (i : Instr) (k : Fin 176) (a b : Reg) (size : Nat) (f : Nat → List Word),
    LoadForm s i (.v k) a b size f → let u := loadUses s (.v k) a b (max 1 (size / 4))
    OperandsReady s u → (∀ l ∈ s.lanes, Allowed s (vaOf s u b l) size .read ∧ cacheable (s.pa (vaOf s u b l)) = true) →
    ReleaseDone s → MayFly s → s.bus = [] → Resident s → s.lanes ≠ [] →
    ∃ t, Runs i s t ∧ LeftFlying s t (s.lanes.map fun l => flightAt s l (vaOf s u b l) size
      { dst := .v k.val (max 1 (size / 4)) s.g.held, signed := decide (mType s.mode ∈ [0, 2, 4, 6]) }) id) ∧
  (∀ (s : State) (i : Instr) (q : Fin 16) (a b : Reg) (size : Nat) (f : Nat → List Word),
    LoadForm s i (.q q) a b size f → let u := loadUses s (.q q) a b (max 1 (size / 4))
    OperandsReady s u → (∀ l ∈ s.lanes, Allowed s (vaOf s u b l) size .read ∧ GoodLine s (vaOf s u b l)) →
    ReleaseDone s → NoneOutstanding s → s.bus = [] → Resident s → Sorted s.groups →
    ∃ (t : State) (x : Nat → Nat), Runs i s t ∧ MemoryStep s { t with groups := s.groups } sameButCache (fun _ => none) ∧
      (∀ l ∈ s.lanes, ∀ n, n < size → MayRead s s.gk s.g.core (s.pa (vaOf s u b l) + n) (valByte (x l) n)) ∧
      Pushes s t id s.g.gen q.val (s.lanes.map fun l => (l, (f (x l)).headD 0)) ∧
      Went s.g t.g s.ks fun _ x => x.pass 1) ∧
  ((∀ (s : State) (i : Instr) (d a b : Reg) (size : Nat) (f : Nat → List Word), LoadForm s i d a b size f →
    let u := loadUses s d a b (max 1 (size / 4))
    OperandsReady s u → ReleaseDone s → NoneOutstanding s → s.bus = [] → Resident s → s.lanes ≠ [] → s.lead.wait = none →
    (∀ l ∈ s.lanes, Allowed s (vaOf s u b l) size .read) →
    ∀ rs, AllLeave s .load size s.nextKey (s.lanes.map fun l => (l, vaOf s u b l, 0)) rs →
      ∃ t, Runs i s t ∧ t.remotes = s.remotes ++ rs ∧ (∀ k ∈ s.ks, (t.g.strand k).wait = some .load ∧
        (t.g.strand k).pc = (s.g.strand k).pc) ∧ (∀ x, t.home x = s.home x) ∧ t.g.v = s.g.v) ∧
  (∀ (s : State) (i : Instr) (d a b : Reg) (size : Nat), StoreForm i d a b size →
    let u := storeUses s d a b (max 1 (size / 4))
    OperandsReady s u → ReleaseDone s → NotBegun s → s.bus = [] → Resident s →
    (∀ l ∈ s.lanes, Allowed s (vaOf s u b l) size .write) →
    ∀ rs, AllLeave s .store size s.nextKey (s.lanes.map fun l => (l, vaOf s u b l, BitVec.ofNat 128 (joinWords (src s u 1 l)))) rs →
      ∃ t, Runs i s t ∧ t.remotes = s.remotes ++ rs ∧ (∀ x, t.home x = s.home x) ∧
        PassesIn s t fun g => g.popQueues s.lanes u.pops) ∧
  (∀ (s : State) (i : Instr) (k : Fin 176) (a b : Reg) (size : Nat) (f : Nat → List Word) (c : Begun),
    LoadForm s i (.v k) a b size f → AllAnswered s c → ReleaseDone s → s.bus = [] → Resident s →
    (∀ e ∈ c.accs, ∀ r, answerOf s e = some r → r.fail = none) → (∃ t, Runs i s t ∧
      PassesIn s t (fun g => { g with v := t.g.v, bad := t.g.bad, resp := g.resp.filter (·.jset != s.cur.jset) }) ∧
      ∀ r l, l < 64 → t.g.vr r l = match c.accs.find? (·.lane == l) with
        | some e => if k.val ≤ r ∧ r < c.held then ((f ((answerOf s e).map (·.data.toNat)).get!)[r - k.val]?).getD (s.g.vr r l) else s.g.vr r l
        | none => s.g.vr r l)) ∧
  (∀ (s : State) (i : Instr) (d a b : Reg) (size : Nat) (f : Nat → List Word) (c : Begun),
    LoadForm s i d a b size f → AllAnswered s c → c.accs.map (·.lane) = s.lanes → ReleaseDone s → s.bus = [] →
    (∃ l x, FailsIn s c l x) → ∃ t, Runs i s t ∧ TakesAnswers s t c) ∧
  ∀ (s : State) (i : Instr) (d a b : Reg) (size l : Nat) (f : Nat → List Word), LoadForm s i d a b size f →
    let u := loadUses s d a b (max 1 (size / 4))
    OperandsReady s u → ReleaseDone s → NoneOutstanding s → s.bus = [] → Resident s → s.lanes = [l] →
    Allowed s (vaOf s u b l) size .read → cacheable (s.pa (vaOf s u b l)) = true →
    KeyAgrees s (s.pa (vaOf s u b l) / 128) (s.vkey (vaOf s u b l)) → s.poisoned (s.pa (vaOf s u b l) / 128) = true →
    tfind (s.core s.g.core).l1 (s.pa (vaOf s u b l) / 128) = none → (∀ c ∈ (s.core s.g.core).wcb, c.pa / 128 ≠ s.pa (vaOf s u b l) / 128) →
    ∃ t, Runs i s t ∧ PoisonStops s t l (BitVec.ofNat 64 (vaOf s u b l)) ∧ ∀ x, t.home x = s.home x)

/-- R95, R233-R239, R386: a vector store whose accesses are allowed leaves each active lane's bytes at its address in the core's
write-combining buffer, the highest lane winning, and signs the lines; the bytes of memory where they are performed, and every
other buffered byte, are unchanged. Model's choices in it: log 60. -/
def Obligations.GlobalStores : Prop :=
  ∀ (s : State) (i : Instr) (d a b : Reg) (size : Nat), StoreForm i d a b size →
    let u := storeUses s d a b (max 1 (size / 4))
    OperandsReady s u → (∀ l ∈ s.lanes, Allowed s (vaOf s u b l) size .write ∧ cacheable (s.pa (vaOf s u b l)) = true) →
    ReleaseDone s → NotBegun s → s.bus = [] → Resident s →
    ∃ t, Runs i s t ∧ Stored s t (s.lanes.map fun l => (s.pa (vaOf s u b l), joinWords (src s u 1 l))) size
      (fun g => g.popQueues s.lanes u.pops)

/-- R91, R236, R240: SLD reads 64 bits at s[a] + 8 imm into an s register, whatever the guard, or, under relaxed or release order,
may pass while its access stays outstanding; SST leaves 64 bits of an s register at that address in the write-combining buffer.
Model's choices in it: log 1, 78, 92. -/
def Obligations.ScalarAccesses : Prop :=
  ∀ (s : State) (d a : Fin 64) (imm : BitVec 8), let va := ((s.g.sr a.val).toNat + 8 * imm.toNat) % 2 ^ 64
    s.foreignS d.val = false → s.foreignS a.val = false → ReleaseDone s → s.bus = [] → Resident s →
    (Allowed s va 8 .read → GoodLine s va → NoneOutstanding s → ∃ t, Runs (.sld (.s d) (.s a) imm) s t ∧
      MemoryStep s t sameButCache (fun _ => none) ∧ PassesIn s t (fun g => g.putS d.val (t.g.sr d.val)) ∧
      (∀ n, n < 8 → MayRead s s.gk s.g.core (s.pa va + n) (valByte (t.g.sr d.val).toNat n)) ∧
      ∀ j, j ≠ d.val → t.g.sr j = s.g.sr j) ∧
    (Allowed s va 8 .read → cacheable (s.pa va) = true → MayFly s → ∃ t, Runs (.sld (.s d) (.s a) imm) s t ∧
      LeftFlying s t [flightAt s scalarLane va 8 { dst := .s d.val }] id) ∧
    (Allowed s va 8 .write → cacheable (s.pa va) = true → NotBegun s → ∃ t, Runs (.sst (.s d) (.s a) imm) s t ∧
      Stored s t [(s.pa va, (s.g.sr d.val).toNat)] 8 id)

/-- R177-R180, R210, R233, R234, R240, R244, R374-R377, R442, R450, R458: where accesses of active lanes are not allowed, a vector
load, store or atomic raises the traps of those lanes and does nothing in any; so does EFST with the first word of a window that
is not allowed, and EFLD and EFLDW where no lane's header is; SLD, SST, SAADD and SACAS raise the trap of their one access. The
page checks in their order. An address at or above 2^57 has no translation, nor has one that no TLB entry covers and whose ASID
is not valid or whose root entry is not present: 0x10. For an address in the memory of a stack or an edge die that has a
translation: permission, the key, a tensor page, and a part of the aperture that has vanished. In a fabric window: a window that
is not valid or too small for the address, and one that may not be written; in the host's, an atomic it does not take. Model's
choices in it: log 5, 113. -/
def Obligations.AccessFaults : Prop :=
  ((∀ (s : State) (i : Instr) (u : Uses) (b : Reg) (size : Nat) (acc : Acc),
    ((∃ d a f, LoadForm s i d a b size f ∧ u = loadUses s d a b (max 1 (size / 4)) ∧ acc = .read) ∨
     (∃ d a, StoreForm i d a b size ∧ u = storeUses s d a b (max 1 (size / 4)) ∧ acc = .write) ∨
     (∃ op d a types, AtomicForm i op d a b types ∧ u = atomicUses s op d a b types ∧ size = 4 * atomicWords s ∧
       acc = .atomic (decide (op ∈ [.add, .xchg, .cas])))) →
    OperandsReady s u → s.lead.begun = none → s.bus = [] → (∃ l ∈ s.lanes, ¬ Allowed s (vaOf s u b l) size acc) →
    ∃ t, Runs i s t ∧ TakesLaneTrap s t fun l x => Denied s (vaOf s u b l) size acc x) ∧
  (∀ (s : State) (i : Instr) (d a : Fin 64) (va : Nat) (acc : Acc) (x : Trap),
    ((∃ n, (i = .sld (.s d) (.s a) n ∧ acc = .read ∨ i = .sst (.s d) (.s a) n ∧ acc = .write) ∧
        va = ((s.g.sr a.val).toNat + 8 * n.toNat) % 2 ^ 64) ∨
     (i = .saadd (.s d) (.s a) ∨ i = .sacas (.s d) (.s a) ∧ d.val % 2 = 0) ∧ acc = .atomic true ∧ va = (s.g.sr a.val).toNat) →
    s.foreignS d.val = false → s.foreignS a.val = false → s.lead.begun = none → s.bus = [] → Denied s va 8 acc x →
    ∃ t, Runs i s t ∧ TakesTrap s t x) ∧
  (∀ (s : State) (d : Reg) (a : Fin 64), regIdx d % 2 = 1 → s.bus = [] → ∃ t, Runs (.sacas d (.s a)) s t ∧ TakesTrap s t { cause := 0x03 }) ∧
  ∀ (s : State) (d a b : Reg), let u : Uses := { srcs := [memUse a b], typeOk := !s.badMem a b }
    let va (l i : Nat) : Nat := (vaOf s u b l + 4 * i) % 2 ^ 64
    s.lead.begun = none → s.bus = [] → s.lanes ≠ [] →
    (WindowsReady s [d] none u →
      let count (l : Nat) : Nat := (s.g.vr (regIdx d) l).toNat / 2 ^ 12 % 8 + 1
      (∃ l ∈ s.lanes, ∃ i, i < count l ∧ ¬ Allowed s (va l i) 4 .write) →
      ∃ t, Runs (.efst d a b) s t ∧ TakesLaneTrap s t fun l x => ∃ i, i < count l ∧ Denied s (va l i) 4 .write x ∧
        ∀ j, j < i → Allowed s (va l j) 4 .write) ∧
    (WindowsReady s [] (some d) u → (∀ l ∈ s.lanes, ¬ Allowed s (vaOf s u b l) 4 .read) →
      (∃ t, Runs (.efld d a b) s t ∧ TakesLaneTrap s t fun l x => Denied s (vaOf s u b l) 4 .read x) ∧
      (regIdx d + (s.prec - 13 + 31) / 32 < regIdx a ∨ regIdx a + (memUse a b).2 ≤ regIdx d →
        ∃ t, Runs (.efldw d a b) s t ∧ TakesLaneTrap s t fun l x => Denied s (vaOf s u b l) 4 .read x))) ∧
  ((∀ (s : State) (va : Nat) (acc : Acc),
    (2 ^ 57 ≤ va → s.pcheck va acc = some (0x10, 0)) ∧
    (va < 2 ^ 57 → (∀ e ∈ (s.core s.g.core).tlb, e.asid = s.asidOf s.g → va < e.va ∨ e.va + e.leaf.size ≤ va) →
      (tget {} s.asids (s.asidOf s.g)).flags % 2 = 0 ∨ (s.physFail ((tget {} s.asids (s.asidOf s.g)).root + 8 * (va / 2 ^ 47 % 1024)) = none ∧
        s.homeN ((tget {} s.asids (s.asidOf s.g)).root + 8 * (va / 2 ^ 47 % 1024)) 8 % 2 = 0) → s.pcheck va acc = some (0x10, 0))) ∧
  (∀ (s : State) (va : Nat) (leaf : Leaf) (acc : Acc), s.xlate s.g.core (s.asidOf s.g) va = .ok leaf → leaf.enc = false → leaf.tensor = false →
    let pa := leaf.base + va % leaf.size
    (∀ w, nodeOf pa = .fabric w → let cfg := (s.window w).cfg
      ((cfg.getLsbD 24 = false ∨ cfg.toNat % 64 < 16 ∨ 46 < cfg.toNat % 64 ∨ 2 ^ (cfg.toNat % 64) ≤ pa % 2 ^ 46) → s.pcheck va acc = some (0x10, 2)) ∧
      (cfg.getLsbD 24 = true → 16 ≤ cfg.toNat % 64 → cfg.toNat % 64 ≤ 46 → pa % 2 ^ 46 < 2 ^ (cfg.toNat % 64) → leaf.wr = true → acc ≠ .fetch →
        s.pcheck va acc = if acc.writes = true ∧ cfg.getLsbD 25 = false then some (0x11, 9) else none)) ∧
    (nodeOf pa = .host → leaf.wr = true → acc ≠ .fetch → s.pcheck va acc = if acc = .atomic false then some (0x11, 12) else none)) ∧
  ∀ (s : State) (va : Nat) (leaf : Leaf) (write : Bool), s.xlate s.g.core (s.asidOf s.g) va = .ok leaf →
    cacheable (leaf.base + va % leaf.size) = true → let acc : Acc := if write then .write else .read
    (write = true ∧ leaf.wr = false → s.pcheck va acc = some (0x11, 9)) ∧
    ((write = false ∨ leaf.wr = true) → leaf.enc = true → tfind s.ctl.keys leaf.key = none →
      s.pcheck va acc = some (0x15, BitVec.ofNat 8 leaf.key)) ∧
    ((write = false ∨ leaf.wr = true) → (leaf.enc = false ∨ tfind s.ctl.keys leaf.key ≠ none) → leaf.tensor = true →
      s.pcheck va acc = some (0x13, 0)) ∧
    ((write = false ∨ leaf.wr = true) → (leaf.enc = false ∨ tfind s.ctl.keys leaf.key ≠ none) → leaf.tensor = false →
      s.pcheck va acc = match wayBlock (leaf.base + va % leaf.size) with
        | some j => if (leaf.base + va % leaf.size) / 2 ^ 36 < 8 ∧
            tget 0 (s.core s.g.core).ways ((leaf.base + va % leaf.size) / 2 ^ 36) ≤ j then some (0x14, 0) else none
        | none => none))

/-- R235, R236, R241-R244, R383: the atomics of an instruction are performed at home one lane after another, after the core's own
buffered stores to their lines; each lane's register receives the value its operation found, and memory holds what each left.
SAADD adds an s register to 64 bits of memory, SACAS replaces them where they equal one; each brings the old value. An atomic
under relaxed or release order may pass while its operations stay outstanding, with the operands and the draws of its issue;
they are performed later (log 92). An atomic whose lowest active lane meets a poisoned line stops the launch with 0x3F; neither
its register nor the line changes. Model's choices in it: log 76. -/
def Obligations.AtomicOperations : Prop :=
  (∀ (s : State) (i : Instr) (op : RemoteOp) (d a b : Reg) (types : List Nat), AtomicForm i op d a b types →
    let u := atomicUses s op d a b types
    let acc : Acc := .atomic (decide (op ∈ [.add, .xchg, .cas]))
    OperandsReady s u →
    (∀ l ∈ s.lanes, Allowed s (vaOf s u b l) (4 * atomicWords s) acc ∧ GoodLine s (vaOf s u b l)) →
    ReleaseDone s → NoneOutstanding s → QueuesHaveRoom s → s.bus = [] → Resident s →
    ∃ (t : State) (old : Nat → Nat) (m : Nat → Byte), Runs i s t ∧
      InOrder (4 * atomicWords s) (atomicResult s op d)
        (drainedView s (s.lanes.map fun l => s.pa (vaOf s u b l) / 128))
        (s.lanes.map fun l => (l, s.pa (vaOf s u b l))) old m ∧
      MemoryStep s t (sameButLines (s.lanes.map fun l => s.pa (vaOf s u b l) / 128)) (fun x => some (m x)) ∧
      PassesIn s t (fun g => { s.lanes.foldl (fun g l => g.sign (s.pa (vaOf s u b l) / 128)) g with
        v := t.g.v, bad := t.g.bad, srg := t.g.srg }) ∧
      LaneWords s t (regIdx d) (fun l => if atomicWords s = 2 then
        [BitVec.ofNat 32 (old l), BitVec.ofNat 32 (old l / 2 ^ 32)] else [BitVec.ofNat 32 (old l)]) ∧
      (∀ l, t.g.gen l = if op = .fadd ∧ mRound s.mode = 5 ∧ l ∈ s.lanes then srgStep (s.g.gen l) else s.g.gen l) ∧
      ∀ e ∈ t.g.bad, e ∈ s.g.bad) ∧
  (∀ (s : State) (d a : Fin 64), let va := (s.g.sr a.val).toNat
    let m0 := drainedView s [s.pa va / 128]
    let old := bytesLE m0 (s.pa va) 8
    let after (x : Nat) : Nat → Option Byte := fun n =>
      some (if s.pa va ≤ n ∧ n < s.pa va + 8 then valByte x (n - s.pa va) else m0 n)
    let goes (i : Instr) (x : Nat) : Prop := ∃ t, Runs i s t ∧
      MemoryStep s t (sameButLines [s.pa va / 128]) (after x) ∧
      PassesIn s t (fun g => (g.sign (s.pa va / 128)).putS d.val (BitVec.ofNat 64 old)) ∧
      t.g.sr d.val = BitVec.ofNat 64 old ∧ ∀ j, j ≠ d.val → t.g.sr j = s.g.sr j
    s.foreignS d.val = false → s.foreignS a.val = false → Allowed s va 8 (.atomic true) → GoodLine s va →
    ReleaseDone s → NoneOutstanding s → QueuesHaveRoom s → s.bus = [] → Resident s →
    goes (.saadd (.s d) (.s a)) ((old + (s.g.sr d.val).toNat) % 2 ^ 64) ∧
    (d.val % 2 = 0 → goes (.sacas (.s d) (.s a)) (if old = (s.g.sr d.val).toNat then (s.g.sr (d.val + 1)).toNat else old))) ∧
  ((∀ (s : State) (i : Instr) (op : RemoteOp) (d a b : Reg) (types : List Nat), AtomicForm i op d a b types →
    let u := atomicUses s op d a b types
    let acc : Acc := .atomic (decide (op ∈ [.add, .xchg, .cas]))
    OperandsReady s u →
    (∀ l ∈ s.lanes, Allowed s (vaOf s u b l) (4 * atomicWords s) acc ∧ cacheable (s.pa (vaOf s u b l)) = true) →
    ReleaseDone s → MayFly s → s.bus = [] → Resident s → s.lanes ≠ [] →
    ∃ t, Runs i s t ∧ LeftFlying s t (s.lanes.map fun l => flightAt s l (vaOf s u b l) (4 * atomicWords s)
        { op, dst := .v (regIdx d) (atomicWords s) s.g.held, y := BitVec.ofNat 64 (atomicData s d 0 l)
          z := BitVec.ofNat 64 (if op = .cas then atomicData s d 1 l else 0), signed := typeSigned (mType s.mode)
          round := mRound s.mode, draw := if op = .fadd then drawOf s 1 l 0 else 0, ftz := mFtz s.mode, unit := s.nextKey })
        (fun g => { g with srg := t.g.srg }) ∧
      ∀ l, t.g.gen l = if op = .fadd ∧ mRound s.mode = 5 ∧ l ∈ s.lanes then srgStep (s.g.gen l) else s.g.gen l) ∧
  ∀ (s : State) (d a : Fin 64), let va := (s.g.sr a.val).toNat
    s.foreignS d.val = false → s.foreignS a.val = false → Allowed s va 8 (.atomic true) → cacheable (s.pa va) = true →
    ReleaseDone s → MayFly s → s.bus = [] → Resident s →
    (∃ t, Runs (.saadd (.s d) (.s a)) s t ∧ LeftFlying s t [flightAt s scalarLane va 8 { op := .add, dst := .s d.val, y := s.g.sr d.val }] id) ∧
    (d.val % 2 = 0 → ∃ t, Runs (.sacas (.s d) (.s a)) s t ∧ LeftFlying s t
      [flightAt s scalarLane va 8 { op := .cas, dst := .s d.val, y := s.g.sr d.val, z := s.g.sr (d.val + 1) }] id)) ∧
  (∀ (s : State) (i : Instr) (op : RemoteOp) (d a b : Reg) (types : List Nat) (l : Nat), AtomicForm i op d a b types →
    let u := atomicUses s op d a b types
    let acc : Acc := .atomic (decide (op ∈ [.add, .xchg, .cas]))
    let va := vaOf s u b l
    OperandsReady s u → s.lanes.head? = some l → (∀ m ∈ s.lanes, Allowed s (vaOf s u b m) (4 * atomicWords s) acc) →
    cacheable (s.pa va) = true → KeyAgrees s (s.pa va / 128) (s.vkey va) → s.poisoned (s.pa va / 128) = true →
    (∀ c ∈ (s.core s.g.core).wcb, c.pa / 128 ≠ s.pa va / 128) → ReleaseDone s → NoneOutstanding s → s.bus = [] → Resident s →
    ∃ t, Runs i s t ∧ PoisonStops s t l (BitVec.ofNat 64 va) ∧ ∀ x, t.home x = s.home x)

/-- R210, R224-R226, R230-R232, R461: LDS reads words of the team's scratchpad in each active lane; STS writes them there, the
highest lane winning. No byte of global memory changes. LDS and STS raise the traps of the active lanes whose scratchpad offsets
are unaligned, or past the allocation. An LDS that meets poison stops its launch. Model's choices in it: log 5, 13. -/
def Obligations.LocalAccesses : Prop :=
  (∀ (s : State) (d a : Reg) (imm : BitVec 8) (size : Nat), size = 4 ∨ size = 16 → ReleaseDone s → s.lead.begun = none → s.bus = [] → Resident s →
    let core := (s.alloc s.g).1
    let base := (s.alloc s.g).2.1
    let lu := ldsUses d a size
    let su := stsUses d a size
    (OperandsReady s lu → OffsetsOk s lu imm size →
      (∀ l ∈ s.lanes, s.locPoison core (base + offsetOf s lu imm l) size = false) →
      ∀ k, d = .v k → ∃ t, Runs (if size = 4 then .lds32 d a imm else .lds128 d a imm) s t ∧
        { t with groups := s.groups, nextKey := s.nextKey, cores := s.cores } = s ∧
        (∀ g, g ≠ s.gk → tfind t.groups g = tfind s.groups g) ∧
        (∀ c, c ≠ s.g.core → t.core c = s.core c) ∧ Acquired s (s.core s.g.core) (t.core s.g.core) ∧
        PassesIn s t (fun g => { g with v := t.g.v, bad := t.g.bad }) ∧
        LaneWords s t k.val (fun l => (List.range (size / 4)).map fun w =>
          BitVec.ofNat 32 (bytesLE (s.locByte core) (base + offsetOf s lu imm l + 4 * w) 4)) ∧
        ∀ e ∈ t.g.bad, e ∈ s.g.bad) ∧
    (OperandsReady s lu → OffsetsOk s lu imm size →
      (∀ l ∈ s.lanes, s.locPoison core (base + offsetOf s lu imm l) size = false) → Sorted s.groups →
      ∀ q, d = .q q → ∃ t, Runs (if size = 4 then .lds32 d a imm else .lds128 d a imm) s t ∧
        { t with groups := s.groups, nextKey := s.nextKey, cores := s.cores } = s ∧
        (∀ c, c ≠ s.g.core → t.core c = s.core c) ∧ Acquired s (s.core s.g.core) (t.core s.g.core) ∧
        Pushes s t id s.g.gen q.val (s.lanes.map fun l =>
          (l, BitVec.ofNat 32 (bytesLE (s.locByte core) (base + offsetOf s lu imm l) 4))) ∧
        Went s.g t.g s.ks fun _ x => x.pass 1) ∧
    (OperandsReady s su → OffsetsOk s su imm size →
      ∃ t, Runs (if size = 4 then .sts32 d a imm else .sts128 d a imm) s t ∧
        { t with groups := s.groups, nextKey := s.nextKey, cores := s.cores } = s ∧
        (∀ g, g ≠ s.gk → tfind t.groups g = tfind s.groups g) ∧
        (∀ c, c ≠ s.g.core → c ≠ core → t.core c = s.core c) ∧
        (∀ c, sameButCache (s.core c) { t.core c with mem := (s.core c).mem, memPoison := (s.core c).memPoison }) ∧
        PassesIn s t (fun g => g.popQueues s.lanes su.pops) ∧
        ∀ n, t.locByte core n = (storedAt (s.lanes.map fun l =>
          (base + offsetOf s su imm l, joinWords (src s su 1 l))) size n).getD (s.locByte core n))) ∧
  (∀ (s : State) (d a : Reg) (imm : BitVec 8) (size : Nat) (load : Bool), size = 4 ∨ size = 16 → s.lead.begun = none → s.bus = [] →
    let u : Uses := if load then ldsUses d a size else stsUses d a size
    let i : Instr := if load then (if size = 4 then .lds32 d a imm else .lds128 d a imm)
      else if size = 4 then .sts32 d a imm else .sts128 d a imm
    let bad (m : Nat) : Prop := offsetOf s u imm m % size ≠ 0 ∨ (s.alloc s.g).2.2 < offsetOf s u imm m + size
    OperandsReady s u →
    ((∃ l ∈ s.lanes, bad l) → ∃ t, Runs i s t ∧ TakesLaneTrap s t fun l x => bad l ∧
      x = if offsetOf s u imm l % size ≠ 0 then { cause := 0x0A, taddr := BitVec.ofNat 64 (offsetOf s u imm l) }
        else { cause := 0x12, taddr := BitVec.ofNat 64 (offsetOf s u imm l), detail := 1 }) ∧
    (load = true → OffsetsOk s u imm size → ReleaseDone s → Resident s → ∀ l ∈ s.lanes,
      s.locPoison (s.alloc s.g).1 ((s.alloc s.g).2.1 + offsetOf s u imm l) size = true →
      (∀ m ∈ s.lanes, m < l → s.locPoison (s.alloc s.g).1 ((s.alloc s.g).2.1 + offsetOf s u imm m) size = false) →
      ∃ t, Runs i s t ∧ PoisonStops s t l (BitVec.ofNat 64 (offsetOf s u imm l))))

/-- R245, R246, R386-R388, R390: FENCE under an acquire order drops from the core's L1 the lines that published signatures name,
once its strands' flights are performed, for which it waits; under a release it publishes the group's write signature to every
core of the scope and the core's buffered stores are performed, once every earlier access of its strands is, for which it waits.
PREF and INVL change no register, no byte of memory and no group but their own; INVL drains and drops the line of each active
lane whose address would not fault; after PREF the last such lane's line is in the L1. Model's choices in it: log 1, 23, 61,
102. -/
def Obligations.FencesAndHints : Prop :=
  (∀ (s : State), s.bus = [] → Resident s →
    (ReleaseDone s → (mAcquire s.mode = true → NoFlights s s.gk s.ks) → ∃ t, Runs .fence s t ∧
      { t with groups := s.groups, nextKey := s.nextKey, cores := s.cores } = s ∧
      (∀ g, g ≠ s.gk → tfind t.groups g = tfind s.groups g) ∧ (∀ c, c ≠ s.g.core → t.core c = s.core c) ∧
      Acquired s (s.core s.g.core) (t.core s.g.core) ∧ PassesIn s t id) ∧
    (mRelease s.mode = true → mAcquire s.mode = false → mScope s.mode ∈ [1, 2, 3] → s.lead.released = false → NothingOwed s →
      s.lags.headD false = false → s.unacked = false → s.ks ≠ [] → NoKeys s →
      ∃ t, Runs .fence s t ∧ (∀ a, cacheable a = true → t.home a = s.fresh s.g.core a) ∧
        (t.core s.g.core).wcb = [] ∧ (∀ c, (t.core c).psig = if c ∈ s.scopeCores s.g (mScope s.mode) then
          (s.core c).psig ||| (if mScope s.mode = 1 then s.g.wsig1 else if mScope s.mode = 2 then s.g.wsig2 else s.g.wsig3)
          else (s.core c).psig) ∧
        PassesIn s t (fun g => { g with wsig1 := 0, wsig2 := if 2 ≤ mScope s.mode then 0 else g.wsig2,
                                        wsig3 := if 3 ≤ mScope s.mode then 0 else g.wsig3 })) ∧
    (mRelease s.mode = true → s.lead.released = false → ¬ NothingOwed s → s.ks ≠ [] → (∀ k ∈ s.ks, (s.g.strand k).wait = none) →
      ∃ t, Runs .fence s t ∧ Waits s t .performed) ∧
    (ReleaseDone s → mAcquire s.mode = true → ¬ NoFlights s s.gk s.ks → s.ks ≠ [] → (∀ k ∈ s.ks, (s.g.strand k).wait = none) →
      ∃ t, Runs .fence s t ∧ Waits s t .load)) ∧
  (∀ (s : State) (a b : Reg), let u : Uses := { srcs := [memUse a b], typeOk := !s.badMem a b }
    let live := s.lanes.filter fun l => decide (s.pcheck (vaOf s u b l) .read = none)
    OperandsReady s u → s.bus = [] → Resident s → (∀ l ∈ live, GoodLine s (vaOf s u b l)) → NoKeys s →
    (∃ t, Runs (.pref a b) s t ∧ MemoryStep s t sameButCache (fun _ => none) ∧ PassesIn s t id ∧
      ∀ l, live.getLast? = some l → (tfind (t.core s.g.core).l1 (s.pa (vaOf s u b l) / 128)).isSome = true) ∧
    (∃ t, Runs (.invl a b) s t ∧
      MemoryStep s t (sameButLines (live.map fun l => s.pa (vaOf s u b l) / 128))
        (fun x => some (drainedView s (live.map fun l => s.pa (vaOf s u b l) / 128) x)) ∧ PassesIn s t id ∧
      ∀ l ∈ live, tfind (t.core s.g.core).l1 (s.pa (vaOf s u b l) / 128) = none))

/-- R20, R190, R205-R208, R301: a lane instruction with a queue register as its destination pushes one word from each of its lanes,
in lane order. A lane instruction whose queue registers lack an entry to pop, or room to push, in an active lane waits for them,
a pop of q2 or q3 for the glaze, and pops nothing. Model's choices in it: log 14, 15, 103. -/
def Obligations.LaneQueues : Prop :=
  (∀ (s : State) (u : Uses) (n w : Nat) (q : Fin 16) (rs : List (Nat × List Word)), (.q q, 1) ∈ u.dsts → OperandsReady s u →
    (rs.map (·.1)).Sublist s.lanes → s.bus = [] → Stays s w → Sorted s.groups →
    let t := commit s (s.done (((s.onG fun g => g.popQueues s.lanes u.pops).drawAll n).writeDst (.q q) rs) w)
    Pushes s t (fun g => g.popQueues s.lanes u.pops)
        (fun l => if l ∈ s.lanes then (srgDraws (s.g.gen l) n).getLastD (s.g.gen l) else s.g.gen l) q.val
        (rs.map fun e => (e.1, e.2.headD 0)) ∧
      { t with groups := s.groups, nextKey := s.nextKey } = s ∧ Went s.g t.g s.ks fun _ x => x.pass w) ∧
  (∀ (s : State) (i : Instr) (u : Uses), LaneForm s i u → s.bus = [] →
    ¬ ClassBroken s u → ¬ HoldBroken s u → s.queueTraps s.g s.lanes (u.pops ++ u.pushes) = [] →
    s.queuesReady s.g s.lanes (u.pops ++ u.pushes) = false → (∀ k ∈ s.ks, (s.g.strand k).wait = none) →
    let needs := u.pops ++ u.pushes
    ∃ t, Runs i s t ∧ Waits s t (if needs.any fun e => e.1 == 2 || e.1 == 3 then .glzPop needs else .queue needs))

/-- R67, R68, R177-R180: EFLD and EFLDW read a window at each active lane's address and write what rounding its value to P gives,
EFLDW also moving the address past the window; EFST leaves the words of each active lane's window at its address. EFLDW whose
address registers lie in its window raises 0x05. Model's choices in it: log 1, 78. -/
def Obligations.ElasticMemory : Prop :=
  ∀ (s : State) (d a b : Reg), let u : Uses := { srcs := [memUse a b], typeOk := !s.badMem a b }
    let va (l i : Nat) : Nat := (vaOf s u b l + 4 * i) % 2 ^ 64
    let apart : Prop := regIdx d + (s.prec - 13 + 31) / 32 < regIdx a ∨ regIdx a + (memUse a b).2 ≤ regIdx d
    s.bus = [] → Resident s → ReleaseDone s →
    (∀ walk : Bool, WindowsReady s [] (some d) u → (walk = true → s.lanes = [] ∨ apart) →
      NoneOutstanding s →
      (∀ l ∈ s.lanes, ∀ ws, MayReadWindow s (va l) ws →
        (∀ i, i < ws.length → Allowed s (va l i) 4 .read ∧ GoodLine s (va l i)) ∧
        (mExact s.mode = true → efExhausted s.prec (.ofVal (efDecode (ws.headD 0) ws.tail)) = none)) →
      ∃ (t : State) (ws : Nat → List Word), Runs (if walk then .efldw d a b else .efld d a b) s t ∧
        MemoryStep s t sameButCache (fun _ => none) ∧ (∀ l ∈ s.lanes, MayReadWindow s (va l) (ws l)) ∧
        PassesIn s t (fun g => { g with v := t.g.v, bad := t.g.bad, srg := t.g.srg }) ∧
        (∀ r l, l < 64 → t.g.vr r l =
          if l ∈ s.lanes ∧ walk = true ∧ regIdx a ≤ r ∧ r < regIdx a + (memUse a b).2 then
            BitVec.ofNat 32 ((joinWords (src s u 0 l) + 4 * (ws l).length) / 2 ^ (32 * (r - regIdx a)))
          else if l ∈ s.lanes ∧ regIdx d ≤ r then
            ((efRound s.prec (mRound s.mode) (drawOf s 1 l 0) l s.pc
              (.ofVal (efDecode ((ws l).headD 0) (ws l).tail)))[r - regIdx d]?).getD (s.g.vr r l)
          else s.g.vr r l) ∧
        (∀ l, t.g.gen l = if mRound s.mode = 5 ∧ l ∈ s.lanes then srgStep (s.g.gen l) else s.g.gen l) ∧
        ∀ e ∈ t.g.bad, e ∈ s.g.bad) ∧
    (WindowsReady s [] (some d) u → s.lanes ≠ [] → ¬ apart → s.lead.begun = none →
      ∃ t, Runs (.efldw d a b) s t ∧ TakesLaneTrap s t fun _ x => x = { cause := 0x05 }) ∧
    (WindowsReady s [d] none u → NotBegun s →
      let count (l : Nat) : Nat := (s.g.vr (regIdx d) l).toNat / 2 ^ 12 % 8 + 1
      (∀ l ∈ s.lanes, ∀ i, i < count l → Allowed s (va l i) 4 .write ∧ cacheable (s.pa (va l i)) = true) →
      ∃ t, Runs (.efst d a b) s t ∧
        Stored s t (s.lanes.flatMap fun l => (List.range (count l)).map fun i =>
          (s.pa (va l i), (s.g.vr (regIdx d + i) l).toNat)) 4 id)

/-- R190, R228, R229, R235, R247-R253, R382, R386, R395, R458: CPY and CPYT whose descriptor and records are in order start a copy
on a free token, or end it at once where it has no rows; every byte the core had buffered is performed first. CPY and CPYT wait
while their token is in progress; then the first of their checks that fails raises its trap, and no token changes and nothing is
transferred. A row of a copy whose sides pass their checks is read whole and written to each destination that stands; the token
counts it, and after the last row is done, or partial where a write was lost. A row that fails leaves every byte as it was and
the token faulted with the source's failure, or else the destination's: a source's check first, and of poison and failed answers
the one at the lowest address, once every answer is there. A row whose writes left the package counts, and signs its lines, once
they are acknowledged. What a row brings to local memory carries the key tags of its source (log 115). Model's choices in it:
log 20, 28, 87. -/
def Obligations.Copies : Prop :=
  (∀ (s : State) (k : BitVec 3) (flags : BitVec 5) (a b : Fin 64), let flag (i : Nat) : Bool := flags.getLsbD i
    let o := (s.g.sr a.val).toNat
    let row := (s.g.token k.toNat).row.toNat
    s.foreignS a.val = false → (s.g.token k.toNat).state ≠ 1 → ReleaseDone s → s.bus = [] → Resident s →
    (let mask := field s (o + 0x14) 4 / 2 ^ 28
      let dst := field s (o + 8) 8
      let targets := (List.range 4).filterMap fun c => if mask / 2 ^ c % 2 = 1 then some (s.clusterTarget c) else none
      CopyOk s (flag 0) (flag 1) (flag 3) o (if flag 2 then row else 0) →
      ∃ t, Runs (.cpy k flags (.s a)) s t ∧
        CopyIssued s t k.toNat (if flag 2 then row else 0) (field s (o + 0x14) 4 % 2 ^ 24)
          (field s (o + 0x10) 4 = 0 ∨ (flag 3 = true ∧ mask = 0) : Bool) fun x =>
            SideIs s (flag 0) (field s o 8) x.src ∧ x.tile = none ∧ x.rowbytes = field s (o + 0x10) 4 ∧
            x.sstride = (BitVec.ofNat 32 (field s (o + 0x18) 4)).toInt ∧
            x.dstride = (BitVec.ofNat 32 (field s (o + 0x1C) 4)).toInt ∧
            (flag 3 = true → x.lossy = true ∧ x.missing = targets.countP (·.isNone) ∧
              x.dsts = targets.filterMap fun t => t.map fun t => .loc t.core t.team t.base t.size (recBase dst)) ∧
            (flag 3 = false → x.missing = 0 ∧ (recWhere dst = 0 → x.lossy = false) ∧
              ∃ y, x.dsts = [y] ∧ SideIs s (flag 1) dst y)) ∧
    (let hnd := (s.g.sr b.val).toNat
      let e := (s.handleEntry s.g.core (s.asidOf s.g) hnd).1
      let rows := field s (o + 0x14) 4 * field s (o + 0x18) 4 * field s (o + 0x1C) 4
      s.foreignS b.val = false → DescriptorOk s o → recBase (field s o 8) % 4 = 0 → hnd < 4096 →
      s.handleValid s.g.core (s.asidOf s.g) e = true → field s (o + 8) 4 + field s (o + 0x14) 4 ≤ e.n0 →
      field s (o + 0x0C) 4 + field s (o + 0x18) 4 ≤ e.n1 → field s (o + 0x10) 4 + field s (o + 0x1C) 4 ≤ e.n2 →
      RecordFits s (field s o 8) false s.ownTarget (fun x n => rows ≠ 0 ∧ x = 0 ∧ n = rows * e.b) →
      ∃ t, Runs (.cpyt k flags (.s a) (.s b)) s t ∧
        CopyIssued s t k.toNat (if flag 1 then row else 0) rows (rows = 0 : Bool) fun x =>
          SideIs s true (field s o 8) x.src ∧ x.rowbytes = e.b ∧ x.toTensor = flag 0 ∧ x.missing = 0 ∧
          x.tile = some (if flag 0 = true ∧ e.flags / 2 % 2 = 1 then e.under else e.front, e.d, e,
            [field s (o + 8) 4, field s (o + 0x0C) 4, field s (o + 0x10) 4],
            [field s (o + 0x14) 4, field s (o + 0x18) 4, field s (o + 0x1C) 4]))) ∧
  (∀ (s : State) (k : BitVec 3) (flags : BitVec 5) (a b : Reg), s.bus = [] →
    let o := (s.g.sr (regIdx a)).toNat
    let r0 := if flags.getLsbD 2 then (s.g.token k.toNat).row.toNat else 0
    (NotScalar s a → ∃ t, Runs (.cpy k flags a) s t ∧ TakesTrap s t { cause := 0x03 }) ∧
    (NotScalar s a ∨ NotScalar s b → ∃ t, Runs (.cpyt k flags a b) s t ∧ TakesTrap s t { cause := 0x03 }) ∧
    (¬ NotScalar s a → (s.g.token k.toNat).state = 1 → s.lead.wait = none →
      ∃ t, Runs (.cpy k flags a) s t ∧ Waits s t (.token (1 <<< k.toNat))) ∧
    (¬ NotScalar s a → ¬ NotScalar s b → (s.g.token k.toNat).state = 1 → s.lead.wait = none →
      ∃ t, Runs (.cpyt k flags a b) s t ∧ Waits s t (.token (1 <<< k.toNat))) ∧
    (¬ NotScalar s a → (s.g.token k.toNat).state ≠ 1 →
      ∀ x, FirstFails (copyChecks s (flags.getLsbD 0) (flags.getLsbD 1) (flags.getLsbD 3) o r0) x →
        ∃ t, Runs (.cpy k flags a) s t ∧ TakesTrap s t x) ∧
    (¬ NotScalar s a → ¬ NotScalar s b → (s.g.token k.toNat).state ≠ 1 →
      ∀ x, FirstFails (tileChecks s o (s.g.sr (regIdx b)).toNat) x → ∃ t, Runs (.cpyt k flags a b) s t ∧ TakesTrap s t x)) ∧
  (∀ (s : State) (core idx : Nat) (c : Copy), (s.core core).copies[idx]? = some c → s.bus = [] →
    let asid := (s.launch c.launch).lrec.asid
    let src := (c.rowSides c.row).1
    let dsts := (c.rowSides c.row).2.1
    let n := c.rowbytes
    let denied := s.sideFault core asid src n .read c.tile.isSome
    let asked := s.outState core asid c src n
    let bad := (denied.or (s.readFault core asid src n asked.2)).or (dsts.findSome? fun d => s.sideFault core asid d n .write c.tile.isSome)
    let counted (lost : Nat) : Token :=
      { state := if c.row + 1 < c.rows then 1 else if c.lost + lost = 0 then 0 else 3, row := BitVec.ofNat 24 (c.row + 1) }
    (∀ f x a, s.readFault core asid src n f = some (x, a) ↔
      (s.sidePoison core asid src n = some a ∧ x = 0x3F ∧ ∀ e, f = some e → a ≤ e.2) ∨
      (f = some (x, a) ∧ ∀ b, s.sidePoison core asid src n = some b → a < b)) ∧
    (∀ lc m b z o, src = .loc lc m b z o → 0 < n → ∀ a, s.sidePoison core asid src n = some a ↔
      o.toNat ≤ a ∧ a < o.toNat + n ∧ (b + a) / 128 ∈ (s.core lc).memPoison ∧
      ∀ x, o.toNat ≤ x → x < a → (b + x) / 128 ∉ (s.core lc).memPoison) ∧
    (s.rowOut c = true → Runs (.copyRow core idx) s s) ∧
    (c.sent = true → s.rowOut c = false → ∃ t, Runs (.copyRow core idx) s t ∧ { t with groups := s.groups, cores := s.cores } = s ∧
        (∀ k, k ≠ c.group → tfind t.groups k = tfind s.groups k) ∧
        t.grp c.group = (c.signs.foldl (fun g l => g.sign l) (s.grp c.group)).setToken c.tok (counted c.gone) ∧
        (∀ k, k ≠ core → tfind t.cores k = tfind s.cores k) ∧
        (t.core core).copies = (if c.row + 1 < c.rows then
          lset (s.core core).copies idx { c with row := c.row + 1, lost := c.lost + c.gone, sent := false, gone := 0, signs := [] }
          else ldel (s.core core).copies idx)) ∧
    (c.sent = false → s.rowOut c = false → denied = none → asked.1 ≠ [] → (∀ r ∈ s.loads, r.group = c.group → r.jset ≠ copySet c.tok) → ∃ t, Runs (.copyRow core idx) s t ∧
      t.cores = s.cores ∧ (∀ a, t.home a = s.home a) ∧ (∀ k, k ≠ c.group → tfind t.groups k = tfind s.groups k) ∧
      ∀ p ∈ asked.1, (∃ r ∈ t.remotes, r.group = c.group ∧ r.jset = copySet c.tok ∧ r.op = .load ∧ r.pa = s.paOf core asid p.1) ∨
        ∃ r ∈ (t.grp c.group).resp, r.jset = copySet c.tok ∧ r.pa = s.paOf core asid p.1 ∧ r.fail = some (0x10, 3)) ∧
    (c.sent = false → c.gone = 0 → s.rowOut c = false → (denied = none → asked.1 = []) →
      (denied = none → s.readFault core asid src n asked.2 = none → SideGood s core asid src n) →
      (∀ e, bad = some e → ∃ t, Runs (.copyRow core idx) s t ∧
        RowFrame s t core c { state := 2, cause := e.1.setWidth 6, row := BitVec.ofNat 24 c.row, addr := BitVec.ofNat 64 e.2 } ∧
        (t.core core).copies = ldel (s.core core).copies idx ∧ t.mem = s.mem ∧ (∀ a, t.home a = s.home a) ∧
        ∀ k a, t.locByte k a = s.locByte k a) ∧
      (bad = none → (∀ d ∈ dsts, SideGood s core asid d n) →
        (dsts.length = 1 ∨ (dsts.map fun d => match d with | .loc k _ _ _ _ => k | .glob _ => 128).Nodup ∧
          ∀ d ∈ dsts, ∃ k m b z o, d = .loc k m b z o) →
        ∃ (t : State) (lost : Nat) (wrote : List Nat), Runs (.copyRow core idx) s t ∧ RowFrame s t core c (counted lost) ∧
          lost = c.missing + (dsts.countP fun d => c.lossy && !s.sideStands c.launch d n) ∧
          (t.core core).copies = (if c.row + 1 < c.rows then
            lset (s.core core).copies idx { c with row := c.row + 1, lost := c.lost + lost, wrote, signs := [] }
            else ldel (s.core core).copies idx) ∧
          (∃ lines, wrote = c.wrote ++ lines ∧ (t.grp c.group).wsig1 = (lines.foldl (fun g l => g.sign l) (s.grp c.group)).wsig1) ∧
          (∀ k m b z o, .loc k m b z o ∈ dsts → ¬ Lost s c (.loc k m b z o) → ∀ i, i < n → i = 0 ∨ (b + o.toNat + i) % 128 = 0 →
            tfind (t.core k).memKey ((b + o.toNat + i) / 128) = s.sideKey core asid src i) ∧
          (t.core core).mcdrop = BitVec.ofNat 32 (min ((s.core core).mcdrop.toNat + lost) (2 ^ 32 - 1)) ∧
          (∀ d ∈ dsts, ¬ Lost s c d → ∀ i, i < n → Lands s t core asid d i (sourceByte s core asid src i)) ∧
          (∀ a, (∀ d ∈ dsts, ¬ coversGlobal s core asid d n a) → t.home a = s.home a) ∧
          ∀ k a, (∀ d ∈ dsts, coversLocal d n k a → Lost s c d) → t.locByte k a = s.locByte k a)))

/-- R229, R255, R258-R265, R267, R270, R274-R277, R279, R280, R282-R284: MMA, MMAR, ACCZ, ACCLD, ACCST and ACCDR that pass their
checks put their operations at the end of the core's engine with all that they capture, and change nothing else. A matrix
instruction waits while the engine has no room for its operations; then the first of its checks that fails raises its trap, and
nothing is queued. ACCRD reads its tile's elements into the active lanes, ACCWR queues a write of theirs, MWAIT passes once the
set's matrix operations have completed and waits until then, and MSCL sets one per-tensor scale. Model's choices in it: log 25,
89. -/
def Obligations.MatrixInstructions : Prop :=
  (∀ (s : State) (i : Instr) (rs : List Nat) (w : Nat) (ops : List MatOp), MatRule s i rs w ops →
    (∀ r ∈ rs, s.foreignS r = false) → s.bus = [] → Stays s w →
    ∃ t, Runs i s t ∧ CoreStep s t sameButMats ∧ PassesBy s t w id ∧ Queued s t ops) ∧
  (∀ (s : State) (i : Instr) (rs : List Reg) (n : Nat) (Ps : List (Trap → Prop)), MatChecks s i rs n Ps → s.bus = [] → s.ks ≠ [] →
    ((∃ r ∈ rs, NotScalar s r) → ∃ t, Runs i s t ∧ TakesTrap s t { cause := 0x03 }) ∧
    ((∀ r ∈ rs, ¬ NotScalar s r) → 0 < n → 64 < (s.core s.g.core).mats.length + n → s.lead.wait = none →
      ∃ t, Runs i s t ∧ Waits s t (.matrixRoom n)) ∧
    ((∀ r ∈ rs, ¬ NotScalar s r) → n = 0 ∨ (s.core s.g.core).mats.length + n ≤ 64 → ∀ x, FirstFails Ps x →
      ∃ t, Runs i s t ∧ TakesTrap s t x)) ∧
  (∀ (s : State), s.bus = [] → Stays s 1 →
    (∀ (k : Fin 176) (a : Fin 64), let r := (s.g.sr a.val).toNat
      s.foreignS a.val = false → TileRegs s k.val → RegionOk s r true true → NoMatrixWork s →
      ∃ t, Runs (.accrd (.v k) (.s a)) s t ∧ OnlyIssuer s t ∧
        PassesIn s t (fun g => { g with v := t.g.v, bad := t.g.bad }) ∧
        LaneWords s t k.val (fun l => (List.range (256 / s.g.width)).map fun j =>
          s.accWord s.g.core (accFirst s + r % 256 + (j * s.g.width + l) / 16) (r / 256 % 256 + (j * s.g.width + l) % 16)) ∧
        ∀ e ∈ t.g.bad, e ∈ s.g.bad) ∧
    (∀ (d : Fin 64) (k : Fin 176), let r := (s.g.sr d.val).toNat
      s.foreignS d.val = false → TileRegs s k.val → RegionOk s r true true → (s.core s.g.core).mats.length + 1 ≤ 64 →
      ∃ t words, Runs (.accwr (.s d) (.v k)) s t ∧ CoreStep s t sameButMats ∧ PassesIn s t id ∧
        Queued s t [{ regionOp s .write r 0 with words }] ∧ (words.map (·.1)).Nodup ∧
        ∀ e, e < 256 → tfind words e =
          if e % s.g.width ∈ s.lanes then some (s.g.vr (k.val + e / s.g.width) (e % s.g.width)) else none) ∧
    (NoMatrixWork s → ∃ t, Runs .mwait s t ∧ Passes s t 1 id) ∧
    (¬ NoMatrixWork s → s.lead.wait = none → ∃ t, Runs .mwait s t ∧ Waits s t .matrix) ∧
    ∀ a b : Fin 64, s.foreignS a.val = false → s.foreignS b.val = false →
      ∃ t, Runs (.mscl (.s a) (.s b)) s t ∧ Passes s t 1 (fun g => { g with scl := t.g.scl }) ∧
        ∀ k, t.g.scale k = if k = (s.g.sr a.val).toNat % 8 then (s.g.sr b.val).setWidth 32 else s.g.scale k)

/-- R64, R264, R266, R269, R271, R275-R278, R280, R281: a matrix operation that may complete has its effect on the accumulator
store, the scratchpad or memory, and leaves every other element and byte; a drain with a merge stays until the merge, which
raises its word to the largest magnitude. A pass takes the oldest multiply that may start and up to fifteen others with its B,
which is read once for them all. Model's choices in it: log 3, 24, 121. -/
def Obligations.MatrixCompletes : Prop :=
  (∀ (s : State) (core idx : Nat) (m : MatOp), Completes s core idx m → m.col + m.cols ≤ 256 →
    (m.kind = .mma ∨ m.kind = .write → m.rows = 16 ∧ m.cols = 16) →
    (m.kind = .write → (m.words.map (·.1)).Nodup ∧ ∀ e ∈ m.words, e.1 < 256) →
    (m.kind = .drain → ∀ pa, m.tilePa = some pa → ∀ a, tileByteAt s core m a ≠ none → KeyAgrees s (a / 128) m.tileKey) →
    s.bus = [] → ∃ t, Runs (.matrixOpComplete core idx) s t ∧ MatEffect s t core m ∧
      (∀ r c, c < 256 → ¬ inRegion m r c → t.accWord core r c = s.accWord core r c) ∧
      (∀ a, t.home a = (tileByteAt s core m a).getD (s.home a)) ∧
      (if m.kind = .drain ∧ m.merge ≠ none then
        ∃ mx : Word, (t.core core).mats = lset (s.core core).mats idx { m with drained := true, mergeMax := mx } ∧
          (∀ i j, i < m.rows → j < m.cols → (s.accWord core (m.row + i) (m.col + j)).toNat % 2 ^ 31 ≤ mx.toNat) ∧
          (mx = 0 ∨ ∃ i j, i < m.rows ∧ j < m.cols ∧ mx.toNat = (s.accWord core (m.row + i) (m.col + j)).toNat % 2 ^ 31)
       else (t.core core).mats = ldel (s.core core).mats idx) ∧
      { t with cores := s.cores, stackTab := s.stackTab, edge := s.edge, mem := s.mem, poison := s.poison, free := s.free } = s ∧
      sameButEngine (s.core core) (t.core core) ∧ (m.kind ≠ .mma → (t.core core).encerr = (s.core core).encerr) ∧
      ∀ c, c ≠ core → { t.core c with mem := (s.core c).mem, memPoison := (s.core c).memPoison } = s.core c) ∧
  (∀ (s : State) (core idx pa : Nat) (m : MatOp), (s.core core).mats[idx]? = some m → m.drained = true →
    m.merge = some pa → MergeMay s m → (s.grp m.group).core = core → pa % 4 = 0 → QueuesHaveRoom s →
    cacheable pa = true → KeyAgrees s (pa / 128) m.mergeKey → s.poisoned (pa / 128) = false →
    pa / 128 ∉ (s.core core).wcbPoison →
    (tfind (s.core core).wcbKey (pa / 128) = m.mergeKey ∨ ∀ c ∈ (s.core core).wcb, c.pa / 128 ≠ pa / 128) →
    s.bus = [] → ∃ t, Runs (.accdrMerge core idx) s t ∧ (t.core core).mats = ldel (s.core core).mats idx ∧
      (∀ a, t.home a = if pa ≤ a ∧ a < pa + 4 then valByte (max (bytesLE (s.fresh core) pa 4) m.mergeMax.toNat) (a - pa)
        else if a / 128 = pa / 128 then s.fresh core a else s.home a) ∧
      { t with groups := s.groups, cores := s.cores, stackTab := s.stackTab, edge := s.edge, mem := s.mem,
               poison := s.poison } = s ∧ (∀ c, c ≠ core → tfind t.cores c = tfind s.cores c) ∧
      t.groups = (s.sign m.group (pa / 128)).groups) ∧
  ∀ (s : State) (core : Nat) (before after : List MatOp) (a : MatOp), let ms := (s.core core).mats
    let joins (m : MatOp) : Prop := (∃ p q, ms = p ++ m :: q ∧ CanStart p m) ∧ m.bCore = a.bCore ∧ m.bOff = a.bOff ∧
      m.bStride = a.bStride ∧ m.fbSlot = a.fbSlot ∧ m.tb = a.tb ∧ m.arrived < a.arrived + 8
    ms = before ++ a :: after → (ms.map (·.id)).Nodup → CanStart before a →
    (∀ p m q, before = p ++ m :: q → ¬ CanStart p m) → s.bus = [] → ∃ (t : State) (pass : List Nat) (rows : List (List Byte)),
      Runs (.matrixPassStart core) s t ∧ { t with cores := s.cores, free := s.free } = s ∧
      (∀ c, c ≠ core → tfind t.cores c = tfind s.cores c) ∧ { t.core core with mats := ms } = s.core core ∧
      (t.core core).mats = (ms.map fun m => if m.id ∈ pass then { m with bRows := some rows } else m) ∧
      a.id ∈ pass ∧ pass.length ≤ 16 ∧ (∀ x ∈ pass, ∃ m ∈ ms, m.id = x ∧ joins m) ∧
      (∀ m ∈ ms, joins m → m.id ∈ pass ∨ pass.length = 16) ∧ rows.length = 16 ∧
      ∀ m ∈ ms, m.id ∈ pass → ∀ i x, i < 16 → x < rowBytes m.fb (kOf m) →
        (rows.getD i []).getD x 0 = s.engByte a.bCore (a.bOff + i * a.bStride + x)

/-- R297, R299-R302, R307-R309, R311, R313: GLZJOIN binds the unit at its rank and takes a carry held for it; GLZCFG acts at once,
at the next tile, or waits for the open one; GLZEND closes the tile; GLZBAR and GLZLEAVE close it and pass once the round has
completed; GLZCIN writes the latest carry-in. Where they may not run they trap. Model's choices in it: log 31, 34, 104. -/
def Obligations.GlazeInstructions : Prop :=
  ∀ (s : State), s.bus = [] → Resident s → let z := s.g.glz
    (∀ i x, GlazeTrap s i x → ∃ t, Runs i s t ∧ TakesTrap s t x) ∧
    (∀ (a b : Fin 64), let w := s.g.sr a.val
      let c := glazeConfig s w (s.g.sr b.val)
      let opens : Prop := ∀ x, z.tile = some x → x.closed = false ∧ x.elems = []
      let cin := if z.rank = 0 then some (firstCarry s c) else z.cin
      s.lau.glaze = true → z.joined = true → s.foreignS a.val = false → s.foreignS b.val = false → w.toNat % 8 < 6 →
      w.toNat / 8 % 2 = 0 → w.toNat / 2 ^ 7 % 2 ^ 9 = 0 → w.toNat < 2 ^ 32 →
      (opens → ∃ t, Runs (.glzcfg (.s a) (.s b)) s t ∧ UnitStep s t ∧
        { t.g.glz with store := z.store, sent := z.sent, owed := z.owed } = { z with
          cfg := some c, pend := none, tile := some { cfg := c, closed := decide (c.count = 0) }, cin
          carry := if z.rank = 0 then cin else z.carry } ∧
        (∀ agg l, l < 64 → owed t.g agg l = owed s.g agg l) ∧
        if c.count = 0 then SentOnce s t s.gk { cfg := c } cin else t.g.glz.sent = z.sent ∧ t.launches = s.launches) ∧
      (∀ x, z.tile = some x → x.closed = true → ∃ t, Runs (.glzcfg (.s a) (.s b)) s t ∧
        Passes s t 1 fun g => { g with glz := { z with cfg := some c, pend := none } }) ∧
      ∀ x, z.tile = some x → x.closed = false → x.elems ≠ [] → ∃ t, Runs (.glzcfg (.s a) (.s b)) s t ∧
        Passes s t 1 fun g => { g with glz := { z with pend := some c } }) ∧
    (∀ a : Fin 64, let r := (s.g.sr a.val).toNat
      let c := if r ∈ s.lau.chain.toldNot then none else tfind s.lau.chain.slots r
      s.foreignS a.val = false → s.lau.glaze = true → r < s.lau.lrec.chainLen → s.lau.chain.at_ r = .never →
      z.joined = false → ((s.core s.g.core).glz = none ∨ (s.core s.g.core).glz = some s.gk) →
      (∀ e ∈ s.groups, e.1 ≠ s.gk → e.2.launch = s.g.launch → e.2.glz.joined = true → e.2.glz.rank ≠ r) →
      Sorted s.groups → (tfind s.groups s.gk).isSome = true →
      ∃ t, Runs (.glzjoin (.s a)) s t ∧ GlazeStep s t ∧ (t.core s.g.core).glz = some s.gk ∧
        (∀ k, k ≠ s.g.core → (t.core k).glz = (s.core k).glz) ∧
        PassesIn s t (fun g => { g with glz := { rank := r, joined := true, cin := c, carry := c } }) ∧
        t.lau.chain.at_ r = .core s.g.core ∧ (∀ k, k ≠ r → t.lau.chain.at_ k = s.lau.chain.at_ k) ∧
        { t.lau.chain with map := s.lau.chain.map, slots := s.lau.chain.slots } = s.lau.chain ∧
        ∀ k, tfind t.lau.chain.slots k = if k = r ∧ c ≠ none then none else tfind s.lau.chain.slots k) ∧
    (s.lau.glaze = true → z.joined = true → z.tile = none → ∃ t, Runs .glzend s t ∧ Passes s t 1 id) ∧
    (s.lau.glaze = true → z.joined = true → s.g.q0 = [] → ∀ x, z.tile = some x →
      (s.g.q1 = [] → ∃ t, Runs .glzend s t ∧ UnitStep s t ∧
        { t.g.glz with store := z.store, sent := z.sent, owed := z.owed } = { z with
          tile := some { x with closed := true, moved := if z.cin = none then x.moved else x.elems.length } } ∧
        SentOnce s t s.gk x z.cin ∧ (∀ l, l < 64 → owed t.g true l = owed s.g true l ++ aggregateOf x l) ∧
        ∀ l, l < 64 → owed t.g false l = owed s.g false l ++ (match z.cin with | some c => resultsOf x c l | none => [])) ∧
      (s.g.q1 ≠ [] → x.closed = false → x.cfg.code.toNat < 4 → z.room ≠ 0 →
        ∃ t, Runs .glzend s t ∧ TakesTrap s t { cause := 0x30, detail := 5 })) ∧
    (∀ leave : Bool, let i : Instr := if leave then .glzleave else .glzbar
      (s.lead.issued = true → ∃ t, Runs i s t ∧ Passes s t 1 id) ∧
      (s.lead.issued = false → s.lau.glaze = true → z.joined = true → s.g.q0 = [] → s.g.q1 = [] →
        (∀ k ∈ s.ks, (s.g.strand k).wait = none) → ∃ t, Runs i s t ∧
          { t with groups := s.groups, launches := s.launches, ctl := s.ctl } = s ∧
          t.g.glz.leaving = (leave || z.leaving) ∧ t.g.glz.round = z.round ∧
          (∃ x, t.g.glz.tile = some x ∧ x.closed = true ∧ x.elems = match z.tile with | some y => y.elems | none => []) ∧
          ∀ k, if k ∈ s.ks then (t.g.strand k).wait = some (.glzRound z.round leave) ∧ (t.g.strand k).issued = true ∧
              (t.g.strand k).pc = (s.g.strand k).pc
            else t.g.strand k = s.g.strand k)) ∧
    ∀ k : Fin 176, s.lau.glaze = true → z.joined = true → k.val + 1 ≤ s.g.held →
      (∀ c, z.carry = some c → ∃ t, Runs (.glzcin (.v k)) s t ∧ Passes s t 1 (fun g => { g with v := t.g.v, bad := t.g.bad }) ∧
        LaneWords s t k.val (fun _ => [c]) ∧ ∀ e ∈ t.g.bad, e ∈ s.g.bad) ∧
      (z.carry = none → s.lead.wait = none → ∃ t, Runs (.glzcin (.v k)) s t ∧ Waits s t .glzCarry)

/-- R302-R304, R307-R309, R311: the unit of a rank takes words in order and closes its tile at its count; a carry that reaches a
rank gives every element its result and is passed on; a round's completion begins the next round at a rank, or lets the rank
leave; results enter their queues oldest first as far as there is room. Model's choices in it: log 31, 33, 34, 122. -/
def Obligations.GlazeEvents : Prop :=
  ∀ (s : State) (k : Nat) (g : Group), tfind s.groups k = some g → s.bus = [] → Sorted s.groups → let z := g.glz
    let launch := s.launch g.launch
    (∀ x, z.joined = true → z.tile = some x → x.closed = false → x.moved ≤ x.elems.length →
      let n := min 32 (min (if 4 ≤ x.cfg.code.toNat then g.q1.length else min g.q0.length g.q1.length) z.room)
      let new : List GlzElem := (List.range n).map fun i =>
        { a := if x.cfg.code = 4 then 0x3F800000 else if 4 < x.cfg.code.toNat then 1 else (g.q0.getD i (0, 0)).2
          b := (g.q1.getD i (0, 0)).2, lane := (g.q1.getD i (0, 0)).1 }
      let y : GlzTile := { x with elems := x.elems ++ new }
      let full := decide (n ≠ 0 ∧ y.elems.length = x.cfg.count.toNat)
      ∃ t, Runs (.glazeElementAccept k) s t ∧ UnitOnly s t k ∧
        (t.grp k).q1 = g.q1.drop n ∧ (t.grp k).q0 = (if 4 ≤ x.cfg.code.toNat then g.q0 else g.q0.drop n) ∧
        { (t.grp k).glz with store := z.store, sent := z.sent, owed := z.owed } = { z with
          tile := some { y with closed := full, moved := if z.cin = none then x.moved else y.elems.length } } ∧
        (if full then SentOnce s t k y z.cin else (t.grp k).glz.sent = z.sent ∧ t.launches = s.launches) ∧
        (∀ l, l < 64 → owed (t.grp k) false l = owed g false l ++
          (match z.cin with | some c => resultsOf y c l | none => [])) ∧
        ∀ l, l < 64 → owed (t.grp k) true l = owed g true l ++ (if full then aggregateOf y l else [])) ∧
    (∀ v x, z.joined = true → launch.chain.at_ z.rank = .core g.core → z.rank ∉ launch.chain.toldNot →
      tfind launch.chain.slots z.rank = some v → z.tile = some x → z.sent = false → (tfind s.launches g.launch).isSome = true →
      (∀ e ∈ s.groups, e.1 ≠ k → e.2.launch = g.launch → e.2.glz.joined = true → e.2.glz.rank ≠ z.rank) →
      let taken := s.onLaunch g.launch fun l => { l with chain := { l.chain with slots := tdel l.chain.slots z.rank } }
      ∃ t, Runs (.glazeCarryArrive g.launch z.rank) s t ∧ UnitOnly s t k ∧
        { (t.grp k).glz with store := z.store, owed := z.owed } = { z with
          cin := some v, carry := some v, sent := x.closed, tile := some { x with moved := x.elems.length } } ∧
        t.launches = (if x.closed then taken.glzSend g.launch z.rank (x.carryOut v) else taken).launches ∧
        ∀ l, l < 64 → owed (t.grp k) false l = owed g false l ++ resultsOf x v l) ∧
    (z.joined = true → launch.chain.at_ z.rank = .core g.core → launch.chain.toldNot.head? = some z.rank →
      (∀ e ∈ s.groups, e.1 ≠ k → e.2.launch = g.launch → e.2.glz.joined = true → e.2.glz.rank ≠ z.rank) →
      ∃ t, Runs (.glazeRoundComplete g.launch z.rank) s t ∧ (∀ j, j ≠ k → tfind t.groups j = tfind s.groups j) ∧
        (z.leaving = true ∨ z.rank ≠ 0 → (t.launch g.launch).chain.toldNot = launch.chain.toldNot.tail) ∧
        (z.leaving = true → (t.grp k).glz = { rank := z.rank, left := true, round := z.round, carry := z.carry } ∧
          (t.grp k).q0 = [] ∧ (t.grp k).q1 = [] ∧ (t.grp k).fifo = g.fifo ∧
          (t.launch g.launch).chain.at_ z.rank = .left ∧
          (t.core g.core).glz = (if (s.core g.core).glz = some k then none else (s.core g.core).glz)) ∧
        (z.leaving = false → UnitOnly s t k ∧ (t.grp k).glz.round = z.round + 1 ∧
          (t.grp k).glz.cfg = z.pend.or z.cfg ∧ (t.grp k).glz.pend = none ∧
          match z.pend.or z.cfg with
          | none => (t.grp k).glz.tile = none ∧ (t.grp k).glz.cin = none
          | some c => (t.grp k).glz.tile = some { cfg := c, closed := decide (c.count = 0) } ∧
              ((t.grp k).glz.cin.isSome = decide (z.rank = 0)))) ∧
    ∀ lane, lane < 64 → ∃ t, Runs (.glazeResultDeliver k lane) s t ∧ UnitOnly s t k ∧ t.launches = s.launches ∧
      (∀ agg l, l < 64 → owed (t.grp k) agg l = owed g agg l) ∧
      (∀ q l, l < 64 → l ≠ lane → (t.grp k).queued q l = g.queued q l) ∧
      ∀ agg, (g.queued (if agg then 3 else 2) lane).length ≤ 8 →
        8 ≤ ((t.grp k).queued (if agg then 3 else 2) lane).length ∨
        owed (t.grp k) agg lane = (t.grp k).queued (if agg then 3 else 2) lane

/-- R216, R323, R324, R326-R330, R332, R334, R337, R338, R340, R351, R387, R388, R464, R465: PIN takes the lines of its range in
increasing address, pins each unless every cache way of its set is pinned, and counts in PINFAIL each of which that is so; UNPIN
clears the launch's own pins of those lines; where they may not run they trap, as do SRCFG and HSWAP. SRCFG repartitions the
tier and tells every core the new number of ways; the way-blocks that change hands read zero, and the dirty lines of the ways
taken are written back and counted. It completes once every core holds the number and no access checked under the old one is
outstanding, and waits until then. One that issues while another is under way or waits takes its place behind it. The L1 lines
of discarded way-blocks are named by PSIG, so that an acquire drops them. HSWAP exchanges the two backings of a handle once its
group's copies and matrix operations have ended and its release is made, drops the entry at every core within MODE.scope, and
completes with the acquire that MODE.order asks for once the drops are acknowledged; it waits for each of these. Model's choices
in it: log 1, 30, 75, 96, 105, 113, 116. -/
def Obligations.TierInstructions : Prop :=
  (∀ (s : State), s.bus = [] → Resident s →
    (∀ i x, TierTrap s i x → ∃ t, Runs i s t ∧ TakesTrap s t x) ∧
    ∀ a b : Fin 64, let va := (s.g.sr a.val).toNat
      let n := (s.g.sr b.val).toNat
      s.foreignS a.val = false → s.foreignS b.val = false → s.lau.capable = true → PinOk s va n →
      (∃ t, Runs (.pin (.s a) (.s b)) s t ∧ CoreStep s { t with stackTab := s.stackTab } sameButTlb ∧ PassesIn s t id ∧
        PinsLines s s.stack (pieces va n 128) t.stack) ∧
      ∃ t, Runs (.unpin (.s a) (.s b)) s t ∧ CoreStep s { t with stackTab := s.stackTab } sameButTlb ∧ PassesIn s t id ∧
        (∀ k, { t.stack k with tier := (s.stack k).tier } = s.stack k) ∧
        ∀ k key, tfind (t.stack k).tier key = none ∧ tfind (s.stack k).tier key = none ∨
          ∃ x y, tfind (s.stack k).tier key = some x ∧ tfind (t.stack k).tier key = some y ∧
            (TierLineOf s va n k x.line ∧ x.pin = some s.g.launch → y = { x with pin := none }) ∧
            (¬ (TierLineOf s va n k x.line ∧ x.pin = some s.g.launch) → y = x)) ∧
  (∀ (s : State) (d : Fin 64) (imm : BitVec 8), let k := s.g.core / 16
    let o := (s.stack k).ways
    let n := imm.toNat
    let taken (e : Nat × TierLine) : Bool := decide (16 - n ≤ e.1 % 16 ∧ e.1 % 16 < 16 - o)
    let frame (t : State) : Prop :=
      { t with groups := s.groups, nextKey := s.nextKey, cores := s.cores, stackTab := s.stackTab, mem := s.mem, edge := s.edge,
               poison := s.poison, sealed := s.sealed, lags := s.lags } = s ∧
      ∀ g, g ≠ s.gk → tfind t.groups g = tfind s.groups g
    s.bus = [] → Resident s → imm ∈ [0, 4, 8, 12] → o ∈ [0, 4, 8, 12] → s.foreignS d.val = false →
    (s.lead.issued = false → s.lau.capable = true → ¬ RepartTurn s k → s.lead.wait = none →
      ((s.stack k).repartQueue.contains (s.gk, s.cur.jset) = false →
        ((queued s k).stack k).repartQueue = (s.stack k).repartQueue ++ [(s.gk, s.cur.jset)]) ∧
      ∃ t, Runs (.srcfg (.s d) imm) s t ∧ Waits (queued s k) t (.srcfg k)) ∧
    (s.lead.issued = false → s.lau.capable = true → RepartTurn s k → (∃ e ∈ (s.stack k).waysOut, 16 - n ≤ e.2 ∧ e.2 < 16 - o) →
      ∃ t, Runs (.srcfg (.s d) imm) s t ∧ TakesTrap (onTurn s k) t { cause := 0x11, detail := 14 }) ∧
    (s.lead.issued = false → s.lau.capable = true → RepartTurn s k → (∀ e ∈ (s.stack k).waysOut, e.2 < 16 - n ∨ 16 - o ≤ e.2) →
      (n = o → ∃ t, Runs (.srcfg (.s d) imm) s t ∧ Passes (onTurn s k) t 1 fun g => g.putS d.val 0) ∧
      (n ≠ o → s.lags.headD false = false → RepartOver s k n o → ∃ t x,
        Runs (.srcfg (.s d) imm) s t ∧ frame t ∧ PassesIn s t (fun g => g.putS d.val x) ∧
        x = (if o < n then BitVec.ofNat 64 ((s.stack k).tier.countP fun e => taken e && e.2.dirty) else 0) ∧
        (t.stack k).ways = n ∧ (t.stack k).epoch = (s.stack k).epoch + 1 ∧ (t.stack k).repart = none ∧
        (t.stack k).repartQueue = (s.stack k).repartQueue.tail ∧ (t.stack k).srwb = (s.stack k).srwb + x ∧ (∀ c, c < 128 → tget 0 (t.core c).ways k = n) ∧
        (∀ j, j ≠ k → (t.stack j).ways = (s.stack j).ways) ∧
        (NoneBuffered s k n o →
          (t.stack k).tier = (if o < n then (s.stack k).tier.filter (fun e => !taken e) else (s.stack k).tier) ∧
          (∀ j, j ≠ k → tfind t.stackTab j = tfind s.stackTab j) ∧
          (∀ c, { t.core c with ways := (s.core c).ways, psig := (s.core c).psig } = s.core c) ∧
          (if o < n then ∀ c, (t.core c).psig = (s.core c).psig else DiscardSigned s t k n o) ∧
          (BlocksPlain s k n o → (o < n → ∀ q ∈ (s.stack k).queue, ∀ r ∈ q.2, inBlocks k o n (r.line * 128) = false) →
            ∀ a, t.home a = if inBlocks k (min o n) (max o n) a = true then 0 else s.home a))) ∧
      (n ≠ o → s.lags.headD false = true → (∀ x ∈ s.ks, (s.g.strand x).wait = none) → ∃ t c,
        Runs (.srcfg (.s d) imm) s t ∧ (t.stack k).ways = n ∧ (t.stack k).epoch = (s.stack k).epoch + 1 ∧
        (t.stack k).repart = some { group := s.gk, lo := n, hi := o, count := c } ∧ t.cores = s.cores ∧
        t.msgs = s.msgs ++ ((List.range 128).map fun c => { group := s.gk, jset := s.cur.jset, msg := .ways c k n }) ∧
        ∀ x, if x ∈ s.ks then (t.g.strand x).wait = some (.srcfg k) ∧ (t.g.strand x).issued = true ∧
            (t.g.strand x).pc = (s.g.strand x).pc
          else t.g.strand x = s.g.strand x)) ∧
    ∀ r, s.lead.issued = true → (s.stack k).repart = some r →
      (RepartOver s k r.lo r.hi → ∃ t, Runs (.srcfg (.s d) imm) s t ∧ frame t ∧
        PassesIn s t (fun g => g.putS d.val (BitVec.ofNat 64 r.count)) ∧ (t.stack k).repart = none ∧
        (t.stack k).ways = o ∧ (t.stack k).epoch = (s.stack k).epoch ∧
        (NoneBuffered s k r.lo r.hi → DiscardSigned s t k r.lo r.hi) ∧
        (NoneBuffered s k r.lo r.hi → BlocksPlain s k r.lo r.hi →
          ∀ a, t.home a = if inBlocks k r.lo r.hi a = true then 0 else s.home a)) ∧
      (¬ RepartOver s k r.lo r.hi → s.lead.wait = none → ∃ t, Runs (.srcfg (.s d) imm) s t ∧ Waits s t (.srcfg k))) ∧
  (∀ (s : State) (a : Fin 64), let h := (s.g.sr a.val).toNat
    let asid := s.asidOf s.g
    let e := (s.handleEntry s.g.core asid h).1
    let at_ := (tget {} s.asids asid).handles + 64 * h
    let busy : Prop := (∃ c ∈ (s.core s.g.core).copies, c.group = s.gk) ∨ ∃ m ∈ (s.core s.g.core).mats, m.group = s.gk
    s.bus = [] → Resident s → s.foreignS a.val = false →
    (s.lead.issued = true → s.unacked = false → ∃ t, Runs (.hswap (.s a)) s t ∧ PassesIn s t id ∧
      { t with groups := s.groups, nextKey := s.nextKey, cores := s.cores } = s ∧
      (∀ c, c ≠ s.g.core → tfind t.cores c = tfind s.cores c) ∧ Acquired s (s.core s.g.core) (t.core s.g.core)) ∧
    (s.lead.issued = true → s.unacked = true → s.lead.wait = none → ∃ t, Runs (.hswap (.s a)) s t ∧ Waits s t .acks) ∧
    (s.lead.issued = false → h < 4096 → s.handleValid s.g.core asid e = true → e.flags / 2 % 2 = 1 → e.under ≠ 0 →
      (busy → s.lead.wait = none → ∃ t, Runs (.hswap (.s a)) s t ∧ Waits s t .engines) ∧
      (¬ busy → ReleaseMade s → s.unacked = false → s.lags.headD false = false →
        (∀ i, i < 16 → KeyAgrees s ((at_ + i) / 128) none ∧ s.physFail ((at_ + i) / 128 * 128) true = none) →
        ∃ t, Runs (.hswap (.s a)) s t ∧ PassesIn s t id ∧
          { t with groups := s.groups, nextKey := s.nextKey, cores := s.cores, stackTab := s.stackTab, mem := s.mem,
                   edge := s.edge, poison := s.poison, lags := s.lags } = s ∧
          (∀ x, t.home x = if at_ ≤ x ∧ x < at_ + 8 then s.home (x + 8)
            else if at_ + 8 ≤ x ∧ x < at_ + 16 then s.home (x - 8) else s.home x) ∧
          (∀ c ∈ s.scopeCores s.g (max 1 (mScope s.mode)), tfind (t.core c).handles (asid * 4096 + h) = none) ∧
          (∀ c, c ≠ s.g.core → { t.core c with handles := (s.core c).handles } = s.core c) ∧
          (NoAcquire s → { t.core s.g.core with handles := (s.core s.g.core).handles } = s.core s.g.core))))

/-- R35, R45-R47, R49, R51, R53, R54, R56, R57, R65-R67, R146, R150: codes decode to the numbers of their formats; exact results of
sums, products, quotients and roots stand for the real ones, first NaN first, invalid where IEEE 754 says so; and every exact
value is rounded to the neighbour its mode chooses, in every format and, to P bits, in elastic float, with the stated encodings
of infinities and NaNs. -/
def Obligations.NumbersRounded : Prop :=
  (∀ f ∈ formats, ∀ c, c < 2 ^ (f.eb + f.fb + 1) → let a := c % 2 ^ (f.eb + f.fb)
    let neg := decide (2 ^ (f.eb + f.fb) ≤ c)
    (a ≤ f.maxCode → ∃ m e, f.decode c = .num neg m e ∧ (m : ℝ) * 2 ^ e = gridVal f a) ∧
    (f.maxCode < a → f.hasInf = true → a % 2 ^ f.fb = 0 → f.decode c = .inf neg) ∧
    (f.maxCode < a → ¬ (f.hasInf = true ∧ a % 2 ^ f.fb = 0) → (f.decode c).isNan = true)) ∧
  (∀ (mode : Nat) (x y z : FVal),
    ((x.isNan = true ∨ y.isNan = true) → NanFirst [x, y] (addX mode x y) ∧ NanFirst [x, y] (mulX x y) ∧ NanFirst [x, y] (divX x y)) ∧
    ((x.isNan = true ∨ y.isNan = true ∨ z.isNan = true) → NanFirst [x, y, z] (fmaX mode x y z)) ∧
    (x.isNan = true → NanFirst [x] (sqrtX x) ∧ NanFirst [x] (rcpX x) ∧ NanFirst [x] (rsqX x)) ∧
    (x.isNan = false → y.isNan = false → SumIs mode [x, y] (addX mode x y) ∧ ProductIs x y (mulX x y) ∧ QuotientIs x y (divX x y) ∧
      (z.isNan = false → (mulX x y = .invalid → fmaX mode x y z = .invalid) ∧
        (mulX x y ≠ .invalid → ∃ p : FVal, mulX x y = .ofVal p ∧ p.isNan = false ∧ SumIs mode [p, z] (fmaX mode x y z)))) ∧
    (∀ s m e, x = .num s m e → m < 2 ^ 300 →
      (m = 0 → sqrtX x = .fin { neg := s } ∧ rcpX x = .inf s ∧ rsqX x = .inf s) ∧
      (m ≠ 0 → FiniteIs (rcpX x) (1 / realOf x) False ∧ (s = true → sqrtX x = .invalid ∧ rsqX x = .invalid) ∧
        (s = false → FiniteIs (sqrtX x) (Real.sqrt (realOf x)) False ∧ FiniteIs (rsqX x) (1 / Real.sqrt (realOf x)) False))) ∧
    (x = .inf false → sqrtX x = .inf false ∧ rcpX x = .fin {} ∧ rsqX x = .fin {}) ∧
    (x = .inf true → sqrtX x = .invalid ∧ rcpX x = .fin { neg := true } ∧ rsqX x = .invalid)) ∧
  (∀ f ∈ formats, ∀ (mode draw lane : Nat) (ftz : Bool) (pc : DWord), mode ≤ 5 → draw < 2 ^ 32 → lane < 64 →
    (∀ x r, Stands x r → Fine x → ∃ c, RoundsTo f mode draw x.neg |r| c ∧
      let code := if c = f.maxCode + 1 then infCode f else c
      f.finish mode draw ftz lane pc (.fin x) =
        withSign f x.neg (if ftz = true ∧ code < 2 ^ f.fb then 0 else code)) ∧
    (∀ s, f.finish mode draw ftz lane pc (.inf s) = withSign f s (infCode f)) ∧
    (f.hasNan = true → f.finish mode draw ftz lane pc .invalid = invalidCode f lane pc) ∧
    ∀ s p w, f.finish mode draw ftz lane pc (.nan s p w) =
      if f = e5m2 then withSign f s 0x7E else if f = e4m3 then withSign f s 0x7F
      else if f.hasNan then withSign f s ((2 ^ f.eb - 1) * 2 ^ f.fb + quieted p w f.fb) else 0) ∧
  ∀ (p mode draw lane : Nat) (pc : DWord), 8 ≤ p → p ≤ 237 → mode ≤ 5 → draw < 2 ^ 32 → lane < 64 →
    (∀ x r, Stands x r → Fine x → r ≠ 0 → ∃ v, RoundsToBits p mode draw x.neg |r| v ∧
      let ws := efRound p mode draw lane pc (.fin x)
      let inward : Prop := mode = 1 ∨ (mode = 2 ∧ x.neg = false) ∨ (mode = 3 ∧ x.neg = true)
      (v < (2 : ℝ) ^ (-32766 : ℤ) → WindowIs p ws (.num x.neg 0 0)) ∧
      ((2 : ℝ) ^ (-32766 : ℤ) ≤ v → v < (2 : ℝ) ^ (32768 : ℤ) →
        ∃ m e, WindowIs p ws (.num x.neg m e) ∧ (m : ℝ) * 2 ^ e = v) ∧
      ((2 : ℝ) ^ (32768 : ℤ) ≤ v → ¬ inward → WindowIs p ws (.inf x.neg)) ∧
      ((2 : ℝ) ^ (32768 : ℤ) ≤ v → inward → ∃ m e, WindowIs p ws (.num x.neg m e) ∧
        (m : ℝ) * 2 ^ e = (2 - 2 ^ (1 - (p : ℤ))) * 2 ^ (32767 : ℤ))) ∧
    (∀ x : Mag, x.m = 0 → x.sticky = false → WindowIs p (efRound p mode draw lane pc (.fin x)) (.num x.neg 0 0)) ∧
    (∀ s, WindowIs p (efRound p mode draw lane pc (.inf s)) (.inf s)) ∧
    (efRound p mode draw lane pc .invalid =
      BitVec.ofNat 32 (0xFFFF * 2 ^ 15 + nP p * 2 ^ 12 + 2 ^ 11 + lane * 2 ^ 5 + pcFold pc % 32) :: List.replicate (nP p) 0) ∧
    ∀ s q w, 0 < w → q < 2 ^ w → WindowIs p (efRound p mode draw lane pc (.nan s q w)) (.nan s (quieted q w (12 + 32 * nP p)) (12 + 32 * nP p))

/-- R71-R78: the special functions follow their procedures step by step on Q62 integers, with the table entries of R72 that are
exact or fixed by powers, and each gives the value that its one rounding then takes. -/
def Obligations.SpecialFunctions : Prop :=
  (tabT.length = 64 ∧ tabRC.length = 64 ∧ tabL.length = 64 ∧ tabS.length = 64 ∧ tabC.length = 64 ∧ coefC.length = 4 ∧
    coefD.length = 7 ∧ coefA.length = 4 ∧ coefB.length = 4 ∧ tabS.getD 0 1 = 0 ∧ tabL.getD 0 1 = 0 ∧ tabC.getD 0 0 = 2 ^ 62 ∧
    coefB.getD 0 0 = 2 ^ 62 ∧ ∀ j : Nat, j < 64 → Nearest ((2 : ℝ) ^ ((j : ℝ) / 64) * 2 ^ 62) (tabT.getD j 0) ∧
      Nearest ((2 : ℝ) ^ 62 * 64 / (64 + j)) (tabRC.getD j 0)) ∧
  ∀ (s : Bool) (m : Nat) (e : ℤ), m < 2 ^ 24 → -149 ≤ e → e ≤ 104 → let x := realOf (.num s m e)
    (∃ X, Nearest (max (-200) (min 200 x) * 2 ^ 40) X ∧
      exp2X (.num s m e) = .fin { m := (expSteps X).1.toNat, e := (expSteps X).2 - 62 }) ∧
    (m ≠ 0 → s = true → log2X (.num s m e) = .invalid) ∧ (m = 0 → log2X (.num s m e) = .inf true) ∧
    (m ≠ 0 → s = false → ∀ (M k : ℤ), 2 ^ 23 ≤ M → M < 2 ^ 24 → x = M * 2 ^ (k - 23) →
      FiniteIs (log2X (.num s m e)) (logSteps M k * 2 ^ (-62 : ℤ)) False) ∧
    (m = 0 → sinpX (.num s m e) = .fin { neg := s } ∧ FiniteIs (cospX (.num s m e)) 1 False) ∧
    (m ≠ 0 → |x| < 2 ^ (-28 : ℤ) → FiniteIs (sinpX (.num s m e)) (x * coefA.getD 0 0 * 2 ^ (-62 : ℤ)) False ∧
      FiniteIs (cospX (.num s m e)) (1 - 2 ^ (-60 : ℤ)) False) ∧
    (2 ^ (-28 : ℤ) ≤ |x| → ∀ F : ℤ, (F : ℝ) = (x - 2 * ⌊x / 2⌋) * 2 ^ 52 →
      FiniteIs (sinpX (.num s m e)) ((sinSteps F).1 * 2 ^ (-62 : ℤ)) (s = true) ∧
      FiniteIs (cospX (.num s m e)) ((sinSteps F).2 * 2 ^ (-62 : ℤ)) False) ∧
    (∃ X, Nearest (-(max (-200) (min 200 x)) * coefLE * 2 ^ (-22 : ℤ)) X ∧
      FiniteIs (sigmX (.num s m e)) (1 / (1 + (expSteps X).1 * 2 ^ ((expSteps X).2 - 62))) False) ∧
    (m = 0 → tanhX (.num s m e) = .fin { neg := s, m := 0, e }) ∧
    (m ≠ 0 → |x| < 2 ^ (-13 : ℤ) → FiniteIs (tanhX (.num s m e)) (x - x ^ 3 / 3) False) ∧
    (2 ^ (-13 : ℤ) ≤ |x| → ∃ X, Nearest (2 * min |x| 200 * coefLE * 2 ^ (-22 : ℤ)) X ∧
      let M : ℝ := (expSteps X).1 * 2 ^ ((expSteps X).2 - 62)
      FiniteIs (tanhX (.num s m e)) ((if s then -1 else 1) * ((M - 1) / (M + 1))) False) ∧
    (exp2X (.inf false) = .inf false ∧ exp2X (.inf true) = .fin {} ∧ log2X (.inf false) = .inf false ∧ log2X (.inf true) = .invalid ∧
      ∀ b, sinpX (.inf b) = .invalid ∧ cospX (.inf b) = .invalid ∧
        (∃ X, Nearest ((if b then 200 else -200) * coefLE * 2 ^ (-22 : ℤ)) X ∧
          FiniteIs (sigmX (.inf b)) (1 / (1 + (expSteps X).1 * 2 ^ ((expSteps X).2 - 62))) False) ∧
        ∃ X, Nearest (2 * 200 * coefLE * 2 ^ (-22 : ℤ)) X ∧ let M : ℝ := (expSteps X).1 * 2 ^ ((expSteps X).2 - 62)
          FiniteIs (tanhX (.inf b)) ((if b then -1 else 1) * ((M - 1) / (M + 1))) False) ∧
    ∀ (b : Bool) (q w : Nat), ∀ f ∈ [exp2X, log2X, sinpX, cospX, sigmX, tanhX], f (.nan b q w) = .nan b q w

/-- R64, R266, R278, R295, R296, R306, R307: a block sum is the exact sum of its products times its scales, rounded once; an element
that is a NaN keeps its bits when one is added. A row is converted element by element through its slot, with the scale bytes of
its blocks. The glaze joins and applies by its semirings' table, and a tile's prefixes are those of the four levels and the fold
over its blocks. Model's choices in it: log 80. -/
def Obligations.EngineArithmetic : Prop :=
  (∀ (pc : DWord) (ps : List (FVal × FVal)) (scales : List FVal), ps ≠ [] →
    (BlockNan ps scales → blockSum pc ps scales = invalidCode f32 63 pc) ∧
    (¬ BlockNan ps scales → (∀ v ∈ scales, v.isInf = false) →
      (∀ e ∈ ps, (e.1.isInf = true ∨ e.2.isInf = true) → (∀ v ∈ scales, v.isZero = false) →
        blockSum pc ps scales = withSign f32 (scales.foldl (fun b v => xor b v.neg?) (xor e.1.neg? e.2.neg?)) 0x7F800000) ∧
      ((∀ e ∈ ps, e.1.isInf = false ∧ e.2.isInf = false) → ∃ x y : Mag,
        FiniteIs (.fin y) (ps.map fun e => realOf e.1 * realOf e.2).sum
          (∀ e ∈ ps, xor e.1.neg? e.2.neg? = true ∧ (e.1.isZero = true ∨ e.2.isZero = true)) ∧
        Stands x ((ps.map fun e => realOf e.1 * realOf e.2).sum * (scales.map realOf).prod) ∧ x.sticky = false ∧
        x.neg = scales.foldl (fun b v => xor b v.neg?) y.neg ∧ blockSum pc ps scales = f32.round 0 0 x))) ∧
  (∀ (pc : DWord) (c : Word) (b : Nat),
    ((f32.decode c.toNat).isNan = true → accAdd pc c b = c) ∧
    ((f32.decode c.toNat).isNan = false →
      accAdd pc c b = BitVec.ofNat 32 (f32.finish 0 0 false 63 pc (addX 0 (f32.decode c.toNat) (f32.decode b))))) ∧
  (∀ (w : Half) (scl : Word) (pc : DWord) (xs : List Word), storeKind w = true → slotKind w ≤ 9 → xs.length % 16 = 0 →
    let bs := convRow w scl pc xs
    let b := matBits (slotKind w)
    let vals := xs.map fun x => f32.decode x.toNat
    bs.length = rowBytes w xs.length ∧ ∃ ex : Nat → Nat,
      (∀ j, j < xs.length / 16 → BlockExpIs (slotKind w) ((vals.drop (16 * j)).take 16) (ex j) ∧
        (slotScale w = 1 → bs[elemBytes w xs.length + j]? = some (BitVec.ofNat 8 (ex j)))) ∧
      ∀ i x, vals[i]? = some x → ∃ y c, ElementIs w scl pc x (ex (i / 16)) y ∧ ConvIs (slotKind w) pc y c ∧ c < 2 ^ b ∧
        bytesLE (fun a => bs.getD a 0) 0 (elemBytes w xs.length) / 2 ^ (b * i) % 2 ^ b = c) ∧
  (∀ (pc : DWord) (a1 b1 a2 b2 : Word), let v (x : Word) : FVal := f32.decode x.toNat
    let add (x y : Word) : Word := glazeRound pc (addX 0 (v x) (v y))
    let fma (x y z : Word) : Word := glazeRound pc (fmaX 0 (v x) (v y) (v z))
    glzJoin 0 pc (a1, b1) (a2, b2) = (glazeRound pc (mulX (v a2) (v a1)), fma a2 b1 b2) ∧
    glzJoin 1 pc (a1, b1) (a2, b2) = (add a2 a1, glzPick true (add a2 b1) b2) ∧
    glzJoin 2 pc (a1, b1) (a2, b2) = (add a2 a1, glzPick false (add a2 b1) b2) ∧
    glzJoin 3 pc (a1, b1) (a2, b2) = (add a2 a1, lse2 (add a2 b1) b2) ∧
    glzJoin 4 pc (a1, b1) (a2, b2) = (0x3F800000, add b1 b2) ∧ glzJoin 5 pc (a1, b1) (a2, b2) = (1, b1 + b2) ∧
    glzApply 0 pc (a1, b1) a2 = fma a1 a2 b1 ∧ glzApply 1 pc (a1, b1) a2 = glzPick true (add a1 a2) b1 ∧
    glzApply 2 pc (a1, b1) a2 = glzPick false (add a1 a2) b1 ∧ glzApply 3 pc (a1, b1) a2 = lse2 (add a1 a2) b1 ∧
    glzApply 4 pc (a1, b1) a2 = add a2 b1 ∧ glzApply 5 pc (a1, b1) a2 = a2 + b1 ∧
    (∀ larger, ((v a1).isNan = true ∨ (v b1).isNan = true → ∃ r, NanFirst [v a1, v b1] r ∧ glzPick larger a1 b1 = glazeRound 0 r) ∧
      ((v a1).isNan = false → (v b1).isNan = false → PickIs larger a1 b1 (glzPick larger a1 b1))) ∧
    ((v a1).isNan = true ∨ (v b1).isNan = true → ∃ r, NanFirst [v a1, v b1] r ∧ lse2 a1 b1 = glazeRound 0 r) ∧
    ((v a1).isNan = false → (v b1).isNan = false →
      (v a1 = .inf true → lse2 a1 b1 = b1) ∧ (v a1 ≠ .inf true → v b1 = .inf true → lse2 a1 b1 = a1) ∧
      (v a1 = .inf false → v b1 = .inf false → lse2 a1 b1 = a1) ∧
      (v a1 ≠ .inf true → v b1 ≠ .inf true → ¬ (v a1 = .inf false ∧ v b1 = .inf false) →
        let d := glazeRound 0 (addX 0 (v (glzPick false a1 b1)) (v (glzPick true a1 b1)).negate)
        let u := glazeRound 0 (addX 0 (v 0x3F800000) (v (glazeRound 0 (exp2X (v d)))))
        lse2 a1 b1 = glazeRound 0 (addX 0 (v (glzPick true a1 b1)) (v (glazeRound 0 (log2X (v u)))))))) ∧
  ∀ (x : GlzTile) (c : Word), let join := glzJoin x.cfg.code.toNat x.cfg.pc
    let elem (i : Nat) : GPair := ((x.elems[i]?).map fun e => (e.a, e.b)).getD (0, 0)
    let q (i : Nat) : GPair := levelPrefix join (fun m => elem (i / 16 * 16 + m)) 4 (i % 16)
    x.prefixes.length = x.elems.length ∧
    (∀ i, i < x.elems.length →
      x.prefixes[i]? = some (if i < 16 then q i else join ((x.prefixes[i / 16 * 16 - 1]?).getD (0, 0)) (q i))) ∧
    (x.elems = [] → x.carryOut c = c) ∧
    ∀ p, x.prefixes.getLast? = some p → x.carryOut c = glzApply x.cfg.code.toNat x.cfg.pc p c

/-- R207, R330, R340, R353-R356, R370, R378, R387, R442, R443, R446, R449, R450, R452, R454-R459, R471, R474: each write of the
driver, and each mailbox command, leaves exactly the state of its rule; unloading a key waits for accesses under its slot and
then leaves nothing under it. Each event of a single unit leaves exactly the state of its rule. Model's choices in it: log 10,
20, 46, 47, 48, 49, 50, 53, 73, 74, 97, 98, 110, 118, 120. -/
def Obligations.ControlEvents : Prop :=
  (∀ (s : State), s.bus = [] →
    (∀ (i : Instr) (t : State), DriverRule s i t → Runs i s t) ∧
    ∀ slot : BitVec 6, tfind s.ctl.keys slot.toNat ≠ none → (s.ctl.mbslot = none ∨ s.ctl.mbslot = some slot.toNat) →
      (UnderKey s slot.toNat →
        Runs (.mbKeyUnload slot) s { s with ctl := { s.ctl with mbslot := some slot.toNat } }) ∧
      (¬ UnderKey s slot.toNat → ∃ t, Runs (.mbKeyUnload slot) s t ∧ t.ctl.mbresult = 0 ∧ t.ctl.mbslot = none ∧
        tfind t.ctl.keys slot.toNat = none ∧ (∀ k, k ≠ slot.toNat → tfind t.ctl.keys k = tfind s.ctl.keys k) ∧
        (∀ line, tfind t.sealed line ≠ some slot.toNat) ∧ (∀ k, ∀ e ∈ (t.stack k).tier, e.2.key ≠ some slot.toNat) ∧
        t.groups = s.groups ∧ t.launches = s.launches ∧ t.queues = s.queues)) ∧
  (∀ (s : State) (i : Instr) (t : State), UnitRule s i t → s.bus = [] → Runs i s t)

/-- R192, R196, R204, R212, R318, R460-R464, R469, R470, R475: a storage error, a self-test, a knot found and a knot that broke by
itself leave the state of their rule and their event record in the ring; and a knot break delivered to an agent that still waits
gives it trap 0x32, or stops its launch where it may not take one. Model's choices in it: log 52, 53, 54, 55, 95, 96, 99. -/
def Obligations.HealthEvents : Prop :=
  (∀ (s : State) (i : Instr) (u : State) (kind unit launch place : Nat) (detail : List Nat),
    HealthRule s i u kind unit launch place detail → s.bus = [] → RingPlain u →
    ∃ t, Runs i s t ∧ Logged u t kind unit launch place detail) ∧
  ∀ (s : State) (b : Break) (w : Wait), s.bus = [] → Sorted s.groups → (s.ctl.breaks.find? (·.seq == b.seq)) = some b → StillWaits s b w →
    RingPlain s → let g := s.grp b.group
    let l := s.launch g.launch
    let stops : Prop := l.lrec.handler = 0 ∨ ∃ k ∈ g.members b.jset, (g.strand k).handler = true
    (¬ stops → ∃ t u, Runs (.knotBreakDeliver b.seq) s t ∧ BreakTaken s u b w ∧ Logged u t 6 7 g.launch b.seq b.members) ∧
    (stops → ∃ t u r, Runs (.knotBreakDeliver b.seq) s t ∧ Logged u t 6 7 g.launch b.seq b.members ∧
      (u.launch g.launch).stop = some r ∧ r.kind = 1 ∧ r.cause = 0x32 ∧ r.detail.toNat = (breakCode w).toNat ∧
      u.ctl = { s.ctl with breaks := s.ctl.breaks.erase b })

/-- R346, R348, R450, R471, R472, R474: a period of the governor puts a stack in the state its rule chooses, or the floor above it,
and counts; a period of the power limit moves the floor. WEAREOL gives the predicted day and the days that the periods since
then make (log 53). When a port goes up or down, each outbound window whose usable ports change begins another epoch; nothing
else happens. Model's choices in it: log 9, 26, 32, 94. -/
def Obligations.Governor : Prop :=
  (∀ (s : State), s.bus = [] →
    (∀ (k : Nat) (td tb : Int) (idle avail : Nat), 0 < avail → idle ≤ avail → (s.stack k).gov ≤ 7 → let x := s.stack k
      let calm (T : Nat) (n : Nat) : Prop := (SafeAt td tb x.bias idle avail x.gov T 3 → n = min 8 (tget 0 x.calm T + 1)) ∧
        (¬ SafeAt td tb x.bias idle avail x.gov T 3 → n = 0)
      let low : Int := if x.periods = 0 ∨ (x.risen = true ∧ td < x.td) then td else if x.risen then x.tdLow else min x.tdLow td
      let up : Bool := x.risen && decide (x.td ≤ td)
      let rise : Bool := !up && decide (low + 20 ≤ td)
      ∃ t, Runs (.governorPeriod k td tb idle avail) s t ∧ (∀ T, T < 7 → calm T (tget 0 (t.stack k).calm T)) ∧
        Governs td tb x.bias idle avail x.gov (fun T => tget 0 (t.stack k).calm T) (t.stack k).gov ∧
        t.stack k = { x with
          gov := (t.stack k).gov, calm := (t.stack k).calm, throt := max (t.stack k).gov s.ctl.floor, td := td, tb := tb
          bound := min 255 (idle * 256 / avail), periods := x.periods + 1
          wearCyc := if rise then x.wearCyc + 1 else x.wearCyc, tdLow := low, risen := up || rise
          wearHot := if 95 < td then x.wearHot + 1 else x.wearHot } ∧
        Throttled s t k (max (t.stack k).gov s.ctl.floor) ∧ (∀ j, j ≠ k → t.stack j = s.stack j) ∧
        { t with stackTab := s.stackTab, cores := s.cores } = s) ∧
    (∀ k : Nat, k < 8 → s.ctl.boot = 1 → let x := s.stack k
      s.ctlRead (0x5118 + 32 * k) = x.wearEol.toNat % 2 ^ 32 + match x.wearDay with
        | some d => 2 ^ 32 * ((x.periods.toNat - d) / 86400000 % 2 ^ 32)
        | none => 0) ∧
    ∀ watts : Nat, RingPlain s → let c := s.ctl
      let cool := if watts < 1500 then min 8 (c.cool + 1) else 0
      let floor := if 1600 < watts then min 6 (c.floor + 1) else if cool = 8 then c.floor - 1 else c.floor
      ∃ t u, Runs (.powerLimitPeriod watts) s t ∧ FloorTaken s u floor ∧
        { u with stackTab := s.stackTab, cores := s.cores } = { s with ctl := { c with watts := watts, cool := cool, floor := floor } } ∧
        if floor = c.floor then t = u else Logged u t 8 8 0 floor []) ∧
  (∀ (s : State) (port : BitVec 6) (up : Bool), s.bus = [] → let c := s.ctl
    let usable (t : State) (w : Nat) : DWord := (t.window w).ports &&& t.ctl.portup
    ∃ t, Runs (.portStateChange port up) s t ∧ { t with ctl := c } = s ∧ { t.ctl with portup := c.portup, outw := c.outw } = c ∧
      (∀ p, p < 64 → t.ctl.portup.getLsbD p = if p = port.toNat then up else c.portup.getLsbD p) ∧
      ∀ w, w < 32 → { t.window w with epoch := (s.window w).epoch } = s.window w ∧
        (t.window w).epoch = (s.window w).epoch + if usable t w = usable s w then 0 else 1)

/-- R235, R238, R242-R244, R325, R382, R383, R448: draining a buffered line, and performing a queued request, move bytes on their
way and change no byte as its home gives it, but that a drained line's home now gives what its core had stored; a load's value
is fixed when its response comes. So is that of an access whose strands went on: a load's then, an atomic's with its effect on
memory; the lanes of one vector atomic write their registers together, after the last; poison stops the launch, and the lanes of
the atomic still to come are not performed. Model's choices in it: log 19, 78, 92, 93. -/
def Obligations.MemoryEvents : Prop :=
  ∀ (s : State), s.bus = [] →
    (∀ core line : Nat, cacheable (line * 128) = true → QueuesHaveRoom s → ∃ t, Runs (.wcbDrain core line) s t ∧
      { t with cores := s.cores, stackTab := s.stackTab, edge := s.edge } = s ∧
      (∀ a, t.home a = if a / 128 = line then s.fresh core a else s.home a) ∧
      (t.core core).wcb = (s.core core).wcb.filter (fun c => c.pa / 128 != line) ∧
      { t.core core with wcb := (s.core core).wcb, wcbPoison := (s.core core).wcbPoison, wcbWhole := (s.core core).wcbWhole
                         l1 := (s.core core).l1, l1poison := (s.core core).l1poison } = s.core core ∧
      (∀ l, l ≠ line → tfind (t.core core).l1 l = tfind (s.core core).l1 l) ∧
      (tfind (s.core core).l1 line = none → tfind (t.core core).l1 line = none) ∧
      (∀ x, tfind (s.core core).l1 line = some x → ∃ y, tfind (t.core core).l1 line = some y ∧ ∀ i, i < 128 →
        lineByte y i = (lastOf (line * 128 + i) (s.core core).cells).getD (lineByte x i)) ∧
      ∀ k, k ≠ core → t.core k = s.core k) ∧
    (∀ (k sl idx : Nat) (r : SliceReq), pickReq (tget [] (s.stack k).queue sl) idx = some r →
      nodeOf (r.line * 128) = .stack k → sliceOf (r.line * 128) = sl → tfind s.sealed r.line = r.key →
      ∃ t, Runs (.sliceRequest k sl idx) s t ∧ (∀ a, t.home a = s.home a) ∧ (∀ line, t.poisoned line = s.poisoned line) ∧
        tget [] (t.stack k).queue sl = ldel (tget [] (s.stack k).queue sl) idx ∧
        (∀ j sj, j ≠ k ∨ sj ≠ sl → tget [] (t.stack j).queue sj = tget [] (s.stack j).queue sj) ∧
        { t with mem := s.mem, poison := s.poison, stackTab := s.stackTab } = s) ∧
    (∀ (e idx : Nat) (r : SliceReq), pickReq (tget [] s.edge e) idx = some r → nodeOf (r.line * 128) = .edge e →
      tfind s.sealed r.line = r.key →
      ∃ t, Runs (.edgeMemoryRequest e idx) s t ∧ (∀ a, t.home a = s.home a) ∧ (∀ line, t.poisoned line = s.poisoned line) ∧
        tget [] t.edge e = ldel (tget [] s.edge e) idx ∧ (∀ j, j ≠ e → tget [] t.edge j = tget [] s.edge j) ∧
        { t with mem := s.mem, poison := s.poison, edge := s.edge } = s) ∧
    ∀ (k idx : Nat) (r : Load), NextLoad s k idx r → let core := (s.grp k).core
      (r.fly = none → ∃ t x fail, Runs (.loadResponse k idx) s t ∧ t.loads = s.loads.erase r ∧
        t.grp k = { s.grp k with resp := (s.grp k).resp ++
          [{ jset := r.jset, lane := r.lane, pa := r.pa, data := x, fail := fail }] } ∧
        (∀ j, j ≠ k → tfind t.groups j = tfind s.groups j) ∧ (∀ i, i < r.size → MayRead s k core (r.pa + i) (valByte x.toNat i)) ∧
        (r.pa / 128 ∈ (s.core core).wcbPoison → fail = some (0x3F, 0)) ∧ (CleanFor s core (r.pa / 128) → fail = none) ∧
        (∀ a, t.home a = s.home a) ∧ sameButMem s { t with cores := s.cores, groups := s.groups, loads := s.loads } = s) ∧
      ∀ f, r.fly = some f → r.size ∈ [1, 2, 4, 8, 16] → (∀ i, f.dst = .s i → f.unit = 0) → (∀ i w n, f.dst = .v i w n → r.lane < 64) →
        let kept : List (Nat × Nat) := ((s.grp k).resp.filter (·.jset == unitSets + f.unit)).map fun x => (x.lane, x.data.toNat)
        let others (x : Load) : Prop := x.group = k ∧ ∃ g, x.fly = some g ∧ g.unit = f.unit
        (f.op = .load → f.unit = 0 →
          (CleanFor s core (r.pa / 128) → ∃ (t : State) (x : BitVec 128), Runs (.loadResponse k idx) s t ∧ t.loads = s.loads.erase r ∧
            FlightWrote (s.grp k) (t.grp k) r.size f [(r.lane, x.toNat)] ∧ (∀ j, j ≠ k → tfind t.groups j = tfind s.groups j) ∧
            (∀ i, i < r.size → MayRead s k core (r.pa + i) (valByte x.toNat i)) ∧ (∀ a, t.home a = s.home a) ∧
            sameButMem s { t with cores := s.cores, groups := s.groups, loads := s.loads } = s) ∧
          (r.pa / 128 ∈ (s.core core).wcbPoison → ∃ t, Runs (.loadResponse k idx) s t ∧ t.loads = s.loads.erase r ∧
            FlightStops s t (s.grp k) f ∧ t.groups = s.groups ∧ ∀ a, t.home a = s.home a)) ∧
        (f.op ≠ .load → f.op ≠ .store → let fresh (a : Nat) : Byte := if a / 128 = r.pa / 128 then s.fresh core a else s.home a
          let old := bytesLE fresh r.pa r.size
          let signed := (s.grp k).sign (r.pa / 128)
          (CleanFor s core (r.pa / 128) → (tfind (s.core core).wcbKey (r.pa / 128) = r.key ∨ ∀ c ∈ (s.core core).wcb, c.pa / 128 ≠ r.pa / 128) →
            QueuesHaveRoom s → ((kept ++ [(r.lane, old)]).map (·.1)).Nodup → (∀ e ∈ kept, e.1 < 64) →
            ∃ t : State, Runs (.loadResponse k idx) s t ∧ t.loads = s.loads.erase r ∧
              (∀ a, t.home a = if r.pa ≤ a ∧ a < r.pa + r.size then valByte (flightNew r f old) (a - r.pa) else fresh a) ∧
              (f.unit = 0 → FlightWrote signed (t.grp k) r.size f [(r.lane, old)]) ∧
              (f.unit ≠ 0 → (∃ x ∈ s.loads.erase r, others x) → t.grp k = { signed with
                resp := signed.resp ++ [{ jset := unitSets + f.unit, lane := r.lane, pa := r.pa, data := BitVec.ofNat 128 old }] }) ∧
              (f.unit ≠ 0 → (∀ x ∈ s.loads.erase r, ¬ others x) →
                FlightWrote { signed with resp := signed.resp.filter (·.jset != unitSets + f.unit) } (t.grp k) r.size f (kept ++ [(r.lane, old)])) ∧
              (∀ j, j ≠ k → tfind t.groups j = tfind s.groups j) ∧
              sameButMem s { t with cores := s.cores, groups := s.groups, loads := s.loads } = s) ∧
          (s.poisoned (r.pa / 128) = true → (∀ c ∈ (s.core core).wcb, c.pa / 128 ≠ r.pa / 128) → ∃ t, Runs (.loadResponse k idx) s t ∧
            (∀ x, x ∈ t.loads ↔ x ∈ s.loads.erase r ∧ (f.unit = 0 ∨ ¬ others x)) ∧ FlightStops s t (s.grp k) f ∧
            (t.grp k).v = (s.grp k).v ∧ (t.grp k).s = (s.grp k).s ∧ ∀ a, t.home a = s.home a))

/-- R242-R244, R441, R452, R458, R461: the host's access to device memory moves 64 bytes as DRAM holds them, a line held under a key
in its encrypted form; such a line is dropped from the tier, or, where it is pinned, written back and after a write refilled
under its key. Another package's request is performed at home under the key the tier holds the line under, on its encrypted form
where the tier holds it not, an atomic as R242 and R244 say and not on poison, or it is refused and without effect. Model's
choices in it: log 51, 71, 74. -/
def Obligations.OutsideAccesses : Prop :=
  ∀ (s : State), s.bus = [] →
    (∀ (addr : Nat) (x : BitVec 512), s.ctl.boot = 1 → s.reachable addr = true → addr % 64 = 0 →
      (KeyAgrees s (addr / 128) none → s.tagOf (addr / 128) = none →
        (∃ t, Runs (.hostHdmAccess addr (some x)) s t ∧ Wrote s t addr 64 (valByte x.toNat) ∧ sameButMem s t = s) ∧
        ∃ t, Runs (.hostHdmAccess addr none) s t ∧ (∀ i, i < 64 → valByte t.ctl.hdmData.toNat i = s.home (addr + i)) ∧
          t.ctl.hdmPoison = s.poisoned (addr / 128) ∧ (∀ a, t.home a = s.home a) ∧
          sameButMem s { t with ctl := { t.ctl with hdmData := s.ctl.hdmData, hdmPoison := s.ctl.hdmPoison } } = s) ∧
      ∀ slot : Nat, tfind s.sealed (addr / 128) = some slot → (∀ r ∈ s.queuedAt (addr / 128 * 128), r.line ≠ addr / 128) → let raw (a : Nat) : Byte := lineByte (s.lineRaw (addr / 128)) (a % 128)
        (s.tagOf (addr / 128) = none ∨ s.tagOf (addr / 128) = some slot → ∃ t, Runs (.hostHdmAccess addr none) s t ∧ (∀ i, i < 64 → valByte t.ctl.hdmData.toNat i = raw (addr + i)) ∧
          (∀ a, t.home a = s.home a) ∧ t.sealed = s.sealed ∧
          ∀ n, ∀ e ∈ (t.stack n).tier, nodeOf (addr / 128 * 128) = .stack n → e.2.line = addr / 128 → e.2.key ≠ none → e.2.pin ≠ none ∧ e.2.dirty = false) ∧
        (s.tagOf (addr / 128) = none ∨ (s.tagOf (addr / 128) = some slot ∧ KeyedPinned s (addr / 128) false) →
          ∃ t, Runs (.hostHdmAccess addr (some x)) s t ∧ tfind t.sealed (addr / 128) = none ∧
            ∀ a, t.home a = if addr ≤ a ∧ a < addr + 64 then valByte x.toNat (a - addr)
              else if a / 128 = addr / 128 then raw a else s.home a) ∧
        (s.tagOf (addr / 128) = some slot → KeyedPinned s (addr / 128) true →
          ∃ t y, Runs (.hostHdmAccess addr (some x)) s t ∧ tfind t.sealed (addr / 128) = some slot ∧ t.tagOf (addr / 128) = some slot ∧
            (∀ i, i < 128 → let a := addr / 128 * 128 + i
              lineByte y i = if addr ≤ a ∧ a < addr + 64 then valByte x.toNat (a - addr) else raw a) ∧
            ∀ a, t.home a = if a / 128 = addr / 128 then lineByte (xtsDecrypt (s.keyPair slot) (addr / 128) y) (a % 128) else s.home a)) ∧
    (∀ (addr : Nat) (x : BitVec 512), s.ctl.boot ≠ 1 ∨ s.reachable addr = false →
      Runs (.hostHdmAccess addr (some x)) s s ∧
      Runs (.hostHdmAccess addr none) s { s with ctl := { s.ctl with hdmData := BitVec.allOnes 512, hdmPoison := false } }) ∧
    ∀ r : Inbound,
      (s.accepts r = false →
        Runs (.fabricInboundRequest r) s { s with ctl := { s.ctl with inbound := some (false, 0), inboundPoison := false } }) ∧
      (s.accepts r = true → r.size ∈ [1, 2, 4, 8, 16] → r.addr % r.size = 0 →
        KeyAgrees s (r.addr / 128) (tfind s.sealed (r.addr / 128)) → s.tagOf (r.addr / 128) = tfind s.sealed (r.addr / 128) → let bad := s.poisoned (r.addr / 128)
        ∃ t x, t.ctl = { s.ctl with inbound := some (true, x), inboundPoison := bad && r.op != .store } ∧
          Runs (.fabricInboundRequest r) s t ∧ (∀ i, i < r.size → valByte x.toNat i = s.home (r.addr + i)) ∧
          sameButMem s { t with ctl := s.ctl } = s ∧
          (r.op = .load ∨ (r.op ≠ .store ∧ bad = true) → ∀ a, t.home a = s.home a) ∧
          (r.op = .store → Wrote s t r.addr r.size (valByte r.data.toNat)) ∧
          (r.op ≠ .load → r.op ≠ .store → bad = false → let w := 8 * r.size
            Wrote s t r.addr r.size (valByte (atomicValue r.op w (typeSigned (mType r.mode)) (mRound r.mode) r.draw.toNat (mFtz r.mode)
              r.lane r.pc x.toNat (r.data.toNat % 2 ^ w) (r.data.toNat / 2 ^ w % 2 ^ w)))) ∧
          (∀ a, a < r.addr ∨ r.addr + r.size ≤ a → t.home a = s.home a)) ∧
      ∀ slot : Nat, s.accepts r = true → r.op = .load → r.size ≤ 16 → r.addr % 128 + r.size ≤ 128 → tfind s.sealed (r.addr / 128) = some slot →
        s.tagOf (r.addr / 128) = none → (∀ q ∈ s.queuedAt (r.addr / 128 * 128), q.line ≠ r.addr / 128) →
        ∃ t x, Runs (.fabricInboundRequest r) s t ∧ t.ctl.inbound = some (true, x) ∧
          ∀ i, i < r.size → valByte x.toNat i = lineByte (s.lineRaw (r.addr / 128)) (r.addr % 128 + i)

/-- R354, R357-R359, R401, R444: the next record of a queue is read and becomes its head, fails at the offset that R358 names, is
read again, or is torn at the fifth copy; a head's waits are seen satisfied as they are met. Model's choices in it: log 21, 22,
113, 124, 125. -/
def Obligations.QueueRecords : Prop :=
  ∀ (s : State) (q : Nat), s.bus = [] → let x := s.queue q
    let r := nextRecord s q
    let u := withAsid s r.asid
    let i : Instr := if x.reread = 0 then .recordRead q else .recordReread q
    (x.enable = true → x.stopped = none → x.head = none → x.cons.toNat < x.kicked.toNat → RecordThere s q →
      ((r.seq = x.cons + 1 → (∀ o, ¬ RecordFails u r o) ∨ r.fault = 0) → ∃ t, Runs i s t ∧ RecordRule s q t) ∧
      ∀ o, r.seq = x.cons + 1 → RecordFails u r o → r.fault ≠ 0 → r.fault % 64 = 0 → (tget {} u.asids r.asid).flags % 2 = 1 →
        u.devCheck r.asid r.fault .write = none → Reaches u (u.devPa r.asid r.fault) 64 ((u.devXlate r.asid r.fault).key r.fault) →
        let f : FaultRec := { kind := 2, detail := BitVec.ofNat 16 o, seq := r.seq }
        ∃ t, Runs i s t ∧ Wrote s t (u.devPa r.asid r.fault) 64 (faultByte f) ∧
          t.queue q = { x with cons := r.seq, reread := 0, stopped := some 1, endings := x.endings ++ [{ status := 1, seq := r.seq, fault := f }] }) ∧
    ∀ h, x.head = some h → ∃ t seen, Runs (.waitReread q) s t ∧ SeesWaits s h seen ∧
      t = s.setQueue q { x with head := some { h with seen := seen } }

/-- R297, R359-R361, R399: among the heads whose conditions have held the one of the highest priority starts, in turn among equals:
its launch takes the next free id and every core begins afresh; a glaze launch whose chain id is held fails instead. Model's
choices in it: log 22, 124. -/
def Obligations.LaunchesStart : Prop :=
  ∀ (s : State), s.bus = [] → Sorted s.queues → Sorted s.launches →
    let may (q : Nat) : Prop := ∃ h, (s.queue q).head = some h ∧ (s.queue q).enable = true ∧ (s.queue q).stopped = none ∧
      (∀ i, i < 4 → i ∈ h.seen) ∧ s.launches.length < 256 ∧
      (h.lrec.flags.getLsbD 2 = true → (s.launches.countP fun l => l.2.glaze) < 64)
    let prio (q : Nat) : Nat := (s.queue q).priority
    (∃ q, may q) → ∃ q h t, (s.queue q).head = some h ∧ Chosen may prio (tfind s.ctl.rrQueue (prio q)) q ∧ Runs .headStart s t ∧
      let held : Prop := h.lrec.flags.getLsbD 2 = true ∧ ∃ l ∈ s.launches, l.2.glaze = true ∧ l.2.lrec.chainId = h.lrec.chainId
      (held → h.lrec.fault = 0 → t = s.setQueue q { s.queue q with
        head := none, stopped := some 1
        endings := (s.queue q).endings ++ [{ status := 1, seq := h.lrec.seq, fault := { kind := 2, detail := 0xC8, seq := h.lrec.seq } }] }) ∧
      (¬ held → ∃ id, id ≠ 0 ∧ id < 2 ^ 32 ∧ tfind s.launches id = none ∧
        (let n := (s.ctl.lastId + 1) % 2 ^ 32
         n ≠ 0 → tfind s.launches n = none → id = n) ∧
        t.queues = (s.setQueue q { s.queue q with head := none }).queues ∧
        t.ctl = { s.ctl with lastId := id, rrQueue := tset s.ctl.rrQueue (prio q) q } ∧
        t.asids = (withAsid s h.lrec.asid).asids ∧ Fresh s t ∧
        (∀ j, j ≠ id → tfind t.launches j = tfind s.launches j) ∧
        (∃ l, tfind t.launches id = some l ∧ { l with alive := [], spilled := [] } = { queue := q, priority := h.priority, lrec := h.lrec }) ∧
        { t with queues := s.queues, ctl := s.ctl, asids := s.asids, cores := s.cores, launches := s.launches, packets := s.packets } = s ∧
        (h.lrec.flags.getLsbD 0 = false → t.packets = s.packets ∧ tfind t.launches id = some { queue := q, priority := h.priority, lrec := h.lrec }))

/-- R40, R182, R183, R225, R255, R342, R355, R362-R365, R369: one team at a time is handed out: the one whose hand-out paused, else
the lowest left of the launch whose queue had the highest priority, in turn among equals; it goes to the stack of its footprint
or the nearest one with room, and without room hand-out pauses with it. A stack's dispatcher serves the head of the highest
priority that has a place; a new team is admitted whole where a core has all it needs: it leaves the queue, its groups start in
the state R40 lists, its rows are zero, and it overlaps nothing. Model's choices in it: log 20, 41, 85, 86, 88. -/
def Obligations.TeamsPlaced : Prop :=
  (∀ (s : State), s.bus = [] → Sorted s.launches →
    ((∀ id, ¬ HandsOut s id) → (∀ e, s.ctl.paused = some e → ¬ MayHandOut s e.1) →
      Runs .teamHandout s { s with ctl := { s.ctl with paused := none } }) ∧
    ((∃ id, HandsOut s id) ∨ (∃ e, s.ctl.paused = some e ∧ MayHandOut s e.1) →
      ∃ id i, NextOut s id i ∧ let l := s.launch id
        ((∀ k, k < 8 → (s.stack k).room = false) → Runs .teamHandout s { s with ctl := { s.ctl with paused := some (id, i) } }) ∧
        ((∃ k, k < 8 ∧ (s.stack k).room = true) → ∃ k p, HomeOf i (s.footprint l i) p ∧ NearestRoom s p.home k ∧ p.stack = k ∧ p.saves = 0 ∧
          Runs .teamHandout s { s with
            launches := tset s.launches id
              (if i ∈ l.unplaced then { l with unplaced := l.unplaced.erase i } else { l with next := l.next + 1 })
            stackTab := tset s.stackTab k { s.stack k with offers := (s.stack k).offers ++ [{ launch := id, team := i, place := p }] }
            ctl := { s.ctl with paused := none, rrLaunch := tset s.ctl.rrLaunch l.priority id } }))) ∧
  ((∀ (s : State) (k : Nat) (o : Offer) (r : Nat × Bool × Plan), s.served k = some (o, r) → ServedNext s k o ∧ s.placeFor k o = some r) ∧
  (∀ (s : State) (k : Nat), s.bus = [] → s.served k = none → Runs (.teamAdmit k) s s ∧ Runs (.teamRestore k) s s) ∧
  ∀ (s : State) (k core : Nat) (o : Offer) (p : Plan), let l := s.launch o.launch
    let units := List.replicate l.lrec.groups (unitsOf l.lrec.base l.lrec.width, false)
    s.served k = some (o, core, false, p) → o.saved = false → l.travel = false → l.lrec.widthCode ≤ 2 → s.bus = [] →
    (s.core core).wcb = [] →
    core / 16 = k ∧ PlanFits s l core units p ∧
    ∃ t, Runs (.teamAdmit k) s t ∧ (t.stack k).offers = (s.stack k).offers.erase o ∧ t.mem = s.mem ∧
      t.nextKey = s.nextKey + l.lrec.groups ∧
      (∀ j, j < s.nextKey ∨ s.nextKey + l.lrec.groups ≤ j → tfind t.groups j = tfind s.groups j) ∧
      (∀ j x, p.spots[j]? = some x → ∃ g, tfind t.groups (s.nextKey + j) = some g ∧ g.core = core ∧ g.part = x.part ∧
        g.slot = x.slot ∧ g.launch = o.launch ∧ Starts l o.team j g) ∧
      (∀ j, j ≠ teamKey o.launch o.team → tfind t.teams j = tfind s.teams j) ∧
      tfind t.teams (teamKey o.launch o.team) = some { launch := o.launch, index := o.team, core := core, slot := p.slot, base := p.base
                                                       size := l.bytes, accFirst := p.accFirst, accRows := l.rows, place := o.place } ∧
      (∀ r c, p.accFirst ≤ r → r < p.accFirst + l.rows → c < 256 → tget 0 (t.core core).acc (256 * r + c) = 0) ∧
      t.launches = s.launches ∧ t.queues = s.queues ∧ t.saved = s.saved)

/-- R215, R216, R219, R371, R372: a team whose groups all stand still is saved whole: every group's context, its scratchpad and its
place; without a save area its launch stops; and a saved team is restored with the same contexts and bytes at its new place.
Model's choices in it: log 18, 20, 86, 101. -/
def Obligations.TeamsSavedAndRestored : Prop :=
  ∀ (s : State), s.bus = [] → Sorted s.groups → Sorted s.teams →
    (∀ launch team : Nat, let l := s.launch launch
      let x := s.team launch team
      let key := teamKey launch team
      (∃ e ∈ s.groups, OfTeam e.2 launch team) → l.stop = none →
      (∀ e ∈ s.groups, OfTeam e.2 launch team → e.2.saving = true ∧ e.2.glz = {}) →
      ((∃ e ∈ s.groups, OfTeam e.2 launch team ∧ s.settled e.1 = false) → Runs (.forcedSave launch team) s s) ∧
      ((∀ e ∈ s.groups, OfTeam e.2 launch team → s.settled e.1 = true) → s.allocRead x.core x.base x.size = false →
        (l.lrec.save = 0 → Runs (.forcedSave launch team) s (stoppedBy s launch { kind := 3, core := x.core, team := team })) ∧
        (l.lrec.save ≠ 0 → l.draining = false →
          s.rangeTrap x.core l.lrec.asid (l.lrec.save + team * l.saveSlot) l.saveSlot .write false = none →
          ∃ t v, Runs (.forcedSave launch team) s t ∧ t.saved = s.saved ++ [v] ∧ tfind t.teams key = none ∧
            v.team = { x with place := { x.place with saves := (x.place.saves + 1) % 2 ^ 32 } } ∧
            (∀ e ∈ s.groups, OfTeam e.2 launch team → tfind t.groups e.1 = none ∧
              ∃ g, (e.1, g) ∈ v.groups ∧ contextOf g = contextOf e.2 ∧ ∀ q ln, g.queued q ln = e.2.queued q ln) ∧
            (∀ e ∈ v.groups, ∃ g, tfind s.groups e.1 = some g ∧ OfTeam g launch team) ∧
            (∀ i, i < x.size → tget 0 v.bytes i = tget 0 (s.core x.core).mem (x.base + i)) ∧
            ∃ rest, (t.stack (x.core / 16)).offers = rest ++ [{ launch := launch, team := team, place := v.team.place, saved := true }]))) ∧
    ∀ (k core : Nat) (o : Offer) (v : SavedTeam) (p : Plan), let l := s.launch o.launch
      s.served k = some (o, core, false, p) → o.saved = true →
      (s.saved.find? fun v => v.team.launch == o.launch && v.team.index == o.team) = some v →
      s.rangeTrap core l.lrec.asid (l.lrec.save + o.team * l.saveSlot) l.saveSlot .read false = none →
      (v.groups.map (·.1)).Nodup → (∀ e ∈ v.groups, e.2.glz = {} ∧ e.2.trav = none ∧ tfind s.groups e.1 = none) → (s.core core).claims = [] →
      Sorted v.bytes → v.team.size = l.bytes →
      ∃ t, Runs (.teamRestore k) s t ∧ t.saved = s.saved.erase v ∧ (t.stack k).offers = (s.stack k).offers.erase o ∧
        (∃ x, tfind t.teams (teamKey o.launch o.team) = some x ∧ x.core = core ∧ x.base = p.base ∧ x.size = v.team.size ∧
          x.accFirst = p.accFirst ∧ x.slot = p.slot) ∧
        (∀ e ∈ v.groups, ∃ g, tfind t.groups e.1 = some g ∧ g.core = core ∧ contextOf g = contextOf e.2 ∧
          ∀ q ln, g.queued q ln = e.2.queued q ln) ∧
        ∀ i, i < v.team.size → tget 0 (t.core core).mem (p.base + i) = tget 0 v.bytes i

/-- R217, R218, R372, R424: when a core's count has reached the N of a launch that waits there, its team that issued least lately
issues no more, once for that count: it is held for its save, or saved; at a drain limit the same happens to every resident
team, and without a save area the launch stops. Model's choices in it: log 20, 40, 56, 86, 101. -/
def Obligations.SwapsAndDrainLimits : Prop :=
  ∀ (s : State), s.bus = [] → Sorted s.groups →
    (∀ core : Nat, ((∀ id, ¬ SwapWaits s core id) → Runs (.forwardProgressSwap core) s s) ∧
      (KeysOnce s → (∃ id, SwapWaits s core id ∧ patienceOf s id ≤ (s.core core).idle) → ∃ id i t, SwapWaits s core id ∧
        (∀ j, SwapWaits s core j → patienceOf s id ≤ patienceOf s j) ∧ IdlestTeam s core id i ∧ Runs (.forwardProgressSwap core) s t ∧
        id ∈ (t.core core).swapped ∧
        ((∀ o ∈ (s.stack (core / 16)).offers, ¬ (o.launch = id ∧ o.team = i)) → ∀ e ∈ s.groups, OfTeam e.2 id i →
          ∀ g, tfind t.groups e.1 = some g → g.saving = true))) ∧
    (∀ core launch : Nat, tfind (s.core core).drains launch = none → Runs (.drainLimitSave core launch) s s) ∧
    ∀ (core launch : Nat) (c0 : DWord), let l := s.launch launch
      tfind (s.core core).drains launch = some c0 → c0.toNat + 2400 * l.lrec.drainLimit ≤ (s.core core).cycle.toNat →
      l.draining = true → l.stop = none → (∃ i, TeamOn s core launch i) → (s.core core).holder = none →
      (l.lrec.save = 0 → ∃ t i, Runs (.drainLimitSave core launch) s t ∧ t.groups = s.groups ∧ TeamOn s core launch i ∧
        (t.launch launch).stop = some { kind := 3, core := core, team := i, launch := launch, seq := l.lrec.seq }) ∧
      (l.lrec.save ≠ 0 → ∃ t, Runs (.drainLimitSave core launch) s t ∧ ∀ i, TeamOn s core launch i →
        ∀ e ∈ s.groups, OfTeam e.2 launch i →
          ∀ g, tfind t.groups e.1 = some g → g.saving = true ∨ (t.launch launch).stop ≠ none)

/-- R116, R182: when every strand of a group has ended, its engines are done and its flights performed, the group goes; with its
last group the team's places are free and the launch has one team less to run; a traveller's end frees its id. Model's choices
in it: log 20, 57, 99. -/
def Obligations.GroupsEnd : Prop :=
  ∀ (s : State) (k : Nat) (g : Group), tfind s.groups k = some g → s.bus = [] → Sorted s.groups →
    (g.live = true → Runs (.groupEnd k) s s) ∧
    ((∃ r ∈ s.loads, r.group = k) → Runs (.groupEnd k) s s) ∧
    (g.live = false → s.enginesDone k = true → (∀ r ∈ s.loads, r.group ≠ k) → (s.launch g.launch).stop = none →
      (∀ tr, g.trav = some tr → ∃ t, Runs (.groupEnd k) s t ∧ t.groups = tdel s.groups k ∧
        (t.launch g.launch).alive = (s.launch g.launch).alive.erase tr.id ∧ t.teams = s.teams) ∧
      (g.trav = none → g.glz.joined = false →
        let last : Prop := ∀ e ∈ s.groups, e.1 ≠ k → ¬ OfTeam e.2 g.launch g.team
        let x := s.team g.launch g.team
        s.allocRead x.core x.base x.size = false →
        ∃ t, Runs (.groupEnd k) s t ∧ tfind t.groups k = none ∧
          (∀ j, j ≠ k → tfind s.groups j = none → tfind t.groups j = none) ∧
          (∀ j h, j ≠ k → tfind s.groups j = some h → ∃ h', tfind t.groups j = some h' ∧
            { h' with held := h.held, restoring := h.restoring, strands := h.strands } = h) ∧
          (last → t.teams = tdel s.teams (teamKey g.launch g.team) ∧ (t.launch g.launch).ended = (s.launch g.launch).ended + 1) ∧
          (¬ last → t.teams = s.teams ∧ (t.launch g.launch).ended = (s.launch g.launch).ended)))

/-- R329, R341, R366, R367, R370, R373, R399, R426, R428, R446: a launch whose teams have all ended, or a travel launch of which no
traveller lives and no packet is in flight, completes: its holders are free, every core's stores are performed and its L1 and
handle entries are dropped, then the semaphore is written, and the completion is queued; while it runs, or a request of it has
no answer, nothing happens. A stopped launch waits until its strands stand at instruction boundaries and what it has begun has
run out; then what its groups stored is performed, everything of it goes, its fault record is written, its ending is queued, and
its queue stops; other launches stay as they are. Model's choices in it: log 20, 21, 43, 61, 126. -/
def Obligations.LaunchesEnd : Prop :=
  (∀ (s : State) (id : Nat) (l : Launch), tfind s.launches id = some l → l.stop = none → l.finished = false → s.bus = [] → NoKeys s →
    ((∃ r ∈ s.remotes, r.launch = id) → Runs (.launchComplete id) s s) ∧
    (l.travel = false → l.ended ≠ l.lrec.teamsX * l.lrec.teamsY → Runs (.launchComplete id) s s) ∧
    (l.travel = true → l.alive ≠ [] ∨ l.spawns ≠ [] ∨ (∃ p ∈ s.packets, p.launch = id) ∨ (∃ e ∈ s.groups, e.2.launch = id) →
      Runs (.launchComplete id) s s) ∧
    (l.travel = true → l.alive = [] → l.spawns = [] → (∀ p ∈ s.packets, p.launch ≠ id) → (∀ e ∈ s.groups, e.2.launch ≠ id) →
      (∀ r ∈ s.remotes, r.launch ≠ id) → ∃ t, Runs (.launchComplete id) s t ∧
      (∀ c, (t.core c).wcb = [] ∧ (t.core c).l1 = [] ∧ (t.core c).handles = []) ∧
      (∀ c, (∀ h, (s.core c).holder = some h → h.launch = id) → (t.core c).holder = none) ∧
      (∀ c h, (s.core c).holder = some h → h.launch ≠ id → (t.core c).holder = some h) ∧
      t.launch id = { l with finished := true, lst := if l.draining then 6 else l.lst } ∧
      t.queue l.queue = { s.queue l.queue with
        endings := (s.queue l.queue).endings ++ [{ status := 0, launch := id, seq := l.lrec.seq }] }) ∧
    (l.travel = false → (∀ c h, (s.core c).holder = some h → h.launch ≠ id) → l.ended = l.lrec.teamsX * l.lrec.teamsY →
      (∀ r ∈ s.remotes, r.launch ≠ id) → ∃ t, Runs (.launchComplete id) s t ∧
      (∀ c, (t.core c).wcb = [] ∧ (t.core c).l1 = [] ∧ (t.core c).handles = []) ∧ t.groups = s.groups ∧
      (t.launch id) = { l with finished := true, lst := if l.draining then 6 else l.lst } ∧
      t.queue l.queue = { s.queue l.queue with
        endings := (s.queue l.queue).endings ++ [{ status := 0, launch := id, seq := l.lrec.seq }] } ∧
      (l.lrec.semAddr = 0 → ∀ a, cacheable a = true → Flushed s a (t.home a)) ∧
      (l.lrec.semAddr ≠ 0 → l.lrec.semAddr % 8 = 0 → (∀ c, (s.core c).wcb = []) → s.devCheck l.lrec.asid l.lrec.semAddr .write = none →
        Reaches s (s.devPa l.lrec.asid l.lrec.semAddr) 8 none → (s.devXlate l.lrec.asid l.lrec.semAddr).key l.lrec.semAddr = none →
        Wrote s t (s.devPa l.lrec.asid l.lrec.semAddr) 8 (valByte l.lrec.semValue.toNat)))) ∧
  (∀ (s : State) (id : Nat) (l : Launch) (f : FaultRec), tfind s.launches id = some l → l.stop = some f → id ≠ 0 → s.bus = [] →
    Sorted s.cores → s.ctl.resetting = false →
    (¬ RunOut s id → Runs (.launchStop id) s s) ∧
    (RunOut s id → ∃ t, Runs (.launchStop id) s t ∧ Gone t id ∧ (∀ e ∈ s.groups, e.2.launch = id → ∀ p ∈ t.msgs, p.group ≠ e.1) ∧ (∀ j, j ≠ id → tfind t.launches j = tfind s.launches j) ∧
      t.queue l.queue = { s.queue l.queue with
        endings := (s.queue l.queue).endings ++ [{ status := if f.kind = 4 then 4 else 2, launch := id, seq := l.lrec.seq, fault := f }]
        stopped := some (if f.kind = 4 then 5 else 2) } ∧
      (s.ctl.lstateId.toNat = id → l.draining = true → l.lst ≠ 4 → t.ctl.lstate = 6) ∧
      (l.lrec.fault = 0 → NoKeys s → NoReparts s id →
        (∀ e ∈ s.groups, e.2.launch = id → (t.core e.2.core).wcb = []) ∧ ((∀ c, (s.core c).wcb = []) → ∀ a, t.home a = s.home a)) ∧
      (l.lrec.fault ≠ 0 → l.lrec.fault % 64 = 0 → NoKeys s → NoReparts s id → (∀ c, (s.core c).wcb = []) →
        s.devCheck l.lrec.asid l.lrec.fault .write = none → Reaches s (s.devPa l.lrec.asid l.lrec.fault) 64 none →
        (s.devXlate l.lrec.asid l.lrec.fault).key l.lrec.fault = none →
        Wrote s t (s.devPa l.lrec.asid l.lrec.fault) 64 (faultByte f))))

/-- R332, R366, R445, R446: while the completion ring has room the oldest ending is recorded there, the queue's numbers move on, and
a completed launch loses its pins and its id. Model's choices in it: log 21, 43, 111, 113. -/
def Obligations.CompletionsRecorded : Prop :=
  ∀ (s : State) (q : Nat) (e : Ending) (rest : List Ending), let x := s.queue q
    let c := x.ctail + 1
    let a := x.cbase.toNat + 128 * (c.toNat % 2 ^ x.csize)
    let byte (o : Nat) : Byte := if o < 64 then (if e.status = 0 ∨ e.status = 3 then 0 else faultByte e.fault o)
      else if o < 72 then valByte e.seq.toNat (o - 64) else if o < 76 then valByte e.launch (o - 72)
      else if o = 76 then e.status else if o < 120 then 0 else valByte c.toNat (o - 120)
    x.endings = e :: rest → x.ctail - x.chead ≠ BitVec.ofNat 64 (2 ^ x.csize) → Reaches s a 128 none →
    s.bus = [] → ∃ t d ahead, Runs (.completionRecord q) s t ∧ Wrote s t a 128 byte ∧
      t.queue q = { x with endings := rest, ctail := c, done := d, doneAhead := ahead } ∧
      (∃ n : Nat, d = x.done + BitVec.ofNat 64 n ∧ ∀ i, i < n → x.done + BitVec.ofNat 64 (i + 1) ∈ x.doneAhead ++ [e.seq]) ∧
      d + 1 ∉ ahead ∧ (∀ y ∈ ahead, y ∈ x.doneAhead ++ [e.seq]) ∧
      t.ctl = { s.ctl with msix := if x.cint then s.ctl.msix ++ [q] else s.ctl.msix } ∧
      t.launches = (if e.status = 0 then tdel s.launches e.launch else s.launches) ∧
      (e.status = 0 → ∀ k, ∀ y ∈ (t.stack k).tier, y.2.pin ≠ some e.launch) ∧ t.groups = s.groups ∧ t.teams = s.teams

/-- R356, R367, R473: a function-level reset disables every queue and stops every launch; a launch whose engines still run, or that
waits for the outside, stays until its stop; once none is left the queues' numbers start again and the event ring is off.
Retirements, loaded keys, wear counts and event numbers stay. Model's choices in it: log 44. -/
def Obligations.FunctionLevelReset : Prop :=
  ∀ (s : State), s.bus = [] → Sorted s.launches → (∀ e ∈ s.launches, e.2.stop ≠ none → e.2.finished = false) →
    ∃ t, Runs .functionLevelReset s t ∧
    (∀ q, (t.queue q).enable = false ∧ (t.queue q).head = none) ∧
    (∀ id l, tfind s.launches id = some l → l.finished = false → ¬ EnginesIdle s id → t.ctl.resetting = true ∧
      t.ctl.heven = s.ctl.heven ∧ ∃ l', tfind t.launches id = some l' ∧ l'.stop ≠ none) ∧
    ((∀ e ∈ s.launches, e.2.finished = false → RunOut s e.1) → (∀ id, tfind t.launches id = none) ∧ t.ctl.heven = false ∧
      t.ctl.resetting = false ∧
      ∀ q, (t.queue q).cons = 0 ∧ (t.queue q).done = 0 ∧ (t.queue q).kicked = 0 ∧ (t.queue q).ctail = 0 ∧ (t.queue q).endings = []) ∧
    t.ctl.keys = s.ctl.keys ∧ t.ctl.framesOut = s.ctl.framesOut ∧ t.ctl.hevtail = s.ctl.hevtail ∧
    (∀ k, let x := t.stack k
      let y := s.stack k
      x.waysOut = y.waysOut ∧ x.wearCyc = y.wearCyc ∧ x.wearHot = y.wearHot ∧ x.wearEm = y.wearEm ∧ x.wearEol = y.wearEol ∧
        x.wearDay = y.wearDay ∧ x.periods = y.periods) ∧
    ∀ c, (∀ b, b ∈ (t.core c).banksOut ++ (t.core c).banksDue ↔ b ∈ (s.core c).banksOut ++ (s.core c).banksDue) ∧
      ∀ p, p ∈ (t.core c).partsOut ++ (t.core c).partsDue ↔ p ∈ (s.core c).partsOut ++ (s.core c).partsDue

/-- R218, R369, R370, R424, R426: a drain hands out nothing more of a launch, takes its waiting teams back and starts its limit on
every core; a resume of a drained launch offers its saved teams again, or sends its travellers from their slots in increasing
id; a command that names another launch changes LSTATE alone. Model's choices in it: log 42. -/
def Obligations.DrainCommands : Prop :=
  ∀ (s : State) (id : Nat), s.bus = [] → id < 2 ^ 32 → Sorted s.stackTab →
    ((∀ l, ¬ Commanded s id l) → Runs (.lcmdDrain id) s (named s id) ∧ Runs (.lcmdResume id) s (named s id)) ∧
    ∀ l, Commanded s id l →
      (l.draining = true → Runs (.lcmdDrain id) s (named s id)) ∧
      (l.lst ≠ 2 → Runs (.lcmdResume id) s (named s id)) ∧
      (l.draining = false → ∃ t, Runs (.lcmdDrain id) s t ∧
        let quiet : Prop := (∀ e ∈ s.groups, e.2.launch = id → e.2.live = false) ∧ (∀ e ∈ s.teams, e.2.launch ≠ id) ∧
          (∀ p ∈ s.packets, p.launch ≠ id) ∧ l.spawns = [] ∧ ∀ c ∈ s.cores, ∀ h, c.2.holder = some h → h.launch ≠ id
        (∃ back, t.launch id = { l with draining := true, lst := t.ctl.lstate, unplaced := l.unplaced ++ back } ∧
          ∀ i, i ∈ back ↔ ∃ k, ∃ o ∈ (s.stack k).offers, o.launch = id ∧ o.saved = false ∧ o.team = i) ∧
        t.ctl = { s.ctl with lstateId := BitVec.ofNat 32 id, lstate := t.ctl.lstate } ∧
        (quiet → l.stop = none → t.ctl.lstate = 2) ∧ (¬ quiet ∨ l.stop ≠ none → t.ctl.lstate = 1) ∧
        (∀ k, ∀ o ∈ (t.stack k).offers, o ∈ (s.stack k).offers ∧ (o.launch = id → o.saved = true)) ∧
        (∀ c x, tfind s.cores c = some x → tfind (t.core c).drains id = some x.cycle ∧
          ∀ h, x.holder = some h → (t.core c).holder = some { h with admitting := h.admitting && h.launch != id }) ∧
        t.groups = s.groups ∧ t.teams = s.teams) ∧
      (l.lst = 2 → l.travel = false → ∃ t, Runs (.lcmdResume id) s t ∧ t.launch id = { l with draining := false, lst := 3 } ∧
        t.ctl = { s.ctl with lstateId := BitVec.ofNat 32 id, lstate := 3 } ∧ (∀ c, tfind (t.core c).drains id = none) ∧
        (∀ v ∈ s.saved, v.team.launch = id → ∃ o ∈ (t.stack v.team.place.stack).offers, o.launch = id ∧ o.team = v.team.index) ∧
        (∀ k, ∀ o ∈ (s.stack k).offers, o ∈ (t.stack k).offers) ∧ t.groups = s.groups ∧ t.saved = s.saved) ∧
      (l.lst = 2 → l.travel = true → (∀ v ∈ s.saved, v.team.launch ≠ id) → (l.spilled.map (·.id)).Nodup → (∀ p ∈ l.spilled, p.launch = id) →
        (∀ p ∈ l.spilled, ∀ a ∈ pageStarts (l.lrec.pool + 4096 * p.id) (if p.whole = none then 1184 else 4096),
          s.devFail l.lrec.asid a .read = none) →
        (∀ p ∈ l.spilled, p.whole = none → s.devN l.lrec.asid (l.lrec.pool + 4096 * p.id) 4 = p.id) →
        let entry (i : Nat) : Nat := s.devN l.lrec.asid (l.lrec.segmap + 0x40 + 8 * i) 8
        ∃ (t : State) (out stay : List Packet), Runs (.lcmdResume id) s t ∧ (∀ c, tfind (t.core c).drains id = none) ∧
          t.launch id = { l with draining := false, lst := 3, spilled := stay
                                 savedHolders := l.savedHolders.filter fun v => ((holdersOf (entry v.segment)).map (·.2)).contains v.core } ∧
          t.ctl = { s.ctl with lstateId := BitVec.ofNat 32 id, lstate := 3 } ∧ t.groups = s.groups ∧
          t.packets = s.packets ++ out ∧ out.Pairwise (fun p q => p.id < q.id) ∧ out.length + stay.length = l.spilled.length ∧
          ∀ p ∈ l.spilled, ∃ q, InSlot s l p q ∧
            ((∃ c, HolderChosen (entry q.segment) (fun _ => 0) q.id c ∧ { q with core := c, sender := none } ∈ out) ∨
              (holdersOf (entry q.segment) = [] ∧ q ∈ stay)))

/-- R378: an invalidation takes the matching translations out of every TLB and, where it says so, the handle entries of its ASID
with a new read of the ASID entry; while one is under way another is ignored; it completes once every access that used them is
done. Model's choices in it: log 20, 45. -/
def Obligations.Invalidations : Prop :=
  ∀ (s : State) (asid : BitVec 16), s.bus = [] →
    (s.ctl.inv ≠ none → (∀ all hnd, Runs (.invcmdTlb asid all hnd) s s) ∧ Runs (.invcmdHnd asid) s s) ∧
    (s.ctl.inv = none → ∀ (all tlb hnd : Bool), tlb = true ∨ (hnd = true ∧ all = false) →
      let lo := s.ctl.invaddr.toNat
      let hit (e : TlbEntry) : Prop := e.asid = asid.toNat ∧
        (all = true ∨ (e.va < lo + s.ctl.invpages.toNat * 65536 ∧ lo < e.va + e.leaf.size))
      ∃ t, Runs (if tlb then .invcmdTlb asid all hnd else .invcmdHnd asid) s t ∧
        { t with cores := s.cores, asids := s.asids, ctl := s.ctl } = s ∧
        t.ctl = { s.ctl with inv := some (asid.toNat, all, tlb, hnd) } ∧
        t.asids = (if hnd then tset s.asids asid.toNat (s.readAsid asid.toNat) else s.asids) ∧
        ∀ c, { t.core c with tlb := (s.core c).tlb, handles := (s.core c).handles } = s.core c ∧
          (∀ e, e ∈ (t.core c).tlb ↔ e ∈ (s.core c).tlb ∧ ¬ (tlb = true ∧ hit e)) ∧
          ∀ k, tfind (t.core c).handles k = if hnd = true ∧ k / 4096 = asid.toNat then none else tfind (s.core c).handles k) ∧
    (s.ctl.inv = none → Runs .invalidationComplete s s) ∧
    ∀ a b c d, s.ctl.inv = some (a, b, c, d) →
      (StillUses s a d → Runs .invalidationComplete s s) ∧
      (¬ StillUses s a d → NoKeys s → ∃ t, Runs .invalidationComplete s t ∧
        t.ctl = { s.ctl with inv := none, invdone := s.ctl.invdone + 1 } ∧ (∀ c, (t.core c).wcb = []) ∧
        (∀ a, cacheable a = true → Flushed s a (t.home a)) ∧ t.groups = s.groups)

/-- R410, R420, R421: SPAWN asks for a traveller for every strand of its set and passes, or takes the trap of its first check that
fails; TLOC writes where its set is; the dispatcher gives a request's travellers the lowest free ids and sends their packets.
Model's choices in it: log 20, 62, 107. -/
def Obligations.TravelInstructions : Prop :=
  ∀ (s : State), s.bus = [] →
    (∀ (d a b : Reg) (n c segment : Nat) (pc : DWord), SpawnArgs s d a b n pc c → SpawnOk s n pc c segment → Stays s 1 → ∃ t, Runs (.spawn d a b) s t ∧
      PassesIn s t id ∧ { t with groups := s.groups, nextKey := s.nextKey, launches := s.launches } = s ∧
      (∀ k, k ≠ s.gk → tfind t.groups k = tfind s.groups k) ∧ (∀ j, j ≠ s.g.launch → tfind t.launches j = tfind s.launches j) ∧
      t.lau = { s.lau with spawns := s.lau.spawns ++
        [{ launch := s.g.launch, packets := s.ks.map fun _ => newcomer s n pc c segment }] }) ∧
    (∀ (d a b : Reg) (x : Trap), SpawnTrap s d a b x → ∃ t, Runs (.spawn d a b) s t ∧ TakesTrap s t x) ∧
    (∀ d : Reg, NotScalar s d → ∃ t, Runs (.tloc d) s t ∧ TakesTrap s t { cause := 0x03 }) ∧
    (∀ d : Fin 64, s.foreignS d.val = false → Stays s 1 → s.g.core < 128 → s.g.part < 4 → s.leadK < 32 →
      let segment := match (s.core s.g.core).holder with | some h => h.segment | none => 0
      (∀ tr, s.g.trav = some tr → tr.slot < 32 ∧ tr.id < 2 ^ 32 ∧ segment < 2 ^ 16) →
      let x := match s.g.trav with
        | some tr => s.g.core + 2 ^ 7 + segment * 2 ^ 8 + (s.g.part * 32 + tr.slot) * 2 ^ 24 + tr.id * 2 ^ 32
        | none => s.g.core + 0xFFFF * 2 ^ 8 + (s.g.part * 32 + s.leadK) * 2 ^ 24 + 0xFFFFFFFF * 2 ^ 32
      ∃ t, Runs (.tloc (.s d)) s t ∧ Passes s t 1 fun g => g.putS d.val (BitVec.ofNat 64 x)) ∧
    ∀ launch : Nat, let l := s.launch launch
      (l.spawns = [] ∨ l.stop ≠ none → Runs (.spawnAllocate launch) s s) ∧
      ∀ req rest, l.spawns = req :: rest → l.stop = none → (∀ p ∈ req.packets, p.launch = launch) →
        ∃ (t : State) (ids : List Nat), Runs (.spawnAllocate launch) s t ∧ ids.length = req.packets.length ∧
          (t.launch launch).spawns = rest ∧ (t.launch launch).alive = l.alive ++ ids ∧
          (∀ (i : Nat) (id : Nat), ids[i]? = some id → id ∉ l.alive ++ ids.take i ∧ (∀ j, j < id → j ∈ l.alive ++ ids.take i) ∧
            ∃ p, req.packets[i]? = some p ∧ ((∃ c, { p with id := id, core := c, sender := some p.core } ∈ t.packets) ∨
              { p with id := id } ∈ (t.launch launch).spilled)) ∧ t.groups = s.groups

/-- R405, R414-R417, R423, R424: a packet enters its holder's order, is forwarded to another holder, or waits; an admitted packet
gives its traveller the state R417 lists in the lowest free slot of the partition with the most, the lower of a tie; every core
hears a holder's occupancy. Model's choices in it: log 20, 35, 38, 57. -/
def Obligations.Arrivals : Prop :=
  ∀ (s : State), s.bus = [] → Sorted s.groups →
    (∀ (idx : Nat) (p : Packet), s.packets[idx]? = some p →
      ((∃ h, (s.core p.core).holder = some h ∧ h.launch = p.launch ∧ h.segment = p.segment ∧ h.loaded = false) ∨
        ((∀ h, (s.core p.core).holder = some h → h.launch ≠ p.launch) ∧ (s.launch p.launch).draining = false) →
        Runs (.packetArrival idx) s s) ∧
      ((∀ h, (s.core p.core).holder = some h → h.launch ≠ p.launch) → (s.launch p.launch).draining = true →
        ∃ t, Runs (.packetArrival idx) s t ∧ t.packets = ldel s.packets idx ∧ t.groups = s.groups ∧
          (t.launch p.launch).spilled = (s.launch p.launch).spilled ++ [p]) ∧
      ∀ h, (s.core p.core).holder = some h → h.launch = p.launch →
        (h.segment ≠ p.segment → p.sender ≠ some p.core → ∃ t, Runs (.packetArrival idx) s t ∧
          Sent { s with packets := ldel s.packets idx } t (some p.core) p ∧ Heard t p h.occupancy ∧
          (t.core p.core).holder = some { h with forwarded := h.forwarded + 1 }) ∧
        (h.segment = p.segment → h.loaded = true → ∃ t, Runs (.packetArrival idx) s t ∧ t.packets = ldel s.packets idx ∧
          let spill : Bool := p.whole.isNone && decide (64 ≤ h.occupancy)
          (t.core p.core).holder = some { h with
            arrivals := h.arrivals ++ [(spill || p.whole.isSome, p)], arrivedNow := h.arrivedNow + 1
            spilled := if spill then h.spilled + 1 else h.spilled } ∧
          Heard t p (h.occupancy + if spill ∨ p.whole.isSome then 0 else 1) ∧ t.groups = s.groups)) ∧
    (∀ (core : Nat) (h : Holder) (p : Packet) (rest : List (Bool × Packet)), (s.core core).holder = some h →
      h.arrivals = (false, p) :: rest → h.loaded = true → h.admitting = true → (s.launch h.launch).stop = none → p.launch = h.launch →
      ((∀ part slot, part < 4 → slot < 32 → SlotTaken s core part slot) → Runs (.travellerAdmission core) s s) ∧
      (h.segment = p.segment → PacketForm p → (∃ part slot, part < 4 ∧ slot < 32 ∧ ¬ SlotTaken s core part slot) →
        ∃ t k g, Runs (.travellerAdmission core) s t ∧ t.groups = tset s.groups k g ∧ k = (if p.key = 0 then s.nextKey else p.key) ∧
          Unpacks p (s.launch h.launch) (s.segBase core (s.launch h.launch)) g ∧ g.core = core ∧ SlotChosen s core g.part g.slot ∧
          (∃ tr, g.trav = some tr ∧ tr.slot = g.slot) ∧ (t.core core).holder = some { h with arrivals := rest } ∧
          (t.core core).l1 = [] ∧ (t.core core).handles = [])) ∧
    ∀ core : Nat, ((s.core core).holder = none → Runs (.occupancyReport core) s s) ∧
      ∀ h, (s.core core).holder = some h → ∃ t, Runs (.occupancyReport core) s t ∧
        (∀ c, c < 128 → tget 0 (t.core c).heard core = h.occupancy) ∧
        (t.core core).holder = some { h with
          hot := if 48 < h.occupancy then h.hot + 1 else 0
          recent := (h.recent ++ [h.arrivedNow]).drop (h.recent.length + 1 - 100), arrivedNow := 0 } ∧
        ∀ c, { t.core c with heard := (s.core c).heard, holder := (s.core c).holder } = s.core c

/-- R400, R403, R406-R408, R411-R414, R422, R426, R427, R462: an instruction that takes a traveller out of its segment takes the
trap of the first check that fails, with no other effect, or 0x3F where a register that its packet carries holds an error, or
the traveller waits to depart; it waits for its copies, its matrix operations and its accesses; then it makes a release at
package scope, its packet leaves for a holder with what R413 lists, and its slot is free. A core named by a segment map becomes
its holder with a fresh allocation, the segment pinned as memory holds it; a hot segment takes the donor that R422 names, whose
travellers leave; and a swap, once for each count, sends the traveller that R427 names with its whole context to the tail of the
holder's order. Model's choices in it: log 11, 20, 36, 37, 39, 40, 85, 108, 109, 114, 119. -/
def Obligations.TravellersLeave : Prop :=
  ((∀ (s : State) (i : Instr) (f : Nat → Strand → Strand) (tr : Trav), MoveRule s i f → s.bus = [] → s.g.trav = some tr →
    s.ks = [0] → s.g.strands.length = 1 → let y := f 0 (s.g.strand 0)
    y.handler = false → y.ended = false → s.segmentOf s.g.core s.lau y.pc ≠ some (ownSegment s) →
    (∀ x, DepartBad s y x → ∃ t, Runs i s t ∧ TakesTrap s t x) ∧
    ((∀ x, ¬ DepartBad s y x) → CarriesBad s.g y.live → ∃ t, Runs i s t ∧ TakesTrap s t { cause := 0x3F }) ∧
    ((∀ x, ¬ DepartBad s y x) → ¬ CarriesBad s.g y.live → ∃ t n, Runs i s t ∧ OnlyIssuer s t ∧
      t.g.strands = [{ ready y y.jset n with wait := some .departure }] ∧
      { t.g with strands := s.g.strands } = { s.g with trav := some { tr with leaving := some y.pc } })) ∧
  ∀ (s : State) (k : Nat) (g : Group) (tr : Trav) (x : DWord), tfind s.groups k = some g → g.trav = some tr → tr.leaving = some x →
    s.bus = [] →
    (s.enginesDone k = false ∨ (∃ r ∈ s.loads, r.group = k) ∨ (∃ r ∈ s.remotes, r.group = k) ∨ (s.launch g.launch).stop ≠ none →
      Runs (.travellerDeparture k) s s) ∧
    (s.enginesDone k = true → (∀ r ∈ s.loads, r.group ≠ k) → (∀ r ∈ s.remotes, r.group ≠ k) → (s.launch g.launch).stop = none →
      (CarriesBad g (g.strand 0).live → ∃ t, Runs (.travellerDeparture k) s t ∧ t.packets = s.packets ∧
        ∃ r, (t.launch g.launch).stop = some r ∧ r.cause = 0x3F) ∧
      (¬ CarriesBad g (g.strand 0).live → (s.core g.core).wcb = [] → ∃ t p, Runs (.travellerDeparture k) s t ∧
      PacksUp g (s.segBase g.core (s.launch g.launch)) ((s.segmentOf g.core (s.launch g.launch) x).getD 0) x p ∧ Sent s t (some g.core) p ∧
      tfind t.groups k = none ∧ (∀ j, j ≠ k → tfind t.groups j = tfind s.groups j) ∧
      (∀ c, c < 128 → (t.core c).psig = (s.core c).psig ||| g.wsig3) ∧ t.mem = s.mem))) ∧
  (∀ (s : State), s.bus = [] → Sorted s.groups →
    (∀ core : Nat, (s.core core).holder.isSome = true ∨ (∀ e ∈ s.launches, e.2.travel = false ∨ e.2.stop ≠ none ∨ e.2.finished = true ∨
        e.2.draining = true) → Runs (.segmentLoad core) s s) ∧
    (∀ (core id i : Nat) (l : Launch), s.launches = [(id, l)] → l.travel = true → l.stop = none → l.finished = false → l.draining = false →
      NamedFor s core l i → (s.core core).holder = none → (s.core core).shutBanks = [] → (s.core core).shutParts = [] →
      (s.core core).claims = [] → l.bytes ≤ 458752 → l.rows ≤ 256 → l.lrec.base ≤ 64 → l.savedHolders = [] →
      (∀ e ∈ s.teams, e.2.core ≠ core ∧ (e.2.pair = true → e.2.core + 1 ≠ core)) → (∀ e ∈ s.groups, e.2.core ≠ core) →
      (s.core core).wcb = [] → s.readVa core l.lrec.asid (l.lrec.segmap + 0x10) 8 = 0 →
      ∃ t h, Runs (.segmentLoad core) s t ∧ (t.core core).holder = some h ∧ h.launch = id ∧ h.segment = i ∧ h.loaded = true ∧
        PinsSegment s core l i h.code ∧ h.admitting = true ∧ h.arrivals = [] ∧ h.base = 0 ∧ h.size = l.bytes ∧ h.accFirst = 0 ∧ h.accRows = l.rows ∧
        (∀ n, n < l.bytes → tget 0 (t.core core).mem n = 0) ∧ (∀ n, n < 256 * l.rows → tget 0 (t.core core).acc n = 0)) ∧
    (∀ launch segment : Nat, let l := s.launch launch
      let e := s.entryFor none l segment
      ((∀ x ∈ holdersOf e, ∀ h, (s.core x.2).holder = some h → h.hot < 100) ∨ e / 2 ^ 32 % 2 = 1 → Runs (.segmentReplication launch segment) s s) ∧
      ∀ f c g gf old, (tfind s.launches launch).isSome = true → l.stop = none → l.lst ≠ 2 → e / 2 ^ 32 % 2 = 0 →
        (∃ x ∈ holdersOf e, ∃ h, (s.core x.2).holder = some h ∧ h.launch = launch ∧ h.segment = segment ∧ 100 ≤ h.hot) →
        FieldFree e f → DonorIs s l segment c g gf → NamedOnce s l segment → (s.core c).holder = some old → old.launch = launch → old.segment = g →
        (∀ x ∈ s.groups, x.2.core = c → s.settled x.1 = true ∧ x.2.bad = []) → s.allocRead c old.base old.size = false →
        ∃ t new, Runs (.segmentReplication launch segment) s t ∧ (t.core c).holder = some new ∧ new.segment = segment ∧ new.launch = launch ∧
          new.arrivals = [] ∧ new.base = old.base ∧ new.size = old.size ∧
          ∀ y ∈ t.groups, y.2.core = c → y.2.trav = none ∨ y.2.live = false) ∧
    ∀ core : Nat, ((s.core core).holder = none → Runs (.travellerProgressSwap core) s s) ∧
      (∀ h, (s.core core).holder = some h → h.swapped = true → ∃ t, Runs (.travellerProgressSwap core) s t ∧ t.groups = s.groups ∧
        (t.core core).holder = some h) ∧
      ∀ h, (s.core core).holder = some h → h.swapped = false → (s.launch h.launch).patience ≤ (s.core core).cycle.toNat - h.lastBusy → h.arrivals ≠ [] →
        h.admitting = true → (∀ part slot, part < 4 → slot < 32 → SlotTaken s core part slot) →
        (∃ k, IdlestIs s core k) → (∀ k, IdlestIs s core k → s.settled k = true) →
        ∃ k g t new p w, IdlestIs s core k ∧ tfind s.groups k = some g ∧ Runs (.travellerProgressSwap core) s t ∧ (t.core core).holder = some new ∧ (true, p) ∈ new.arrivals ∧
          new.lastBusy = h.lastBusy ∧ new.swapped = true ∧ p.whole = some w ∧ contextOf w = contextOf g)

/-- Every step keeps memory in its canonical form with no write pending, stops only on an agenda entry that is no event, and refuses
nothing: every instruction and every event answers a next state from every state. Model's choices in it: log 1. -/
def Obligations.StepKeepsInv : Prop :=
  (∀ s t : State, Inv s → Steps s t → Inv t) ∧
  (∀ (i : Instr) (s : State), Memory.wf s.mem → ∃ t, Runs i s t ∧ Inv t) ∧
  ∀ s : State, (∃ t, Steps s t) ∨ (step s = .fault .agendaNotEvent ∧ ∃ e es, s.agenda = e :: es ∧ ¬ (encode e = none ∧ WellFormed e = true))

/-- Every step keeps the tables of groups, cores, stacks, teams, launches, queues, local memory and saved bytes listing each key
once and in rising order: the invariant that other statements assume. Model's choices in it: log 72. -/
def Obligations.TablesStaySorted : Prop := ∀ s t : State, TablesSorted s → Steps s t → TablesSorted t

/-- R353, R370, R378, R449, R455, R474: after reset nothing runs, every queue is disabled with its numbers at 0, bring-up has not
begun, no window is valid, no launch is named by LSTATE, no invalidation is under way, the event ring is disabled and empty with
nothing lost, and a step changes nothing. Memory reads as 0, which is the model's choice (log 2). Model's choices in it: log 6. -/
def Obligations.ResetState : Prop :=
  let s := State.reset
  Inv s ∧ TablesSorted s ∧ s.groups = [] ∧ s.launches = [] ∧ s.teams = [] ∧ (∀ a, s.home a = 0) ∧
  s.ctl.boot = 0 ∧ s.ctl.portup = 0 ∧ s.ctl.lstate = 0 ∧ s.ctl.lstateId = 0 ∧ s.ctl.inv = none ∧ s.ctl.invdone = 0 ∧
  s.ctl.heven = false ∧ s.ctl.hevhead = 0 ∧ s.ctl.hevtail = 0 ∧ s.ctl.hevlost = 0 ∧
  (∀ q, s.queue q = {} ∧ (s.queue q).enable = false ∧ (s.queue q).cons = 0 ∧ (s.queue q).done = 0 ∧ (s.queue q).base = 0) ∧
  (∀ w, s.window w = {}) ∧ (∀ k, s.stack k = {}) ∧ (∀ c, s.core c = {}) ∧ Steps s s
end

