-- ==== Sys2Proof/Laws/Table.lean ====
section
/-!
SUPPORT. Laws of sparse tables: what a read gives after a write, and that writes keep the canonical form.
-/
namespace Sys2Proof.Machine

variable {α : Type}

@[simp] theorem tfind_nil (n : Nat) : tfind ([] : Table α) n = none := rfl

theorem tfind_cons (k : Nat) (v : α) (t : Table α) (n : Nat) :
    tfind ((k, v) :: t) n = if k = n then some v else tfind t n := rfl

theorem tfind_tset (t : Table α) (n m : Nat) (v : α) :
    tfind (tset t n v) m = if n = m then some v else tfind t m := by
  induction t with
  | nil => simp [tset, tfind]
  | cons e t ih =>
    obtain ⟨k, w⟩ := e
    simp only [tset]
    by_cases h1 : n < k
    · simp [h1, tfind_cons]
    · by_cases h2 : n = k
      · subst h2; simp [tfind_cons]; split <;> simp_all
      · simp only [h1, h2, if_false, tfind_cons, ih]
        by_cases h3 : k = m
        · simp [h3, show n ≠ m by omega]
        · simp [h3]

@[simp] theorem tfind_tset_self (t : Table α) (n : Nat) (v : α) : tfind (tset t n v) n = some v := by
  simp [tfind_tset]

theorem tfind_tset_ne (t : Table α) {n m : Nat} (v : α) (h : n ≠ m) : tfind (tset t n v) m = tfind t m := by
  simp [tfind_tset, h]

theorem tfind_tdel (t : Table α) (n m : Nat) : tfind (tdel t n) m = if n = m then none else tfind t m := by
  induction t with
  | nil => simp [tdel, tfind]
  | cons e t ih =>
    obtain ⟨k, w⟩ := e
    simp only [tdel]
    by_cases h1 : k = n
    · subst h1; simp only [if_true, ih, tfind_cons]; split <;> simp_all
    · simp only [h1, if_false, tfind_cons, ih]
      by_cases h3 : k = m
      · simp [h3, show n ≠ m by omega]
      · simp [h3]

@[simp] theorem tget_nil (d : α) (n : Nat) : tget d [] n = d := rfl

theorem tget_tset (d : α) (t : Table α) (n m : Nat) (v : α) :
    tget d (tset t n v) m = if n = m then v else tget d t m := by
  simp only [tget, tfind_tset]; split <;> simp

@[simp] theorem tget_tset_self (d : α) (t : Table α) (n : Nat) (v : α) : tget d (tset t n v) n = v := by
  simp [tget_tset]

theorem tget_tset_ne (d : α) (t : Table α) {n m : Nat} (v : α) (h : n ≠ m) : tget d (tset t n v) m = tget d t m := by
  simp [tget_tset, h]

theorem tget_tput [DecidableEq α] (d : α) (t : Table α) (n m : Nat) (v : α) :
    tget d (tput d t n v) m = if n = m then v else tget d t m := by
  unfold tput
  split
  · simp only [tget, tfind_tdel]; split <;> simp_all
  · exact tget_tset d t n m v

@[simp] theorem tget_tput_self [DecidableEq α] (d : α) (t : Table α) (n : Nat) (v : α) :
    tget d (tput d t n v) n = v := by simp [tget_tput]

theorem tget_tput_ne [DecidableEq α] (d : α) (t : Table α) {n m : Nat} (v : α) (h : n ≠ m) :
    tget d (tput d t n v) m = tget d t m := by simp [tget_tput, h]

/-- Writing a key twice keeps the later value. -/
theorem tset_tset (t : Table α) (n : Nat) (v w : α) : tset (tset t n v) n w = tset t n w := by
  induction t with
  | nil => simp [tset]
  | cons e t ih =>
    obtain ⟨k, x⟩ := e
    simp only [tset]
    by_cases h1 : n < k
    · simp [h1, tset]
    · by_cases h2 : n = k
      · simp [h2, tset]
      · simp [h1, h2, tset, ih]

/-- Every key of a table lies above a bound. -/
def above (b : Nat) (t : Table α) : Prop := ∀ e ∈ t, b < e.1

/-- The canonical form said by its parts. -/
theorem tcanon_cons [DecidableEq α] (d : α) (k : Nat) (v : α) (t : Table α) :
    tcanon d ((k, v) :: t) = true ↔ v ≠ d ∧ above k t ∧ tcanon d t = true := by
  induction t generalizing k v with
  | nil => simp [tcanon, above]
  | cons e t ih =>
    obtain ⟨k', v'⟩ := e
    rw [tcanon, Bool.and_eq_true, Bool.and_eq_true]
    have := ih k' v'
    constructor
    · rintro ⟨⟨h1, h2⟩, h3⟩
      have h2' : k < k' := by simpa using h2
      refine ⟨by simpa using h1, ?_, h3⟩
      intro x hx
      rcases List.mem_cons.mp hx with rfl | hx
      · exact h2'
      · exact lt_trans h2' ((this.mp h3).2.1 x hx)
    · rintro ⟨h1, h2, h3⟩
      exact ⟨⟨by simpa using h1, by simpa using h2 (k', v') (by simp)⟩, h3⟩

theorem above_tset {b : Nat} {t : Table α} (h : above b t) {n : Nat} (hn : b < n) (v : α) : above b (tset t n v) := by
  induction t with
  | nil => intro e he; simp [tset] at he; subst he; exact hn
  | cons e t ih =>
    obtain ⟨k, w⟩ := e
    have hk : b < k := h (k, w) (by simp)
    have ht : above b t := fun e he => h e (by simp [he])
    intro e he
    simp only [tset] at he
    split at he
    · rcases List.mem_cons.mp he with rfl | he
      · exact hn
      · exact h e he
    · split at he
      · rcases List.mem_cons.mp he with rfl | he
        · exact hn
        · exact ht e he
      · rcases List.mem_cons.mp he with rfl | he
        · exact hk
        · exact ih ht e he

theorem above_tdel {b : Nat} {t : Table α} (h : above b t) (n : Nat) : above b (tdel t n) := by
  induction t with
  | nil => intro e he; simp [tdel] at he
  | cons e t ih =>
    obtain ⟨k, w⟩ := e
    have ht : above b t := fun e he => h e (by simp [he])
    simp only [tdel]
    split
    · exact ih ht
    · intro e he
      rcases List.mem_cons.mp he with rfl | he
      · exact h (k, w) (by simp)
      · exact ih ht e he

theorem above_mono {b c : Nat} {t : Table α} (h : above c t) (hb : b ≤ c) : above b t :=
  fun e he => lt_of_le_of_lt hb (h e he)

/-- Taking an entry out keeps the canonical form. -/
theorem tcanon_tdel [DecidableEq α] (d : α) (t : Table α) (n : Nat) (h : tcanon d t = true) :
    tcanon d (tdel t n) = true := by
  induction t with
  | nil => rfl
  | cons e t ih =>
    obtain ⟨k, w⟩ := e
    obtain ⟨h1, h2, h3⟩ := (tcanon_cons d k w t).mp h
    simp only [tdel]
    split
    · exact ih h3
    · exact (tcanon_cons d k w _).mpr ⟨h1, above_tdel h2 n, ih h3⟩

/-- Listing a value other than the default keeps the canonical form. -/
theorem tcanon_tset [DecidableEq α] (d : α) (t : Table α) (n : Nat) {v : α} (hv : v ≠ d) (h : tcanon d t = true) :
    tcanon d (tset t n v) = true := by
  induction t with
  | nil => simp [tset, tcanon, hv]
  | cons e t ih =>
    obtain ⟨k, w⟩ := e
    obtain ⟨h1, h2, h3⟩ := (tcanon_cons d k w t).mp h
    simp only [tset]
    by_cases hk : n < k
    · simp only [hk, if_true]
      refine (tcanon_cons d n v _).mpr ⟨hv, ?_, h⟩
      intro e he
      rcases List.mem_cons.mp he with rfl | he
      · exact hk
      · exact lt_trans hk (h2 e he)
    · by_cases hk2 : n = k
      · subst hk2
        simp only [lt_irrefl, if_false, if_true]
        exact (tcanon_cons d n v t).mpr ⟨hv, h2, h3⟩
      · simp only [hk, hk2, if_false]
        exact (tcanon_cons d k w _).mpr ⟨h1, above_tset h2 (by omega) v, ih h3⟩

/-- A write in canonical form keeps it. -/
theorem tcanon_tput [DecidableEq α] (d : α) (t : Table α) (n : Nat) (v : α) (h : tcanon d t = true) :
    tcanon d (tput d t n v) = true := by
  unfold tput
  split
  · exact tcanon_tdel d t n h
  · exact tcanon_tset d t n ‹_› h

/-- No entry stands under a key below all of a table. -/
theorem tfind_above {t : Table α} {n : Nat} (h : above n t) : tfind t n = none := by
  induction t with
  | nil => rfl
  | cons e t ih =>
    obtain ⟨k, w⟩ := e
    have : n < k := h (k, w) (by simp)
    rw [tfind_cons, if_neg (by omega)]
    exact ih fun e he => h e (by simp [he])

/-- Equal canonical tables: two tables that give the same values are the same list. -/
theorem tcanon_ext [DecidableEq α] (d : α) (t u : Table α) (ht : tcanon d t = true) (hu : tcanon d u = true)
    (h : ∀ n, tget d t n = tget d u n) : t = u := by
  induction t generalizing u with
  | nil =>
    cases u with
    | nil => rfl
    | cons e u =>
      obtain ⟨k, w⟩ := e
      have := h k
      have h1 := ((tcanon_cons d k w u).mp hu).1
      simp [tget, tfind_cons] at this
      exact absurd this.symm h1
  | cons e t ih =>
    obtain ⟨k, v⟩ := e
    obtain ⟨a1, a2, a3⟩ := (tcanon_cons d k v t).mp ht
    cases u with
    | nil =>
      have := h k
      simp [tget, tfind_cons] at this
      exact absurd this a1
    | cons e' u =>
      obtain ⟨k', w⟩ := e'
      obtain ⟨b1, b2, b3⟩ := (tcanon_cons d k' w u).mp hu
      have hk : k = k' := by
        rcases Nat.lt_trichotomy k k' with hlt | heq | hgt
        · have := h k
          rw [tget, tget, tfind_cons, if_pos rfl, tfind_cons, if_neg (by omega),
            tfind_above (above_mono b2 (by omega))] at this
          exact absurd this a1
        · exact heq
        · have := h k'
          rw [tget, tget, tfind_cons, if_neg (by omega), tfind_cons, if_pos rfl,
            tfind_above (above_mono a2 (by omega))] at this
          exact absurd this.symm b1
      subst hk
      have hv : v = w := by simpa [tget, tfind_cons] using h k
      subst hv
      congr 1
      refine ih u a3 b3 fun n => ?_
      by_cases hn : k = n
      · subst hn; simp [tget, tfind_above a2, tfind_above b2]
      · have := h n
        simpa [tget, tfind_cons, hn] using this

/-- A table with every value changed holds the changed value. -/
theorem tfind_map {α β : Type} (f : α → β) (t : Table α) (k : Nat) : tfind (t.map fun e => (e.1, f e.2)) k = (tfind t k).map f := by
  induction t with
  | nil => rfl
  | cons e t ih =>
    simp only [List.map_cons, tfind]
    split
    · rfl
    · exact ih

end Sys2Proof.Machine
end

