-- ==== Sys2Proof/Laws/State.lean ====
section
/-!
SUPPORT. Each field after each named update of the state, of a group and of a strand: true by unfolding, so that
no proof unfolds a record update.
-/
namespace Sys2Proof.Machine


/-! ### setGrp -/

@[simp] theorem State.setGrp_mem (s : State) (k : Nat) (g : Group) : (s.setGrp k g).mem = s.mem := rfl
@[simp] theorem State.setGrp_bus (s : State) (k : Nat) (g : Group) : (s.setGrp k g).bus = s.bus := rfl
@[simp] theorem State.setGrp_poison (s : State) (k : Nat) (g : Group) : (s.setGrp k g).poison = s.poison := rfl
@[simp] theorem State.setGrp_sealed (s : State) (k : Nat) (g : Group) : (s.setGrp k g).sealed = s.sealed := rfl
@[simp] theorem State.setGrp_edge (s : State) (k : Nat) (g : Group) : (s.setGrp k g).edge = s.edge := rfl
@[simp] theorem State.setGrp_cores (s : State) (k : Nat) (g : Group) : (s.setGrp k g).cores = s.cores := rfl
@[simp] theorem State.setGrp_stackTab (s : State) (k : Nat) (g : Group) : (s.setGrp k g).stackTab = s.stackTab := rfl
@[simp] theorem State.setGrp_teams (s : State) (k : Nat) (g : Group) : (s.setGrp k g).teams = s.teams := rfl
@[simp] theorem State.setGrp_saved (s : State) (k : Nat) (g : Group) : (s.setGrp k g).saved = s.saved := rfl
@[simp] theorem State.setGrp_launches (s : State) (k : Nat) (g : Group) : (s.setGrp k g).launches = s.launches := rfl
@[simp] theorem State.setGrp_queues (s : State) (k : Nat) (g : Group) : (s.setGrp k g).queues = s.queues := rfl
@[simp] theorem State.setGrp_asids (s : State) (k : Nat) (g : Group) : (s.setGrp k g).asids = s.asids := rfl
@[simp] theorem State.setGrp_ctl (s : State) (k : Nat) (g : Group) : (s.setGrp k g).ctl = s.ctl := rfl
@[simp] theorem State.setGrp_msgs (s : State) (k : Nat) (g : Group) : (s.setGrp k g).msgs = s.msgs := rfl
@[simp] theorem State.setGrp_remotes (s : State) (k : Nat) (g : Group) : (s.setGrp k g).remotes = s.remotes := rfl
@[simp] theorem State.setGrp_loads (s : State) (k : Nat) (g : Group) : (s.setGrp k g).loads = s.loads := rfl
@[simp] theorem State.setGrp_packets (s : State) (k : Nat) (g : Group) : (s.setGrp k g).packets = s.packets := rfl
@[simp] theorem State.setGrp_nextKey (s : State) (k : Nat) (g : Group) : (s.setGrp k g).nextKey = s.nextKey := rfl
@[simp] theorem State.setGrp_free (s : State) (k : Nat) (g : Group) : (s.setGrp k g).free = s.free := rfl
@[simp] theorem State.setGrp_cur (s : State) (k : Nat) (g : Group) : (s.setGrp k g).cur = s.cur := rfl
@[simp] theorem State.setGrp_agenda (s : State) (k : Nat) (g : Group) : (s.setGrp k g).agenda = s.agenda := rfl
@[simp] theorem State.setGrp_turns (s : State) (k : Nat) (g : Group) : (s.setGrp k g).turns = s.turns := rfl
@[simp] theorem State.setGrp_stalls (s : State) (k : Nat) (g : Group) : (s.setGrp k g).stalls = s.stalls := rfl
@[simp] theorem State.setGrp_lags (s : State) (k : Nat) (g : Group) : (s.setGrp k g).lags = s.lags := rfl
@[simp] theorem State.setGrp_down (s : State) (k : Nat) (g : Group) : (s.setGrp k g).down = s.down := rfl
@[simp] theorem State.setGrp_outer (s : State) (k : Nat) (g : Group) : (s.setGrp k g).outer = s.outer := rfl

/-! ### setCore -/

@[simp] theorem State.setCore_mem (s : State) (c : Nat) (x : Core) : (s.setCore c x).mem = s.mem := rfl
@[simp] theorem State.setCore_bus (s : State) (c : Nat) (x : Core) : (s.setCore c x).bus = s.bus := rfl
@[simp] theorem State.setCore_poison (s : State) (c : Nat) (x : Core) : (s.setCore c x).poison = s.poison := rfl
@[simp] theorem State.setCore_sealed (s : State) (c : Nat) (x : Core) : (s.setCore c x).sealed = s.sealed := rfl
@[simp] theorem State.setCore_edge (s : State) (c : Nat) (x : Core) : (s.setCore c x).edge = s.edge := rfl
@[simp] theorem State.setCore_stackTab (s : State) (c : Nat) (x : Core) : (s.setCore c x).stackTab = s.stackTab := rfl
@[simp] theorem State.setCore_groups (s : State) (c : Nat) (x : Core) : (s.setCore c x).groups = s.groups := rfl
@[simp] theorem State.setCore_teams (s : State) (c : Nat) (x : Core) : (s.setCore c x).teams = s.teams := rfl
@[simp] theorem State.setCore_saved (s : State) (c : Nat) (x : Core) : (s.setCore c x).saved = s.saved := rfl
@[simp] theorem State.setCore_launches (s : State) (c : Nat) (x : Core) : (s.setCore c x).launches = s.launches := rfl
@[simp] theorem State.setCore_queues (s : State) (c : Nat) (x : Core) : (s.setCore c x).queues = s.queues := rfl
@[simp] theorem State.setCore_asids (s : State) (c : Nat) (x : Core) : (s.setCore c x).asids = s.asids := rfl
@[simp] theorem State.setCore_ctl (s : State) (c : Nat) (x : Core) : (s.setCore c x).ctl = s.ctl := rfl
@[simp] theorem State.setCore_msgs (s : State) (c : Nat) (x : Core) : (s.setCore c x).msgs = s.msgs := rfl
@[simp] theorem State.setCore_remotes (s : State) (c : Nat) (x : Core) : (s.setCore c x).remotes = s.remotes := rfl
@[simp] theorem State.setCore_loads (s : State) (c : Nat) (x : Core) : (s.setCore c x).loads = s.loads := rfl
@[simp] theorem State.setCore_packets (s : State) (c : Nat) (x : Core) : (s.setCore c x).packets = s.packets := rfl
@[simp] theorem State.setCore_nextKey (s : State) (c : Nat) (x : Core) : (s.setCore c x).nextKey = s.nextKey := rfl
@[simp] theorem State.setCore_free (s : State) (c : Nat) (x : Core) : (s.setCore c x).free = s.free := rfl
@[simp] theorem State.setCore_cur (s : State) (c : Nat) (x : Core) : (s.setCore c x).cur = s.cur := rfl
@[simp] theorem State.setCore_agenda (s : State) (c : Nat) (x : Core) : (s.setCore c x).agenda = s.agenda := rfl
@[simp] theorem State.setCore_turns (s : State) (c : Nat) (x : Core) : (s.setCore c x).turns = s.turns := rfl
@[simp] theorem State.setCore_stalls (s : State) (c : Nat) (x : Core) : (s.setCore c x).stalls = s.stalls := rfl
@[simp] theorem State.setCore_lags (s : State) (c : Nat) (x : Core) : (s.setCore c x).lags = s.lags := rfl
@[simp] theorem State.setCore_down (s : State) (c : Nat) (x : Core) : (s.setCore c x).down = s.down := rfl
@[simp] theorem State.setCore_outer (s : State) (c : Nat) (x : Core) : (s.setCore c x).outer = s.outer := rfl

/-! ### setStack -/

@[simp] theorem State.setStack_mem (s : State) (k : Nat) (x : Stack) : (s.setStack k x).mem = s.mem := rfl
@[simp] theorem State.setStack_bus (s : State) (k : Nat) (x : Stack) : (s.setStack k x).bus = s.bus := rfl
@[simp] theorem State.setStack_poison (s : State) (k : Nat) (x : Stack) : (s.setStack k x).poison = s.poison := rfl
@[simp] theorem State.setStack_sealed (s : State) (k : Nat) (x : Stack) : (s.setStack k x).sealed = s.sealed := rfl
@[simp] theorem State.setStack_edge (s : State) (k : Nat) (x : Stack) : (s.setStack k x).edge = s.edge := rfl
@[simp] theorem State.setStack_cores (s : State) (k : Nat) (x : Stack) : (s.setStack k x).cores = s.cores := rfl
@[simp] theorem State.setStack_groups (s : State) (k : Nat) (x : Stack) : (s.setStack k x).groups = s.groups := rfl
@[simp] theorem State.setStack_teams (s : State) (k : Nat) (x : Stack) : (s.setStack k x).teams = s.teams := rfl
@[simp] theorem State.setStack_saved (s : State) (k : Nat) (x : Stack) : (s.setStack k x).saved = s.saved := rfl
@[simp] theorem State.setStack_launches (s : State) (k : Nat) (x : Stack) : (s.setStack k x).launches = s.launches := rfl
@[simp] theorem State.setStack_queues (s : State) (k : Nat) (x : Stack) : (s.setStack k x).queues = s.queues := rfl
@[simp] theorem State.setStack_asids (s : State) (k : Nat) (x : Stack) : (s.setStack k x).asids = s.asids := rfl
@[simp] theorem State.setStack_ctl (s : State) (k : Nat) (x : Stack) : (s.setStack k x).ctl = s.ctl := rfl
@[simp] theorem State.setStack_msgs (s : State) (k : Nat) (x : Stack) : (s.setStack k x).msgs = s.msgs := rfl
@[simp] theorem State.setStack_remotes (s : State) (k : Nat) (x : Stack) : (s.setStack k x).remotes = s.remotes := rfl
@[simp] theorem State.setStack_loads (s : State) (k : Nat) (x : Stack) : (s.setStack k x).loads = s.loads := rfl
@[simp] theorem State.setStack_packets (s : State) (k : Nat) (x : Stack) : (s.setStack k x).packets = s.packets := rfl
@[simp] theorem State.setStack_nextKey (s : State) (k : Nat) (x : Stack) : (s.setStack k x).nextKey = s.nextKey := rfl
@[simp] theorem State.setStack_free (s : State) (k : Nat) (x : Stack) : (s.setStack k x).free = s.free := rfl
@[simp] theorem State.setStack_cur (s : State) (k : Nat) (x : Stack) : (s.setStack k x).cur = s.cur := rfl
@[simp] theorem State.setStack_agenda (s : State) (k : Nat) (x : Stack) : (s.setStack k x).agenda = s.agenda := rfl
@[simp] theorem State.setStack_turns (s : State) (k : Nat) (x : Stack) : (s.setStack k x).turns = s.turns := rfl
@[simp] theorem State.setStack_stalls (s : State) (k : Nat) (x : Stack) : (s.setStack k x).stalls = s.stalls := rfl
@[simp] theorem State.setStack_lags (s : State) (k : Nat) (x : Stack) : (s.setStack k x).lags = s.lags := rfl
@[simp] theorem State.setStack_down (s : State) (k : Nat) (x : Stack) : (s.setStack k x).down = s.down := rfl
@[simp] theorem State.setStack_outer (s : State) (k : Nat) (x : Stack) : (s.setStack k x).outer = s.outer := rfl

/-! ### setLaunch -/

@[simp] theorem State.setLaunch_mem (s : State) (i : Nat) (x : Launch) : (s.setLaunch i x).mem = s.mem := rfl
@[simp] theorem State.setLaunch_bus (s : State) (i : Nat) (x : Launch) : (s.setLaunch i x).bus = s.bus := rfl
@[simp] theorem State.setLaunch_poison (s : State) (i : Nat) (x : Launch) : (s.setLaunch i x).poison = s.poison := rfl
@[simp] theorem State.setLaunch_sealed (s : State) (i : Nat) (x : Launch) : (s.setLaunch i x).sealed = s.sealed := rfl
@[simp] theorem State.setLaunch_edge (s : State) (i : Nat) (x : Launch) : (s.setLaunch i x).edge = s.edge := rfl
@[simp] theorem State.setLaunch_cores (s : State) (i : Nat) (x : Launch) : (s.setLaunch i x).cores = s.cores := rfl
@[simp] theorem State.setLaunch_stackTab (s : State) (i : Nat) (x : Launch) : (s.setLaunch i x).stackTab = s.stackTab := rfl
@[simp] theorem State.setLaunch_groups (s : State) (i : Nat) (x : Launch) : (s.setLaunch i x).groups = s.groups := rfl
@[simp] theorem State.setLaunch_teams (s : State) (i : Nat) (x : Launch) : (s.setLaunch i x).teams = s.teams := rfl
@[simp] theorem State.setLaunch_saved (s : State) (i : Nat) (x : Launch) : (s.setLaunch i x).saved = s.saved := rfl
@[simp] theorem State.setLaunch_queues (s : State) (i : Nat) (x : Launch) : (s.setLaunch i x).queues = s.queues := rfl
@[simp] theorem State.setLaunch_asids (s : State) (i : Nat) (x : Launch) : (s.setLaunch i x).asids = s.asids := rfl
@[simp] theorem State.setLaunch_ctl (s : State) (i : Nat) (x : Launch) : (s.setLaunch i x).ctl = s.ctl := rfl
@[simp] theorem State.setLaunch_msgs (s : State) (i : Nat) (x : Launch) : (s.setLaunch i x).msgs = s.msgs := rfl
@[simp] theorem State.setLaunch_remotes (s : State) (i : Nat) (x : Launch) : (s.setLaunch i x).remotes = s.remotes := rfl
@[simp] theorem State.setLaunch_loads (s : State) (i : Nat) (x : Launch) : (s.setLaunch i x).loads = s.loads := rfl
@[simp] theorem State.setLaunch_packets (s : State) (i : Nat) (x : Launch) : (s.setLaunch i x).packets = s.packets := rfl
@[simp] theorem State.setLaunch_nextKey (s : State) (i : Nat) (x : Launch) : (s.setLaunch i x).nextKey = s.nextKey := rfl
@[simp] theorem State.setLaunch_free (s : State) (i : Nat) (x : Launch) : (s.setLaunch i x).free = s.free := rfl
@[simp] theorem State.setLaunch_cur (s : State) (i : Nat) (x : Launch) : (s.setLaunch i x).cur = s.cur := rfl
@[simp] theorem State.setLaunch_agenda (s : State) (i : Nat) (x : Launch) : (s.setLaunch i x).agenda = s.agenda := rfl
@[simp] theorem State.setLaunch_turns (s : State) (i : Nat) (x : Launch) : (s.setLaunch i x).turns = s.turns := rfl
@[simp] theorem State.setLaunch_stalls (s : State) (i : Nat) (x : Launch) : (s.setLaunch i x).stalls = s.stalls := rfl
@[simp] theorem State.setLaunch_lags (s : State) (i : Nat) (x : Launch) : (s.setLaunch i x).lags = s.lags := rfl
@[simp] theorem State.setLaunch_down (s : State) (i : Nat) (x : Launch) : (s.setLaunch i x).down = s.down := rfl
@[simp] theorem State.setLaunch_outer (s : State) (i : Nat) (x : Launch) : (s.setLaunch i x).outer = s.outer := rfl

/-! ### setQueue -/

@[simp] theorem State.setQueue_mem (s : State) (q : Nat) (x : Queue) : (s.setQueue q x).mem = s.mem := rfl
@[simp] theorem State.setQueue_bus (s : State) (q : Nat) (x : Queue) : (s.setQueue q x).bus = s.bus := rfl
@[simp] theorem State.setQueue_poison (s : State) (q : Nat) (x : Queue) : (s.setQueue q x).poison = s.poison := rfl
@[simp] theorem State.setQueue_sealed (s : State) (q : Nat) (x : Queue) : (s.setQueue q x).sealed = s.sealed := rfl
@[simp] theorem State.setQueue_edge (s : State) (q : Nat) (x : Queue) : (s.setQueue q x).edge = s.edge := rfl
@[simp] theorem State.setQueue_cores (s : State) (q : Nat) (x : Queue) : (s.setQueue q x).cores = s.cores := rfl
@[simp] theorem State.setQueue_stackTab (s : State) (q : Nat) (x : Queue) : (s.setQueue q x).stackTab = s.stackTab := rfl
@[simp] theorem State.setQueue_groups (s : State) (q : Nat) (x : Queue) : (s.setQueue q x).groups = s.groups := rfl
@[simp] theorem State.setQueue_teams (s : State) (q : Nat) (x : Queue) : (s.setQueue q x).teams = s.teams := rfl
@[simp] theorem State.setQueue_saved (s : State) (q : Nat) (x : Queue) : (s.setQueue q x).saved = s.saved := rfl
@[simp] theorem State.setQueue_launches (s : State) (q : Nat) (x : Queue) : (s.setQueue q x).launches = s.launches := rfl
@[simp] theorem State.setQueue_asids (s : State) (q : Nat) (x : Queue) : (s.setQueue q x).asids = s.asids := rfl
@[simp] theorem State.setQueue_ctl (s : State) (q : Nat) (x : Queue) : (s.setQueue q x).ctl = s.ctl := rfl
@[simp] theorem State.setQueue_msgs (s : State) (q : Nat) (x : Queue) : (s.setQueue q x).msgs = s.msgs := rfl
@[simp] theorem State.setQueue_remotes (s : State) (q : Nat) (x : Queue) : (s.setQueue q x).remotes = s.remotes := rfl
@[simp] theorem State.setQueue_loads (s : State) (q : Nat) (x : Queue) : (s.setQueue q x).loads = s.loads := rfl
@[simp] theorem State.setQueue_packets (s : State) (q : Nat) (x : Queue) : (s.setQueue q x).packets = s.packets := rfl
@[simp] theorem State.setQueue_nextKey (s : State) (q : Nat) (x : Queue) : (s.setQueue q x).nextKey = s.nextKey := rfl
@[simp] theorem State.setQueue_free (s : State) (q : Nat) (x : Queue) : (s.setQueue q x).free = s.free := rfl
@[simp] theorem State.setQueue_cur (s : State) (q : Nat) (x : Queue) : (s.setQueue q x).cur = s.cur := rfl
@[simp] theorem State.setQueue_agenda (s : State) (q : Nat) (x : Queue) : (s.setQueue q x).agenda = s.agenda := rfl
@[simp] theorem State.setQueue_turns (s : State) (q : Nat) (x : Queue) : (s.setQueue q x).turns = s.turns := rfl
@[simp] theorem State.setQueue_stalls (s : State) (q : Nat) (x : Queue) : (s.setQueue q x).stalls = s.stalls := rfl
@[simp] theorem State.setQueue_lags (s : State) (q : Nat) (x : Queue) : (s.setQueue q x).lags = s.lags := rfl
@[simp] theorem State.setQueue_down (s : State) (q : Nat) (x : Queue) : (s.setQueue q x).down = s.down := rfl
@[simp] theorem State.setQueue_outer (s : State) (q : Nat) (x : Queue) : (s.setQueue q x).outer = s.outer := rfl

/-! ### setTeam -/

@[simp] theorem State.setTeam_mem (s : State) (t : Team) : (s.setTeam t).mem = s.mem := rfl
@[simp] theorem State.setTeam_bus (s : State) (t : Team) : (s.setTeam t).bus = s.bus := rfl
@[simp] theorem State.setTeam_poison (s : State) (t : Team) : (s.setTeam t).poison = s.poison := rfl
@[simp] theorem State.setTeam_sealed (s : State) (t : Team) : (s.setTeam t).sealed = s.sealed := rfl
@[simp] theorem State.setTeam_edge (s : State) (t : Team) : (s.setTeam t).edge = s.edge := rfl
@[simp] theorem State.setTeam_cores (s : State) (t : Team) : (s.setTeam t).cores = s.cores := rfl
@[simp] theorem State.setTeam_stackTab (s : State) (t : Team) : (s.setTeam t).stackTab = s.stackTab := rfl
@[simp] theorem State.setTeam_groups (s : State) (t : Team) : (s.setTeam t).groups = s.groups := rfl
@[simp] theorem State.setTeam_saved (s : State) (t : Team) : (s.setTeam t).saved = s.saved := rfl
@[simp] theorem State.setTeam_launches (s : State) (t : Team) : (s.setTeam t).launches = s.launches := rfl
@[simp] theorem State.setTeam_queues (s : State) (t : Team) : (s.setTeam t).queues = s.queues := rfl
@[simp] theorem State.setTeam_asids (s : State) (t : Team) : (s.setTeam t).asids = s.asids := rfl
@[simp] theorem State.setTeam_ctl (s : State) (t : Team) : (s.setTeam t).ctl = s.ctl := rfl
@[simp] theorem State.setTeam_msgs (s : State) (t : Team) : (s.setTeam t).msgs = s.msgs := rfl
@[simp] theorem State.setTeam_remotes (s : State) (t : Team) : (s.setTeam t).remotes = s.remotes := rfl
@[simp] theorem State.setTeam_loads (s : State) (t : Team) : (s.setTeam t).loads = s.loads := rfl
@[simp] theorem State.setTeam_packets (s : State) (t : Team) : (s.setTeam t).packets = s.packets := rfl
@[simp] theorem State.setTeam_nextKey (s : State) (t : Team) : (s.setTeam t).nextKey = s.nextKey := rfl
@[simp] theorem State.setTeam_free (s : State) (t : Team) : (s.setTeam t).free = s.free := rfl
@[simp] theorem State.setTeam_cur (s : State) (t : Team) : (s.setTeam t).cur = s.cur := rfl
@[simp] theorem State.setTeam_agenda (s : State) (t : Team) : (s.setTeam t).agenda = s.agenda := rfl
@[simp] theorem State.setTeam_turns (s : State) (t : Team) : (s.setTeam t).turns = s.turns := rfl
@[simp] theorem State.setTeam_stalls (s : State) (t : Team) : (s.setTeam t).stalls = s.stalls := rfl
@[simp] theorem State.setTeam_lags (s : State) (t : Team) : (s.setTeam t).lags = s.lags := rfl
@[simp] theorem State.setTeam_down (s : State) (t : Team) : (s.setTeam t).down = s.down := rfl
@[simp] theorem State.setTeam_outer (s : State) (t : Team) : (s.setTeam t).outer = s.outer := rfl

/-! ### onGrp -/

@[simp] theorem State.onGrp_mem (s : State) (k : Nat) (f : Group → Group) : (s.onGrp k f).mem = s.mem := rfl
@[simp] theorem State.onGrp_bus (s : State) (k : Nat) (f : Group → Group) : (s.onGrp k f).bus = s.bus := rfl
@[simp] theorem State.onGrp_poison (s : State) (k : Nat) (f : Group → Group) : (s.onGrp k f).poison = s.poison := rfl
@[simp] theorem State.onGrp_sealed (s : State) (k : Nat) (f : Group → Group) : (s.onGrp k f).sealed = s.sealed := rfl
@[simp] theorem State.onGrp_edge (s : State) (k : Nat) (f : Group → Group) : (s.onGrp k f).edge = s.edge := rfl
@[simp] theorem State.onGrp_cores (s : State) (k : Nat) (f : Group → Group) : (s.onGrp k f).cores = s.cores := rfl
@[simp] theorem State.onGrp_stackTab (s : State) (k : Nat) (f : Group → Group) : (s.onGrp k f).stackTab = s.stackTab := rfl
@[simp] theorem State.onGrp_teams (s : State) (k : Nat) (f : Group → Group) : (s.onGrp k f).teams = s.teams := rfl
@[simp] theorem State.onGrp_saved (s : State) (k : Nat) (f : Group → Group) : (s.onGrp k f).saved = s.saved := rfl
@[simp] theorem State.onGrp_launches (s : State) (k : Nat) (f : Group → Group) : (s.onGrp k f).launches = s.launches := rfl
@[simp] theorem State.onGrp_queues (s : State) (k : Nat) (f : Group → Group) : (s.onGrp k f).queues = s.queues := rfl
@[simp] theorem State.onGrp_asids (s : State) (k : Nat) (f : Group → Group) : (s.onGrp k f).asids = s.asids := rfl
@[simp] theorem State.onGrp_ctl (s : State) (k : Nat) (f : Group → Group) : (s.onGrp k f).ctl = s.ctl := rfl
@[simp] theorem State.onGrp_msgs (s : State) (k : Nat) (f : Group → Group) : (s.onGrp k f).msgs = s.msgs := rfl
@[simp] theorem State.onGrp_remotes (s : State) (k : Nat) (f : Group → Group) : (s.onGrp k f).remotes = s.remotes := rfl
@[simp] theorem State.onGrp_loads (s : State) (k : Nat) (f : Group → Group) : (s.onGrp k f).loads = s.loads := rfl
@[simp] theorem State.onGrp_packets (s : State) (k : Nat) (f : Group → Group) : (s.onGrp k f).packets = s.packets := rfl
@[simp] theorem State.onGrp_nextKey (s : State) (k : Nat) (f : Group → Group) : (s.onGrp k f).nextKey = s.nextKey := rfl
@[simp] theorem State.onGrp_free (s : State) (k : Nat) (f : Group → Group) : (s.onGrp k f).free = s.free := rfl
@[simp] theorem State.onGrp_cur (s : State) (k : Nat) (f : Group → Group) : (s.onGrp k f).cur = s.cur := rfl
@[simp] theorem State.onGrp_agenda (s : State) (k : Nat) (f : Group → Group) : (s.onGrp k f).agenda = s.agenda := rfl
@[simp] theorem State.onGrp_turns (s : State) (k : Nat) (f : Group → Group) : (s.onGrp k f).turns = s.turns := rfl
@[simp] theorem State.onGrp_stalls (s : State) (k : Nat) (f : Group → Group) : (s.onGrp k f).stalls = s.stalls := rfl
@[simp] theorem State.onGrp_lags (s : State) (k : Nat) (f : Group → Group) : (s.onGrp k f).lags = s.lags := rfl
@[simp] theorem State.onGrp_down (s : State) (k : Nat) (f : Group → Group) : (s.onGrp k f).down = s.down := rfl
@[simp] theorem State.onGrp_outer (s : State) (k : Nat) (f : Group → Group) : (s.onGrp k f).outer = s.outer := rfl

/-! ### onG -/

@[simp] theorem State.onG_mem (s : State) (f : Group → Group) : (s.onG f).mem = s.mem := rfl
@[simp] theorem State.onG_bus (s : State) (f : Group → Group) : (s.onG f).bus = s.bus := rfl
@[simp] theorem State.onG_poison (s : State) (f : Group → Group) : (s.onG f).poison = s.poison := rfl
@[simp] theorem State.onG_sealed (s : State) (f : Group → Group) : (s.onG f).sealed = s.sealed := rfl
@[simp] theorem State.onG_edge (s : State) (f : Group → Group) : (s.onG f).edge = s.edge := rfl
@[simp] theorem State.onG_cores (s : State) (f : Group → Group) : (s.onG f).cores = s.cores := rfl
@[simp] theorem State.onG_stackTab (s : State) (f : Group → Group) : (s.onG f).stackTab = s.stackTab := rfl
@[simp] theorem State.onG_teams (s : State) (f : Group → Group) : (s.onG f).teams = s.teams := rfl
@[simp] theorem State.onG_saved (s : State) (f : Group → Group) : (s.onG f).saved = s.saved := rfl
@[simp] theorem State.onG_launches (s : State) (f : Group → Group) : (s.onG f).launches = s.launches := rfl
@[simp] theorem State.onG_queues (s : State) (f : Group → Group) : (s.onG f).queues = s.queues := rfl
@[simp] theorem State.onG_asids (s : State) (f : Group → Group) : (s.onG f).asids = s.asids := rfl
@[simp] theorem State.onG_ctl (s : State) (f : Group → Group) : (s.onG f).ctl = s.ctl := rfl
@[simp] theorem State.onG_msgs (s : State) (f : Group → Group) : (s.onG f).msgs = s.msgs := rfl
@[simp] theorem State.onG_remotes (s : State) (f : Group → Group) : (s.onG f).remotes = s.remotes := rfl
@[simp] theorem State.onG_loads (s : State) (f : Group → Group) : (s.onG f).loads = s.loads := rfl
@[simp] theorem State.onG_packets (s : State) (f : Group → Group) : (s.onG f).packets = s.packets := rfl
@[simp] theorem State.onG_nextKey (s : State) (f : Group → Group) : (s.onG f).nextKey = s.nextKey := rfl
@[simp] theorem State.onG_free (s : State) (f : Group → Group) : (s.onG f).free = s.free := rfl
@[simp] theorem State.onG_cur (s : State) (f : Group → Group) : (s.onG f).cur = s.cur := rfl
@[simp] theorem State.onG_agenda (s : State) (f : Group → Group) : (s.onG f).agenda = s.agenda := rfl
@[simp] theorem State.onG_turns (s : State) (f : Group → Group) : (s.onG f).turns = s.turns := rfl
@[simp] theorem State.onG_stalls (s : State) (f : Group → Group) : (s.onG f).stalls = s.stalls := rfl
@[simp] theorem State.onG_lags (s : State) (f : Group → Group) : (s.onG f).lags = s.lags := rfl
@[simp] theorem State.onG_down (s : State) (f : Group → Group) : (s.onG f).down = s.down := rfl
@[simp] theorem State.onG_outer (s : State) (f : Group → Group) : (s.onG f).outer = s.outer := rfl

/-! ### onSet -/

@[simp] theorem State.onSet_mem (s : State) (f : Strand → Strand) : (s.onSet f).mem = s.mem := rfl
@[simp] theorem State.onSet_bus (s : State) (f : Strand → Strand) : (s.onSet f).bus = s.bus := rfl
@[simp] theorem State.onSet_poison (s : State) (f : Strand → Strand) : (s.onSet f).poison = s.poison := rfl
@[simp] theorem State.onSet_sealed (s : State) (f : Strand → Strand) : (s.onSet f).sealed = s.sealed := rfl
@[simp] theorem State.onSet_edge (s : State) (f : Strand → Strand) : (s.onSet f).edge = s.edge := rfl
@[simp] theorem State.onSet_cores (s : State) (f : Strand → Strand) : (s.onSet f).cores = s.cores := rfl
@[simp] theorem State.onSet_stackTab (s : State) (f : Strand → Strand) : (s.onSet f).stackTab = s.stackTab := rfl
@[simp] theorem State.onSet_teams (s : State) (f : Strand → Strand) : (s.onSet f).teams = s.teams := rfl
@[simp] theorem State.onSet_saved (s : State) (f : Strand → Strand) : (s.onSet f).saved = s.saved := rfl
@[simp] theorem State.onSet_launches (s : State) (f : Strand → Strand) : (s.onSet f).launches = s.launches := rfl
@[simp] theorem State.onSet_queues (s : State) (f : Strand → Strand) : (s.onSet f).queues = s.queues := rfl
@[simp] theorem State.onSet_asids (s : State) (f : Strand → Strand) : (s.onSet f).asids = s.asids := rfl
@[simp] theorem State.onSet_ctl (s : State) (f : Strand → Strand) : (s.onSet f).ctl = s.ctl := rfl
@[simp] theorem State.onSet_msgs (s : State) (f : Strand → Strand) : (s.onSet f).msgs = s.msgs := rfl
@[simp] theorem State.onSet_remotes (s : State) (f : Strand → Strand) : (s.onSet f).remotes = s.remotes := rfl
@[simp] theorem State.onSet_loads (s : State) (f : Strand → Strand) : (s.onSet f).loads = s.loads := rfl
@[simp] theorem State.onSet_packets (s : State) (f : Strand → Strand) : (s.onSet f).packets = s.packets := rfl
@[simp] theorem State.onSet_nextKey (s : State) (f : Strand → Strand) : (s.onSet f).nextKey = s.nextKey := rfl
@[simp] theorem State.onSet_free (s : State) (f : Strand → Strand) : (s.onSet f).free = s.free := rfl
@[simp] theorem State.onSet_cur (s : State) (f : Strand → Strand) : (s.onSet f).cur = s.cur := rfl
@[simp] theorem State.onSet_agenda (s : State) (f : Strand → Strand) : (s.onSet f).agenda = s.agenda := rfl
@[simp] theorem State.onSet_turns (s : State) (f : Strand → Strand) : (s.onSet f).turns = s.turns := rfl
@[simp] theorem State.onSet_stalls (s : State) (f : Strand → Strand) : (s.onSet f).stalls = s.stalls := rfl
@[simp] theorem State.onSet_lags (s : State) (f : Strand → Strand) : (s.onSet f).lags = s.lags := rfl
@[simp] theorem State.onSet_down (s : State) (f : Strand → Strand) : (s.onSet f).down = s.down := rfl
@[simp] theorem State.onSet_outer (s : State) (f : Strand → Strand) : (s.onSet f).outer = s.outer := rfl

/-! ### onCore -/

@[simp] theorem State.onCore_mem (s : State) (c : Nat) (f : Core → Core) : (s.onCore c f).mem = s.mem := rfl
@[simp] theorem State.onCore_bus (s : State) (c : Nat) (f : Core → Core) : (s.onCore c f).bus = s.bus := rfl
@[simp] theorem State.onCore_poison (s : State) (c : Nat) (f : Core → Core) : (s.onCore c f).poison = s.poison := rfl
@[simp] theorem State.onCore_sealed (s : State) (c : Nat) (f : Core → Core) : (s.onCore c f).sealed = s.sealed := rfl
@[simp] theorem State.onCore_edge (s : State) (c : Nat) (f : Core → Core) : (s.onCore c f).edge = s.edge := rfl
@[simp] theorem State.onCore_stackTab (s : State) (c : Nat) (f : Core → Core) : (s.onCore c f).stackTab = s.stackTab := rfl
@[simp] theorem State.onCore_groups (s : State) (c : Nat) (f : Core → Core) : (s.onCore c f).groups = s.groups := rfl
@[simp] theorem State.onCore_teams (s : State) (c : Nat) (f : Core → Core) : (s.onCore c f).teams = s.teams := rfl
@[simp] theorem State.onCore_saved (s : State) (c : Nat) (f : Core → Core) : (s.onCore c f).saved = s.saved := rfl
@[simp] theorem State.onCore_launches (s : State) (c : Nat) (f : Core → Core) : (s.onCore c f).launches = s.launches := rfl
@[simp] theorem State.onCore_queues (s : State) (c : Nat) (f : Core → Core) : (s.onCore c f).queues = s.queues := rfl
@[simp] theorem State.onCore_asids (s : State) (c : Nat) (f : Core → Core) : (s.onCore c f).asids = s.asids := rfl
@[simp] theorem State.onCore_ctl (s : State) (c : Nat) (f : Core → Core) : (s.onCore c f).ctl = s.ctl := rfl
@[simp] theorem State.onCore_msgs (s : State) (c : Nat) (f : Core → Core) : (s.onCore c f).msgs = s.msgs := rfl
@[simp] theorem State.onCore_remotes (s : State) (c : Nat) (f : Core → Core) : (s.onCore c f).remotes = s.remotes := rfl
@[simp] theorem State.onCore_loads (s : State) (c : Nat) (f : Core → Core) : (s.onCore c f).loads = s.loads := rfl
@[simp] theorem State.onCore_packets (s : State) (c : Nat) (f : Core → Core) : (s.onCore c f).packets = s.packets := rfl
@[simp] theorem State.onCore_nextKey (s : State) (c : Nat) (f : Core → Core) : (s.onCore c f).nextKey = s.nextKey := rfl
@[simp] theorem State.onCore_free (s : State) (c : Nat) (f : Core → Core) : (s.onCore c f).free = s.free := rfl
@[simp] theorem State.onCore_cur (s : State) (c : Nat) (f : Core → Core) : (s.onCore c f).cur = s.cur := rfl
@[simp] theorem State.onCore_agenda (s : State) (c : Nat) (f : Core → Core) : (s.onCore c f).agenda = s.agenda := rfl
@[simp] theorem State.onCore_turns (s : State) (c : Nat) (f : Core → Core) : (s.onCore c f).turns = s.turns := rfl
@[simp] theorem State.onCore_stalls (s : State) (c : Nat) (f : Core → Core) : (s.onCore c f).stalls = s.stalls := rfl
@[simp] theorem State.onCore_lags (s : State) (c : Nat) (f : Core → Core) : (s.onCore c f).lags = s.lags := rfl
@[simp] theorem State.onCore_down (s : State) (c : Nat) (f : Core → Core) : (s.onCore c f).down = s.down := rfl
@[simp] theorem State.onCore_outer (s : State) (c : Nat) (f : Core → Core) : (s.onCore c f).outer = s.outer := rfl

/-! ### onStack -/

@[simp] theorem State.onStack_mem (s : State) (k : Nat) (f : Stack → Stack) : (s.onStack k f).mem = s.mem := rfl
@[simp] theorem State.onStack_bus (s : State) (k : Nat) (f : Stack → Stack) : (s.onStack k f).bus = s.bus := rfl
@[simp] theorem State.onStack_poison (s : State) (k : Nat) (f : Stack → Stack) : (s.onStack k f).poison = s.poison := rfl
@[simp] theorem State.onStack_sealed (s : State) (k : Nat) (f : Stack → Stack) : (s.onStack k f).sealed = s.sealed := rfl
@[simp] theorem State.onStack_edge (s : State) (k : Nat) (f : Stack → Stack) : (s.onStack k f).edge = s.edge := rfl
@[simp] theorem State.onStack_cores (s : State) (k : Nat) (f : Stack → Stack) : (s.onStack k f).cores = s.cores := rfl
@[simp] theorem State.onStack_groups (s : State) (k : Nat) (f : Stack → Stack) : (s.onStack k f).groups = s.groups := rfl
@[simp] theorem State.onStack_teams (s : State) (k : Nat) (f : Stack → Stack) : (s.onStack k f).teams = s.teams := rfl
@[simp] theorem State.onStack_saved (s : State) (k : Nat) (f : Stack → Stack) : (s.onStack k f).saved = s.saved := rfl
@[simp] theorem State.onStack_launches (s : State) (k : Nat) (f : Stack → Stack) : (s.onStack k f).launches = s.launches := rfl
@[simp] theorem State.onStack_queues (s : State) (k : Nat) (f : Stack → Stack) : (s.onStack k f).queues = s.queues := rfl
@[simp] theorem State.onStack_asids (s : State) (k : Nat) (f : Stack → Stack) : (s.onStack k f).asids = s.asids := rfl
@[simp] theorem State.onStack_ctl (s : State) (k : Nat) (f : Stack → Stack) : (s.onStack k f).ctl = s.ctl := rfl
@[simp] theorem State.onStack_msgs (s : State) (k : Nat) (f : Stack → Stack) : (s.onStack k f).msgs = s.msgs := rfl
@[simp] theorem State.onStack_remotes (s : State) (k : Nat) (f : Stack → Stack) : (s.onStack k f).remotes = s.remotes := rfl
@[simp] theorem State.onStack_loads (s : State) (k : Nat) (f : Stack → Stack) : (s.onStack k f).loads = s.loads := rfl
@[simp] theorem State.onStack_packets (s : State) (k : Nat) (f : Stack → Stack) : (s.onStack k f).packets = s.packets := rfl
@[simp] theorem State.onStack_nextKey (s : State) (k : Nat) (f : Stack → Stack) : (s.onStack k f).nextKey = s.nextKey := rfl
@[simp] theorem State.onStack_free (s : State) (k : Nat) (f : Stack → Stack) : (s.onStack k f).free = s.free := rfl
@[simp] theorem State.onStack_cur (s : State) (k : Nat) (f : Stack → Stack) : (s.onStack k f).cur = s.cur := rfl
@[simp] theorem State.onStack_agenda (s : State) (k : Nat) (f : Stack → Stack) : (s.onStack k f).agenda = s.agenda := rfl
@[simp] theorem State.onStack_turns (s : State) (k : Nat) (f : Stack → Stack) : (s.onStack k f).turns = s.turns := rfl
@[simp] theorem State.onStack_stalls (s : State) (k : Nat) (f : Stack → Stack) : (s.onStack k f).stalls = s.stalls := rfl
@[simp] theorem State.onStack_lags (s : State) (k : Nat) (f : Stack → Stack) : (s.onStack k f).lags = s.lags := rfl
@[simp] theorem State.onStack_down (s : State) (k : Nat) (f : Stack → Stack) : (s.onStack k f).down = s.down := rfl
@[simp] theorem State.onStack_outer (s : State) (k : Nat) (f : Stack → Stack) : (s.onStack k f).outer = s.outer := rfl

/-! ### onLaunch -/

@[simp] theorem State.onLaunch_mem (s : State) (i : Nat) (f : Launch → Launch) : (s.onLaunch i f).mem = s.mem := rfl
@[simp] theorem State.onLaunch_bus (s : State) (i : Nat) (f : Launch → Launch) : (s.onLaunch i f).bus = s.bus := rfl
@[simp] theorem State.onLaunch_poison (s : State) (i : Nat) (f : Launch → Launch) : (s.onLaunch i f).poison = s.poison := rfl
@[simp] theorem State.onLaunch_sealed (s : State) (i : Nat) (f : Launch → Launch) : (s.onLaunch i f).sealed = s.sealed := rfl
@[simp] theorem State.onLaunch_edge (s : State) (i : Nat) (f : Launch → Launch) : (s.onLaunch i f).edge = s.edge := rfl
@[simp] theorem State.onLaunch_cores (s : State) (i : Nat) (f : Launch → Launch) : (s.onLaunch i f).cores = s.cores := rfl
@[simp] theorem State.onLaunch_stackTab (s : State) (i : Nat) (f : Launch → Launch) : (s.onLaunch i f).stackTab = s.stackTab := rfl
@[simp] theorem State.onLaunch_groups (s : State) (i : Nat) (f : Launch → Launch) : (s.onLaunch i f).groups = s.groups := rfl
@[simp] theorem State.onLaunch_teams (s : State) (i : Nat) (f : Launch → Launch) : (s.onLaunch i f).teams = s.teams := rfl
@[simp] theorem State.onLaunch_saved (s : State) (i : Nat) (f : Launch → Launch) : (s.onLaunch i f).saved = s.saved := rfl
@[simp] theorem State.onLaunch_queues (s : State) (i : Nat) (f : Launch → Launch) : (s.onLaunch i f).queues = s.queues := rfl
@[simp] theorem State.onLaunch_asids (s : State) (i : Nat) (f : Launch → Launch) : (s.onLaunch i f).asids = s.asids := rfl
@[simp] theorem State.onLaunch_ctl (s : State) (i : Nat) (f : Launch → Launch) : (s.onLaunch i f).ctl = s.ctl := rfl
@[simp] theorem State.onLaunch_msgs (s : State) (i : Nat) (f : Launch → Launch) : (s.onLaunch i f).msgs = s.msgs := rfl
@[simp] theorem State.onLaunch_remotes (s : State) (i : Nat) (f : Launch → Launch) : (s.onLaunch i f).remotes = s.remotes := rfl
@[simp] theorem State.onLaunch_loads (s : State) (i : Nat) (f : Launch → Launch) : (s.onLaunch i f).loads = s.loads := rfl
@[simp] theorem State.onLaunch_packets (s : State) (i : Nat) (f : Launch → Launch) : (s.onLaunch i f).packets = s.packets := rfl
@[simp] theorem State.onLaunch_nextKey (s : State) (i : Nat) (f : Launch → Launch) : (s.onLaunch i f).nextKey = s.nextKey := rfl
@[simp] theorem State.onLaunch_free (s : State) (i : Nat) (f : Launch → Launch) : (s.onLaunch i f).free = s.free := rfl
@[simp] theorem State.onLaunch_cur (s : State) (i : Nat) (f : Launch → Launch) : (s.onLaunch i f).cur = s.cur := rfl
@[simp] theorem State.onLaunch_agenda (s : State) (i : Nat) (f : Launch → Launch) : (s.onLaunch i f).agenda = s.agenda := rfl
@[simp] theorem State.onLaunch_turns (s : State) (i : Nat) (f : Launch → Launch) : (s.onLaunch i f).turns = s.turns := rfl
@[simp] theorem State.onLaunch_stalls (s : State) (i : Nat) (f : Launch → Launch) : (s.onLaunch i f).stalls = s.stalls := rfl
@[simp] theorem State.onLaunch_lags (s : State) (i : Nat) (f : Launch → Launch) : (s.onLaunch i f).lags = s.lags := rfl
@[simp] theorem State.onLaunch_down (s : State) (i : Nat) (f : Launch → Launch) : (s.onLaunch i f).down = s.down := rfl
@[simp] theorem State.onLaunch_outer (s : State) (i : Nat) (f : Launch → Launch) : (s.onLaunch i f).outer = s.outer := rfl

/-! ### onQueue -/

@[simp] theorem State.onQueue_mem (s : State) (q : Nat) (f : Queue → Queue) : (s.onQueue q f).mem = s.mem := rfl
@[simp] theorem State.onQueue_bus (s : State) (q : Nat) (f : Queue → Queue) : (s.onQueue q f).bus = s.bus := rfl
@[simp] theorem State.onQueue_poison (s : State) (q : Nat) (f : Queue → Queue) : (s.onQueue q f).poison = s.poison := rfl
@[simp] theorem State.onQueue_sealed (s : State) (q : Nat) (f : Queue → Queue) : (s.onQueue q f).sealed = s.sealed := rfl
@[simp] theorem State.onQueue_edge (s : State) (q : Nat) (f : Queue → Queue) : (s.onQueue q f).edge = s.edge := rfl
@[simp] theorem State.onQueue_cores (s : State) (q : Nat) (f : Queue → Queue) : (s.onQueue q f).cores = s.cores := rfl
@[simp] theorem State.onQueue_stackTab (s : State) (q : Nat) (f : Queue → Queue) : (s.onQueue q f).stackTab = s.stackTab := rfl
@[simp] theorem State.onQueue_groups (s : State) (q : Nat) (f : Queue → Queue) : (s.onQueue q f).groups = s.groups := rfl
@[simp] theorem State.onQueue_teams (s : State) (q : Nat) (f : Queue → Queue) : (s.onQueue q f).teams = s.teams := rfl
@[simp] theorem State.onQueue_saved (s : State) (q : Nat) (f : Queue → Queue) : (s.onQueue q f).saved = s.saved := rfl
@[simp] theorem State.onQueue_launches (s : State) (q : Nat) (f : Queue → Queue) : (s.onQueue q f).launches = s.launches := rfl
@[simp] theorem State.onQueue_asids (s : State) (q : Nat) (f : Queue → Queue) : (s.onQueue q f).asids = s.asids := rfl
@[simp] theorem State.onQueue_ctl (s : State) (q : Nat) (f : Queue → Queue) : (s.onQueue q f).ctl = s.ctl := rfl
@[simp] theorem State.onQueue_msgs (s : State) (q : Nat) (f : Queue → Queue) : (s.onQueue q f).msgs = s.msgs := rfl
@[simp] theorem State.onQueue_remotes (s : State) (q : Nat) (f : Queue → Queue) : (s.onQueue q f).remotes = s.remotes := rfl
@[simp] theorem State.onQueue_loads (s : State) (q : Nat) (f : Queue → Queue) : (s.onQueue q f).loads = s.loads := rfl
@[simp] theorem State.onQueue_packets (s : State) (q : Nat) (f : Queue → Queue) : (s.onQueue q f).packets = s.packets := rfl
@[simp] theorem State.onQueue_nextKey (s : State) (q : Nat) (f : Queue → Queue) : (s.onQueue q f).nextKey = s.nextKey := rfl
@[simp] theorem State.onQueue_free (s : State) (q : Nat) (f : Queue → Queue) : (s.onQueue q f).free = s.free := rfl
@[simp] theorem State.onQueue_cur (s : State) (q : Nat) (f : Queue → Queue) : (s.onQueue q f).cur = s.cur := rfl
@[simp] theorem State.onQueue_agenda (s : State) (q : Nat) (f : Queue → Queue) : (s.onQueue q f).agenda = s.agenda := rfl
@[simp] theorem State.onQueue_turns (s : State) (q : Nat) (f : Queue → Queue) : (s.onQueue q f).turns = s.turns := rfl
@[simp] theorem State.onQueue_stalls (s : State) (q : Nat) (f : Queue → Queue) : (s.onQueue q f).stalls = s.stalls := rfl
@[simp] theorem State.onQueue_lags (s : State) (q : Nat) (f : Queue → Queue) : (s.onQueue q f).lags = s.lags := rfl
@[simp] theorem State.onQueue_down (s : State) (q : Nat) (f : Queue → Queue) : (s.onQueue q f).down = s.down := rfl
@[simp] theorem State.onQueue_outer (s : State) (q : Nat) (f : Queue → Queue) : (s.onQueue q f).outer = s.outer := rfl

/-! ### onCtl -/

@[simp] theorem State.onCtl_mem (s : State) (f : Ctl → Ctl) : (s.onCtl f).mem = s.mem := rfl
@[simp] theorem State.onCtl_bus (s : State) (f : Ctl → Ctl) : (s.onCtl f).bus = s.bus := rfl
@[simp] theorem State.onCtl_poison (s : State) (f : Ctl → Ctl) : (s.onCtl f).poison = s.poison := rfl
@[simp] theorem State.onCtl_sealed (s : State) (f : Ctl → Ctl) : (s.onCtl f).sealed = s.sealed := rfl
@[simp] theorem State.onCtl_edge (s : State) (f : Ctl → Ctl) : (s.onCtl f).edge = s.edge := rfl
@[simp] theorem State.onCtl_cores (s : State) (f : Ctl → Ctl) : (s.onCtl f).cores = s.cores := rfl
@[simp] theorem State.onCtl_stackTab (s : State) (f : Ctl → Ctl) : (s.onCtl f).stackTab = s.stackTab := rfl
@[simp] theorem State.onCtl_groups (s : State) (f : Ctl → Ctl) : (s.onCtl f).groups = s.groups := rfl
@[simp] theorem State.onCtl_teams (s : State) (f : Ctl → Ctl) : (s.onCtl f).teams = s.teams := rfl
@[simp] theorem State.onCtl_saved (s : State) (f : Ctl → Ctl) : (s.onCtl f).saved = s.saved := rfl
@[simp] theorem State.onCtl_launches (s : State) (f : Ctl → Ctl) : (s.onCtl f).launches = s.launches := rfl
@[simp] theorem State.onCtl_queues (s : State) (f : Ctl → Ctl) : (s.onCtl f).queues = s.queues := rfl
@[simp] theorem State.onCtl_asids (s : State) (f : Ctl → Ctl) : (s.onCtl f).asids = s.asids := rfl
@[simp] theorem State.onCtl_msgs (s : State) (f : Ctl → Ctl) : (s.onCtl f).msgs = s.msgs := rfl
@[simp] theorem State.onCtl_remotes (s : State) (f : Ctl → Ctl) : (s.onCtl f).remotes = s.remotes := rfl
@[simp] theorem State.onCtl_loads (s : State) (f : Ctl → Ctl) : (s.onCtl f).loads = s.loads := rfl
@[simp] theorem State.onCtl_packets (s : State) (f : Ctl → Ctl) : (s.onCtl f).packets = s.packets := rfl
@[simp] theorem State.onCtl_nextKey (s : State) (f : Ctl → Ctl) : (s.onCtl f).nextKey = s.nextKey := rfl
@[simp] theorem State.onCtl_free (s : State) (f : Ctl → Ctl) : (s.onCtl f).free = s.free := rfl
@[simp] theorem State.onCtl_cur (s : State) (f : Ctl → Ctl) : (s.onCtl f).cur = s.cur := rfl
@[simp] theorem State.onCtl_agenda (s : State) (f : Ctl → Ctl) : (s.onCtl f).agenda = s.agenda := rfl
@[simp] theorem State.onCtl_turns (s : State) (f : Ctl → Ctl) : (s.onCtl f).turns = s.turns := rfl
@[simp] theorem State.onCtl_stalls (s : State) (f : Ctl → Ctl) : (s.onCtl f).stalls = s.stalls := rfl
@[simp] theorem State.onCtl_lags (s : State) (f : Ctl → Ctl) : (s.onCtl f).lags = s.lags := rfl
@[simp] theorem State.onCtl_down (s : State) (f : Ctl → Ctl) : (s.onCtl f).down = s.down := rfl
@[simp] theorem State.onCtl_outer (s : State) (f : Ctl → Ctl) : (s.onCtl f).outer = s.outer := rfl

/-! ### poke -/

@[simp] theorem State.poke_mem (s : State) (a : Nat) (b : Byte) : (s.poke a b).mem = s.mem := rfl
@[simp] theorem State.poke_poison (s : State) (a : Nat) (b : Byte) : (s.poke a b).poison = s.poison := rfl
@[simp] theorem State.poke_sealed (s : State) (a : Nat) (b : Byte) : (s.poke a b).sealed = s.sealed := rfl
@[simp] theorem State.poke_edge (s : State) (a : Nat) (b : Byte) : (s.poke a b).edge = s.edge := rfl
@[simp] theorem State.poke_cores (s : State) (a : Nat) (b : Byte) : (s.poke a b).cores = s.cores := rfl
@[simp] theorem State.poke_stackTab (s : State) (a : Nat) (b : Byte) : (s.poke a b).stackTab = s.stackTab := rfl
@[simp] theorem State.poke_groups (s : State) (a : Nat) (b : Byte) : (s.poke a b).groups = s.groups := rfl
@[simp] theorem State.poke_teams (s : State) (a : Nat) (b : Byte) : (s.poke a b).teams = s.teams := rfl
@[simp] theorem State.poke_saved (s : State) (a : Nat) (b : Byte) : (s.poke a b).saved = s.saved := rfl
@[simp] theorem State.poke_launches (s : State) (a : Nat) (b : Byte) : (s.poke a b).launches = s.launches := rfl
@[simp] theorem State.poke_queues (s : State) (a : Nat) (b : Byte) : (s.poke a b).queues = s.queues := rfl
@[simp] theorem State.poke_asids (s : State) (a : Nat) (b : Byte) : (s.poke a b).asids = s.asids := rfl
@[simp] theorem State.poke_ctl (s : State) (a : Nat) (b : Byte) : (s.poke a b).ctl = s.ctl := rfl
@[simp] theorem State.poke_msgs (s : State) (a : Nat) (b : Byte) : (s.poke a b).msgs = s.msgs := rfl
@[simp] theorem State.poke_remotes (s : State) (a : Nat) (b : Byte) : (s.poke a b).remotes = s.remotes := rfl
@[simp] theorem State.poke_loads (s : State) (a : Nat) (b : Byte) : (s.poke a b).loads = s.loads := rfl
@[simp] theorem State.poke_packets (s : State) (a : Nat) (b : Byte) : (s.poke a b).packets = s.packets := rfl
@[simp] theorem State.poke_nextKey (s : State) (a : Nat) (b : Byte) : (s.poke a b).nextKey = s.nextKey := rfl
@[simp] theorem State.poke_free (s : State) (a : Nat) (b : Byte) : (s.poke a b).free = s.free := rfl
@[simp] theorem State.poke_cur (s : State) (a : Nat) (b : Byte) : (s.poke a b).cur = s.cur := rfl
@[simp] theorem State.poke_agenda (s : State) (a : Nat) (b : Byte) : (s.poke a b).agenda = s.agenda := rfl
@[simp] theorem State.poke_turns (s : State) (a : Nat) (b : Byte) : (s.poke a b).turns = s.turns := rfl
@[simp] theorem State.poke_stalls (s : State) (a : Nat) (b : Byte) : (s.poke a b).stalls = s.stalls := rfl
@[simp] theorem State.poke_lags (s : State) (a : Nat) (b : Byte) : (s.poke a b).lags = s.lags := rfl
@[simp] theorem State.poke_down (s : State) (a : Nat) (b : Byte) : (s.poke a b).down = s.down := rfl
@[simp] theorem State.poke_outer (s : State) (a : Nat) (b : Byte) : (s.poke a b).outer = s.outer := rfl

/-! ### pokes -/

@[simp] theorem State.pokes_mem (s : State) (cs : List Host.Cell) : (s.pokes cs).mem = s.mem := rfl
@[simp] theorem State.pokes_poison (s : State) (cs : List Host.Cell) : (s.pokes cs).poison = s.poison := rfl
@[simp] theorem State.pokes_sealed (s : State) (cs : List Host.Cell) : (s.pokes cs).sealed = s.sealed := rfl
@[simp] theorem State.pokes_edge (s : State) (cs : List Host.Cell) : (s.pokes cs).edge = s.edge := rfl
@[simp] theorem State.pokes_cores (s : State) (cs : List Host.Cell) : (s.pokes cs).cores = s.cores := rfl
@[simp] theorem State.pokes_stackTab (s : State) (cs : List Host.Cell) : (s.pokes cs).stackTab = s.stackTab := rfl
@[simp] theorem State.pokes_groups (s : State) (cs : List Host.Cell) : (s.pokes cs).groups = s.groups := rfl
@[simp] theorem State.pokes_teams (s : State) (cs : List Host.Cell) : (s.pokes cs).teams = s.teams := rfl
@[simp] theorem State.pokes_saved (s : State) (cs : List Host.Cell) : (s.pokes cs).saved = s.saved := rfl
@[simp] theorem State.pokes_launches (s : State) (cs : List Host.Cell) : (s.pokes cs).launches = s.launches := rfl
@[simp] theorem State.pokes_queues (s : State) (cs : List Host.Cell) : (s.pokes cs).queues = s.queues := rfl
@[simp] theorem State.pokes_asids (s : State) (cs : List Host.Cell) : (s.pokes cs).asids = s.asids := rfl
@[simp] theorem State.pokes_ctl (s : State) (cs : List Host.Cell) : (s.pokes cs).ctl = s.ctl := rfl
@[simp] theorem State.pokes_msgs (s : State) (cs : List Host.Cell) : (s.pokes cs).msgs = s.msgs := rfl
@[simp] theorem State.pokes_remotes (s : State) (cs : List Host.Cell) : (s.pokes cs).remotes = s.remotes := rfl
@[simp] theorem State.pokes_loads (s : State) (cs : List Host.Cell) : (s.pokes cs).loads = s.loads := rfl
@[simp] theorem State.pokes_packets (s : State) (cs : List Host.Cell) : (s.pokes cs).packets = s.packets := rfl
@[simp] theorem State.pokes_nextKey (s : State) (cs : List Host.Cell) : (s.pokes cs).nextKey = s.nextKey := rfl
@[simp] theorem State.pokes_free (s : State) (cs : List Host.Cell) : (s.pokes cs).free = s.free := rfl
@[simp] theorem State.pokes_cur (s : State) (cs : List Host.Cell) : (s.pokes cs).cur = s.cur := rfl
@[simp] theorem State.pokes_agenda (s : State) (cs : List Host.Cell) : (s.pokes cs).agenda = s.agenda := rfl
@[simp] theorem State.pokes_turns (s : State) (cs : List Host.Cell) : (s.pokes cs).turns = s.turns := rfl
@[simp] theorem State.pokes_stalls (s : State) (cs : List Host.Cell) : (s.pokes cs).stalls = s.stalls := rfl
@[simp] theorem State.pokes_lags (s : State) (cs : List Host.Cell) : (s.pokes cs).lags = s.lags := rfl
@[simp] theorem State.pokes_down (s : State) (cs : List Host.Cell) : (s.pokes cs).down = s.down := rfl
@[simp] theorem State.pokes_outer (s : State) (cs : List Host.Cell) : (s.pokes cs).outer = s.outer := rfl

/-! ### What an update gives back -/

theorem State.grp_setGrp (s : State) (k n : Nat) (x : Group) : (s.setGrp k x).grp n = if k = n then x else s.grp n :=
  tget_tset _ _ _ _ _
@[simp] theorem State.grp_setGrp_self (s : State) (k : Nat) (x : Group) : (s.setGrp k x).grp k = x := tget_tset_self _ _ _ _
theorem State.grp_setGrp_ne (s : State) {k n : Nat} (x : Group) (h : k ≠ n) : (s.setGrp k x).grp n = s.grp n :=
  tget_tset_ne _ _ _ h
@[simp] theorem State.grp_onGrp_self (s : State) (k : Nat) (f : Group → Group) :
    (s.onGrp k f).grp k = f (s.grp k) := tget_tset_self _ _ _ _
theorem State.core_setCore (s : State) (k n : Nat) (x : Core) : (s.setCore k x).core n = if k = n then x else s.core n :=
  tget_tset _ _ _ _ _
@[simp] theorem State.core_setCore_self (s : State) (k : Nat) (x : Core) : (s.setCore k x).core k = x := tget_tset_self _ _ _ _
theorem State.core_setCore_ne (s : State) {k n : Nat} (x : Core) (h : k ≠ n) : (s.setCore k x).core n = s.core n :=
  tget_tset_ne _ _ _ h
@[simp] theorem State.core_onCore_self (s : State) (k : Nat) (f : Core → Core) :
    (s.onCore k f).core k = f (s.core k) := tget_tset_self _ _ _ _
theorem State.stack_setStack (s : State) (k n : Nat) (x : Stack) : (s.setStack k x).stack n = if k = n then x else s.stack n :=
  tget_tset _ _ _ _ _
@[simp] theorem State.stack_setStack_self (s : State) (k : Nat) (x : Stack) : (s.setStack k x).stack k = x := tget_tset_self _ _ _ _
theorem State.stack_setStack_ne (s : State) {k n : Nat} (x : Stack) (h : k ≠ n) : (s.setStack k x).stack n = s.stack n :=
  tget_tset_ne _ _ _ h
@[simp] theorem State.stack_onStack_self (s : State) (k : Nat) (f : Stack → Stack) :
    (s.onStack k f).stack k = f (s.stack k) := tget_tset_self _ _ _ _
theorem State.launch_setLaunch (s : State) (k n : Nat) (x : Launch) : (s.setLaunch k x).launch n = if k = n then x else s.launch n :=
  tget_tset _ _ _ _ _
@[simp] theorem State.launch_setLaunch_self (s : State) (k : Nat) (x : Launch) : (s.setLaunch k x).launch k = x := tget_tset_self _ _ _ _
theorem State.launch_setLaunch_ne (s : State) {k n : Nat} (x : Launch) (h : k ≠ n) : (s.setLaunch k x).launch n = s.launch n :=
  tget_tset_ne _ _ _ h
@[simp] theorem State.launch_onLaunch_self (s : State) (k : Nat) (f : Launch → Launch) :
    (s.onLaunch k f).launch k = f (s.launch k) := tget_tset_self _ _ _ _
theorem State.queue_setQueue (s : State) (k n : Nat) (x : Queue) : (s.setQueue k x).queue n = if k = n then x else s.queue n :=
  tget_tset _ _ _ _ _
@[simp] theorem State.queue_setQueue_self (s : State) (k : Nat) (x : Queue) : (s.setQueue k x).queue k = x := tget_tset_self _ _ _ _
theorem State.queue_setQueue_ne (s : State) {k n : Nat} (x : Queue) (h : k ≠ n) : (s.setQueue k x).queue n = s.queue n :=
  tget_tset_ne _ _ _ h
@[simp] theorem State.queue_onQueue_self (s : State) (k : Nat) (f : Queue → Queue) :
    (s.onQueue k f).queue k = f (s.queue k) := tget_tset_self _ _ _ _
@[simp] theorem State.g_onG (s : State) (f : Group → Group) : (s.onG f).g = f s.g := tget_tset_self _ _ _ _
@[simp] theorem State.g_onSet (s : State) (f : Strand → Strand) : (s.onSet f).g = s.g.onSet s.cur.jset f :=
  tget_tset_self _ _ _ _
@[simp] theorem State.gk_onG (s : State) (f : Group → Group) : (s.onG f).gk = s.gk := rfl


/-! ### Group.putV -/

@[simp] theorem Group.putV_core (g : Group) (r l : Nat) (x : Word) : (g.putV r l x).core = g.core := rfl
@[simp] theorem Group.putV_part (g : Group) (r l : Nat) (x : Word) : (g.putV r l x).part = g.part := rfl
@[simp] theorem Group.putV_slot (g : Group) (r l : Nat) (x : Word) : (g.putV r l x).slot = g.slot := rfl
@[simp] theorem Group.putV_launch (g : Group) (r l : Nat) (x : Word) : (g.putV r l x).launch = g.launch := rfl
@[simp] theorem Group.putV_team (g : Group) (r l : Nat) (x : Word) : (g.putV r l x).team = g.team := rfl
@[simp] theorem Group.putV_index (g : Group) (r l : Nat) (x : Word) : (g.putV r l x).index = g.index := rfl
@[simp] theorem Group.putV_width (g : Group) (r l : Nat) (x : Word) : (g.putV r l x).width = g.width := rfl
@[simp] theorem Group.putV_held (g : Group) (r l : Nat) (x : Word) : (g.putV r l x).held = g.held := rfl
@[simp] theorem Group.putV_s (g : Group) (r l : Nat) (x : Word) : (g.putV r l x).s = g.s := rfl
@[simp] theorem Group.putV_p (g : Group) (r l : Nat) (x : Word) : (g.putV r l x).p = g.p := rfl
@[simp] theorem Group.putV_srg (g : Group) (r l : Nat) (x : Word) : (g.putV r l x).srg = g.srg := rfl
@[simp] theorem Group.putV_strands (g : Group) (r l : Nat) (x : Word) : (g.putV r l x).strands = g.strands := rfl
@[simp] theorem Group.putV_q0 (g : Group) (r l : Nat) (x : Word) : (g.putV r l x).q0 = g.q0 := rfl
@[simp] theorem Group.putV_q1 (g : Group) (r l : Nat) (x : Word) : (g.putV r l x).q1 = g.q1 := rfl
@[simp] theorem Group.putV_fifo (g : Group) (r l : Nat) (x : Word) : (g.putV r l x).fifo = g.fifo := rfl
@[simp] theorem Group.putV_sfu (g : Group) (r l : Nat) (x : Word) : (g.putV r l x).sfu = g.sfu := rfl
@[simp] theorem Group.putV_sfufn (g : Group) (r l : Nat) (x : Word) : (g.putV r l x).sfufn = g.sfufn := rfl
@[simp] theorem Group.putV_tokens (g : Group) (r l : Nat) (x : Word) : (g.putV r l x).tokens = g.tokens := rfl
@[simp] theorem Group.putV_scl (g : Group) (r l : Nat) (x : Word) : (g.putV r l x).scl = g.scl := rfl
@[simp] theorem Group.putV_wsig1 (g : Group) (r l : Nat) (x : Word) : (g.putV r l x).wsig1 = g.wsig1 := rfl
@[simp] theorem Group.putV_wsig2 (g : Group) (r l : Nat) (x : Word) : (g.putV r l x).wsig2 = g.wsig2 := rfl
@[simp] theorem Group.putV_wsig3 (g : Group) (r l : Nat) (x : Word) : (g.putV r l x).wsig3 = g.wsig3 := rfl
@[simp] theorem Group.putV_glz (g : Group) (r l : Nat) (x : Word) : (g.putV r l x).glz = g.glz := rfl
@[simp] theorem Group.putV_resp (g : Group) (r l : Nat) (x : Word) : (g.putV r l x).resp = g.resp := rfl
@[simp] theorem Group.putV_trav (g : Group) (r l : Nat) (x : Word) : (g.putV r l x).trav = g.trav := rfl
@[simp] theorem Group.putV_restoring (g : Group) (r l : Nat) (x : Word) : (g.putV r l x).restoring = g.restoring := rfl
@[simp] theorem Group.putV_lastIssue (g : Group) (r l : Nat) (x : Word) : (g.putV r l x).lastIssue = g.lastIssue := rfl
@[simp] theorem Group.putV_endPc (g : Group) (r l : Nat) (x : Word) : (g.putV r l x).endPc = g.endPc := rfl
@[simp] theorem Group.putV_saving (g : Group) (r l : Nat) (x : Word) : (g.putV r l x).saving = g.saving := rfl

/-! ### Group.putS -/

@[simp] theorem Group.putS_core (g : Group) (i : Nat) (x : DWord) : (g.putS i x).core = g.core := rfl
@[simp] theorem Group.putS_part (g : Group) (i : Nat) (x : DWord) : (g.putS i x).part = g.part := rfl
@[simp] theorem Group.putS_slot (g : Group) (i : Nat) (x : DWord) : (g.putS i x).slot = g.slot := rfl
@[simp] theorem Group.putS_launch (g : Group) (i : Nat) (x : DWord) : (g.putS i x).launch = g.launch := rfl
@[simp] theorem Group.putS_team (g : Group) (i : Nat) (x : DWord) : (g.putS i x).team = g.team := rfl
@[simp] theorem Group.putS_index (g : Group) (i : Nat) (x : DWord) : (g.putS i x).index = g.index := rfl
@[simp] theorem Group.putS_width (g : Group) (i : Nat) (x : DWord) : (g.putS i x).width = g.width := rfl
@[simp] theorem Group.putS_held (g : Group) (i : Nat) (x : DWord) : (g.putS i x).held = g.held := rfl
@[simp] theorem Group.putS_v (g : Group) (i : Nat) (x : DWord) : (g.putS i x).v = g.v := rfl
@[simp] theorem Group.putS_p (g : Group) (i : Nat) (x : DWord) : (g.putS i x).p = g.p := rfl
@[simp] theorem Group.putS_srg (g : Group) (i : Nat) (x : DWord) : (g.putS i x).srg = g.srg := rfl
@[simp] theorem Group.putS_strands (g : Group) (i : Nat) (x : DWord) : (g.putS i x).strands = g.strands := rfl
@[simp] theorem Group.putS_q0 (g : Group) (i : Nat) (x : DWord) : (g.putS i x).q0 = g.q0 := rfl
@[simp] theorem Group.putS_q1 (g : Group) (i : Nat) (x : DWord) : (g.putS i x).q1 = g.q1 := rfl
@[simp] theorem Group.putS_fifo (g : Group) (i : Nat) (x : DWord) : (g.putS i x).fifo = g.fifo := rfl
@[simp] theorem Group.putS_sfu (g : Group) (i : Nat) (x : DWord) : (g.putS i x).sfu = g.sfu := rfl
@[simp] theorem Group.putS_sfufn (g : Group) (i : Nat) (x : DWord) : (g.putS i x).sfufn = g.sfufn := rfl
@[simp] theorem Group.putS_tokens (g : Group) (i : Nat) (x : DWord) : (g.putS i x).tokens = g.tokens := rfl
@[simp] theorem Group.putS_scl (g : Group) (i : Nat) (x : DWord) : (g.putS i x).scl = g.scl := rfl
@[simp] theorem Group.putS_wsig1 (g : Group) (i : Nat) (x : DWord) : (g.putS i x).wsig1 = g.wsig1 := rfl
@[simp] theorem Group.putS_wsig2 (g : Group) (i : Nat) (x : DWord) : (g.putS i x).wsig2 = g.wsig2 := rfl
@[simp] theorem Group.putS_wsig3 (g : Group) (i : Nat) (x : DWord) : (g.putS i x).wsig3 = g.wsig3 := rfl
@[simp] theorem Group.putS_glz (g : Group) (i : Nat) (x : DWord) : (g.putS i x).glz = g.glz := rfl
@[simp] theorem Group.putS_resp (g : Group) (i : Nat) (x : DWord) : (g.putS i x).resp = g.resp := rfl
@[simp] theorem Group.putS_trav (g : Group) (i : Nat) (x : DWord) : (g.putS i x).trav = g.trav := rfl
@[simp] theorem Group.putS_restoring (g : Group) (i : Nat) (x : DWord) : (g.putS i x).restoring = g.restoring := rfl
@[simp] theorem Group.putS_lastIssue (g : Group) (i : Nat) (x : DWord) : (g.putS i x).lastIssue = g.lastIssue := rfl
@[simp] theorem Group.putS_endPc (g : Group) (i : Nat) (x : DWord) : (g.putS i x).endPc = g.endPc := rfl
@[simp] theorem Group.putS_saving (g : Group) (i : Nat) (x : DWord) : (g.putS i x).saving = g.saving := rfl

/-! ### Group.putP -/

@[simp] theorem Group.putP_core (g : Group) (k l : Nat) (b : Bool) : (g.putP k l b).core = g.core := rfl
@[simp] theorem Group.putP_part (g : Group) (k l : Nat) (b : Bool) : (g.putP k l b).part = g.part := rfl
@[simp] theorem Group.putP_slot (g : Group) (k l : Nat) (b : Bool) : (g.putP k l b).slot = g.slot := rfl
@[simp] theorem Group.putP_launch (g : Group) (k l : Nat) (b : Bool) : (g.putP k l b).launch = g.launch := rfl
@[simp] theorem Group.putP_team (g : Group) (k l : Nat) (b : Bool) : (g.putP k l b).team = g.team := rfl
@[simp] theorem Group.putP_index (g : Group) (k l : Nat) (b : Bool) : (g.putP k l b).index = g.index := rfl
@[simp] theorem Group.putP_width (g : Group) (k l : Nat) (b : Bool) : (g.putP k l b).width = g.width := rfl
@[simp] theorem Group.putP_held (g : Group) (k l : Nat) (b : Bool) : (g.putP k l b).held = g.held := rfl
@[simp] theorem Group.putP_v (g : Group) (k l : Nat) (b : Bool) : (g.putP k l b).v = g.v := rfl
@[simp] theorem Group.putP_s (g : Group) (k l : Nat) (b : Bool) : (g.putP k l b).s = g.s := rfl
@[simp] theorem Group.putP_srg (g : Group) (k l : Nat) (b : Bool) : (g.putP k l b).srg = g.srg := rfl
@[simp] theorem Group.putP_strands (g : Group) (k l : Nat) (b : Bool) : (g.putP k l b).strands = g.strands := rfl
@[simp] theorem Group.putP_q0 (g : Group) (k l : Nat) (b : Bool) : (g.putP k l b).q0 = g.q0 := rfl
@[simp] theorem Group.putP_q1 (g : Group) (k l : Nat) (b : Bool) : (g.putP k l b).q1 = g.q1 := rfl
@[simp] theorem Group.putP_fifo (g : Group) (k l : Nat) (b : Bool) : (g.putP k l b).fifo = g.fifo := rfl
@[simp] theorem Group.putP_sfu (g : Group) (k l : Nat) (b : Bool) : (g.putP k l b).sfu = g.sfu := rfl
@[simp] theorem Group.putP_sfufn (g : Group) (k l : Nat) (b : Bool) : (g.putP k l b).sfufn = g.sfufn := rfl
@[simp] theorem Group.putP_tokens (g : Group) (k l : Nat) (b : Bool) : (g.putP k l b).tokens = g.tokens := rfl
@[simp] theorem Group.putP_scl (g : Group) (k l : Nat) (b : Bool) : (g.putP k l b).scl = g.scl := rfl
@[simp] theorem Group.putP_wsig1 (g : Group) (k l : Nat) (b : Bool) : (g.putP k l b).wsig1 = g.wsig1 := rfl
@[simp] theorem Group.putP_wsig2 (g : Group) (k l : Nat) (b : Bool) : (g.putP k l b).wsig2 = g.wsig2 := rfl
@[simp] theorem Group.putP_wsig3 (g : Group) (k l : Nat) (b : Bool) : (g.putP k l b).wsig3 = g.wsig3 := rfl
@[simp] theorem Group.putP_glz (g : Group) (k l : Nat) (b : Bool) : (g.putP k l b).glz = g.glz := rfl
@[simp] theorem Group.putP_resp (g : Group) (k l : Nat) (b : Bool) : (g.putP k l b).resp = g.resp := rfl
@[simp] theorem Group.putP_trav (g : Group) (k l : Nat) (b : Bool) : (g.putP k l b).trav = g.trav := rfl
@[simp] theorem Group.putP_restoring (g : Group) (k l : Nat) (b : Bool) : (g.putP k l b).restoring = g.restoring := rfl
@[simp] theorem Group.putP_lastIssue (g : Group) (k l : Nat) (b : Bool) : (g.putP k l b).lastIssue = g.lastIssue := rfl
@[simp] theorem Group.putP_endPc (g : Group) (k l : Nat) (b : Bool) : (g.putP k l b).endPc = g.endPc := rfl
@[simp] theorem Group.putP_saving (g : Group) (k l : Nat) (b : Bool) : (g.putP k l b).saving = g.saving := rfl

/-! ### Group.setToken -/

@[simp] theorem Group.setToken_core (g : Group) (k : Nat) (t : Token) : (g.setToken k t).core = g.core := rfl
@[simp] theorem Group.setToken_part (g : Group) (k : Nat) (t : Token) : (g.setToken k t).part = g.part := rfl
@[simp] theorem Group.setToken_slot (g : Group) (k : Nat) (t : Token) : (g.setToken k t).slot = g.slot := rfl
@[simp] theorem Group.setToken_launch (g : Group) (k : Nat) (t : Token) : (g.setToken k t).launch = g.launch := rfl
@[simp] theorem Group.setToken_team (g : Group) (k : Nat) (t : Token) : (g.setToken k t).team = g.team := rfl
@[simp] theorem Group.setToken_index (g : Group) (k : Nat) (t : Token) : (g.setToken k t).index = g.index := rfl
@[simp] theorem Group.setToken_width (g : Group) (k : Nat) (t : Token) : (g.setToken k t).width = g.width := rfl
@[simp] theorem Group.setToken_held (g : Group) (k : Nat) (t : Token) : (g.setToken k t).held = g.held := rfl
@[simp] theorem Group.setToken_v (g : Group) (k : Nat) (t : Token) : (g.setToken k t).v = g.v := rfl
@[simp] theorem Group.setToken_s (g : Group) (k : Nat) (t : Token) : (g.setToken k t).s = g.s := rfl
@[simp] theorem Group.setToken_p (g : Group) (k : Nat) (t : Token) : (g.setToken k t).p = g.p := rfl
@[simp] theorem Group.setToken_srg (g : Group) (k : Nat) (t : Token) : (g.setToken k t).srg = g.srg := rfl
@[simp] theorem Group.setToken_bad (g : Group) (k : Nat) (t : Token) : (g.setToken k t).bad = g.bad := rfl
@[simp] theorem Group.setToken_strands (g : Group) (k : Nat) (t : Token) : (g.setToken k t).strands = g.strands := rfl
@[simp] theorem Group.setToken_q0 (g : Group) (k : Nat) (t : Token) : (g.setToken k t).q0 = g.q0 := rfl
@[simp] theorem Group.setToken_q1 (g : Group) (k : Nat) (t : Token) : (g.setToken k t).q1 = g.q1 := rfl
@[simp] theorem Group.setToken_fifo (g : Group) (k : Nat) (t : Token) : (g.setToken k t).fifo = g.fifo := rfl
@[simp] theorem Group.setToken_sfu (g : Group) (k : Nat) (t : Token) : (g.setToken k t).sfu = g.sfu := rfl
@[simp] theorem Group.setToken_sfufn (g : Group) (k : Nat) (t : Token) : (g.setToken k t).sfufn = g.sfufn := rfl
@[simp] theorem Group.setToken_scl (g : Group) (k : Nat) (t : Token) : (g.setToken k t).scl = g.scl := rfl
@[simp] theorem Group.setToken_wsig1 (g : Group) (k : Nat) (t : Token) : (g.setToken k t).wsig1 = g.wsig1 := rfl
@[simp] theorem Group.setToken_wsig2 (g : Group) (k : Nat) (t : Token) : (g.setToken k t).wsig2 = g.wsig2 := rfl
@[simp] theorem Group.setToken_wsig3 (g : Group) (k : Nat) (t : Token) : (g.setToken k t).wsig3 = g.wsig3 := rfl
@[simp] theorem Group.setToken_glz (g : Group) (k : Nat) (t : Token) : (g.setToken k t).glz = g.glz := rfl
@[simp] theorem Group.setToken_resp (g : Group) (k : Nat) (t : Token) : (g.setToken k t).resp = g.resp := rfl
@[simp] theorem Group.setToken_trav (g : Group) (k : Nat) (t : Token) : (g.setToken k t).trav = g.trav := rfl
@[simp] theorem Group.setToken_restoring (g : Group) (k : Nat) (t : Token) : (g.setToken k t).restoring = g.restoring := rfl
@[simp] theorem Group.setToken_lastIssue (g : Group) (k : Nat) (t : Token) : (g.setToken k t).lastIssue = g.lastIssue := rfl
@[simp] theorem Group.setToken_endPc (g : Group) (k : Nat) (t : Token) : (g.setToken k t).endPc = g.endPc := rfl
@[simp] theorem Group.setToken_saving (g : Group) (k : Nat) (t : Token) : (g.setToken k t).saving = g.saving := rfl

/-! ### Group.setQueued -/

@[simp] theorem Group.setQueued_core (g : Group) (q l : Nat) (x : List Word) : (g.setQueued q l x).core = g.core := rfl
@[simp] theorem Group.setQueued_part (g : Group) (q l : Nat) (x : List Word) : (g.setQueued q l x).part = g.part := rfl
@[simp] theorem Group.setQueued_slot (g : Group) (q l : Nat) (x : List Word) : (g.setQueued q l x).slot = g.slot := rfl
@[simp] theorem Group.setQueued_launch (g : Group) (q l : Nat) (x : List Word) : (g.setQueued q l x).launch = g.launch := rfl
@[simp] theorem Group.setQueued_team (g : Group) (q l : Nat) (x : List Word) : (g.setQueued q l x).team = g.team := rfl
@[simp] theorem Group.setQueued_index (g : Group) (q l : Nat) (x : List Word) : (g.setQueued q l x).index = g.index := rfl
@[simp] theorem Group.setQueued_width (g : Group) (q l : Nat) (x : List Word) : (g.setQueued q l x).width = g.width := rfl
@[simp] theorem Group.setQueued_held (g : Group) (q l : Nat) (x : List Word) : (g.setQueued q l x).held = g.held := rfl
@[simp] theorem Group.setQueued_v (g : Group) (q l : Nat) (x : List Word) : (g.setQueued q l x).v = g.v := rfl
@[simp] theorem Group.setQueued_s (g : Group) (q l : Nat) (x : List Word) : (g.setQueued q l x).s = g.s := rfl
@[simp] theorem Group.setQueued_p (g : Group) (q l : Nat) (x : List Word) : (g.setQueued q l x).p = g.p := rfl
@[simp] theorem Group.setQueued_srg (g : Group) (q l : Nat) (x : List Word) : (g.setQueued q l x).srg = g.srg := rfl
@[simp] theorem Group.setQueued_bad (g : Group) (q l : Nat) (x : List Word) : (g.setQueued q l x).bad = g.bad := rfl
@[simp] theorem Group.setQueued_strands (g : Group) (q l : Nat) (x : List Word) : (g.setQueued q l x).strands = g.strands := rfl
@[simp] theorem Group.setQueued_q0 (g : Group) (q l : Nat) (x : List Word) : (g.setQueued q l x).q0 = g.q0 := rfl
@[simp] theorem Group.setQueued_q1 (g : Group) (q l : Nat) (x : List Word) : (g.setQueued q l x).q1 = g.q1 := rfl
@[simp] theorem Group.setQueued_sfu (g : Group) (q l : Nat) (x : List Word) : (g.setQueued q l x).sfu = g.sfu := rfl
@[simp] theorem Group.setQueued_sfufn (g : Group) (q l : Nat) (x : List Word) : (g.setQueued q l x).sfufn = g.sfufn := rfl
@[simp] theorem Group.setQueued_tokens (g : Group) (q l : Nat) (x : List Word) : (g.setQueued q l x).tokens = g.tokens := rfl
@[simp] theorem Group.setQueued_scl (g : Group) (q l : Nat) (x : List Word) : (g.setQueued q l x).scl = g.scl := rfl
@[simp] theorem Group.setQueued_wsig1 (g : Group) (q l : Nat) (x : List Word) : (g.setQueued q l x).wsig1 = g.wsig1 := rfl
@[simp] theorem Group.setQueued_wsig2 (g : Group) (q l : Nat) (x : List Word) : (g.setQueued q l x).wsig2 = g.wsig2 := rfl
@[simp] theorem Group.setQueued_wsig3 (g : Group) (q l : Nat) (x : List Word) : (g.setQueued q l x).wsig3 = g.wsig3 := rfl
@[simp] theorem Group.setQueued_glz (g : Group) (q l : Nat) (x : List Word) : (g.setQueued q l x).glz = g.glz := rfl
@[simp] theorem Group.setQueued_resp (g : Group) (q l : Nat) (x : List Word) : (g.setQueued q l x).resp = g.resp := rfl
@[simp] theorem Group.setQueued_trav (g : Group) (q l : Nat) (x : List Word) : (g.setQueued q l x).trav = g.trav := rfl
@[simp] theorem Group.setQueued_restoring (g : Group) (q l : Nat) (x : List Word) : (g.setQueued q l x).restoring = g.restoring := rfl
@[simp] theorem Group.setQueued_lastIssue (g : Group) (q l : Nat) (x : List Word) : (g.setQueued q l x).lastIssue = g.lastIssue := rfl
@[simp] theorem Group.setQueued_endPc (g : Group) (q l : Nat) (x : List Word) : (g.setQueued q l x).endPc = g.endPc := rfl
@[simp] theorem Group.setQueued_saving (g : Group) (q l : Nat) (x : List Word) : (g.setQueued q l x).saving = g.saving := rfl

/-! ### Group.setStrand -/

@[simp] theorem Group.setStrand_core (g : Group) (k : Nat) (x : Strand) : (g.setStrand k x).core = g.core := rfl
@[simp] theorem Group.setStrand_part (g : Group) (k : Nat) (x : Strand) : (g.setStrand k x).part = g.part := rfl
@[simp] theorem Group.setStrand_slot (g : Group) (k : Nat) (x : Strand) : (g.setStrand k x).slot = g.slot := rfl
@[simp] theorem Group.setStrand_launch (g : Group) (k : Nat) (x : Strand) : (g.setStrand k x).launch = g.launch := rfl
@[simp] theorem Group.setStrand_team (g : Group) (k : Nat) (x : Strand) : (g.setStrand k x).team = g.team := rfl
@[simp] theorem Group.setStrand_index (g : Group) (k : Nat) (x : Strand) : (g.setStrand k x).index = g.index := rfl
@[simp] theorem Group.setStrand_width (g : Group) (k : Nat) (x : Strand) : (g.setStrand k x).width = g.width := rfl
@[simp] theorem Group.setStrand_held (g : Group) (k : Nat) (x : Strand) : (g.setStrand k x).held = g.held := rfl
@[simp] theorem Group.setStrand_v (g : Group) (k : Nat) (x : Strand) : (g.setStrand k x).v = g.v := rfl
@[simp] theorem Group.setStrand_s (g : Group) (k : Nat) (x : Strand) : (g.setStrand k x).s = g.s := rfl
@[simp] theorem Group.setStrand_p (g : Group) (k : Nat) (x : Strand) : (g.setStrand k x).p = g.p := rfl
@[simp] theorem Group.setStrand_srg (g : Group) (k : Nat) (x : Strand) : (g.setStrand k x).srg = g.srg := rfl
@[simp] theorem Group.setStrand_bad (g : Group) (k : Nat) (x : Strand) : (g.setStrand k x).bad = g.bad := rfl
@[simp] theorem Group.setStrand_q0 (g : Group) (k : Nat) (x : Strand) : (g.setStrand k x).q0 = g.q0 := rfl
@[simp] theorem Group.setStrand_q1 (g : Group) (k : Nat) (x : Strand) : (g.setStrand k x).q1 = g.q1 := rfl
@[simp] theorem Group.setStrand_fifo (g : Group) (k : Nat) (x : Strand) : (g.setStrand k x).fifo = g.fifo := rfl
@[simp] theorem Group.setStrand_sfu (g : Group) (k : Nat) (x : Strand) : (g.setStrand k x).sfu = g.sfu := rfl
@[simp] theorem Group.setStrand_sfufn (g : Group) (k : Nat) (x : Strand) : (g.setStrand k x).sfufn = g.sfufn := rfl
@[simp] theorem Group.setStrand_tokens (g : Group) (k : Nat) (x : Strand) : (g.setStrand k x).tokens = g.tokens := rfl
@[simp] theorem Group.setStrand_scl (g : Group) (k : Nat) (x : Strand) : (g.setStrand k x).scl = g.scl := rfl
@[simp] theorem Group.setStrand_wsig1 (g : Group) (k : Nat) (x : Strand) : (g.setStrand k x).wsig1 = g.wsig1 := rfl
@[simp] theorem Group.setStrand_wsig2 (g : Group) (k : Nat) (x : Strand) : (g.setStrand k x).wsig2 = g.wsig2 := rfl
@[simp] theorem Group.setStrand_wsig3 (g : Group) (k : Nat) (x : Strand) : (g.setStrand k x).wsig3 = g.wsig3 := rfl
@[simp] theorem Group.setStrand_glz (g : Group) (k : Nat) (x : Strand) : (g.setStrand k x).glz = g.glz := rfl
@[simp] theorem Group.setStrand_resp (g : Group) (k : Nat) (x : Strand) : (g.setStrand k x).resp = g.resp := rfl
@[simp] theorem Group.setStrand_trav (g : Group) (k : Nat) (x : Strand) : (g.setStrand k x).trav = g.trav := rfl
@[simp] theorem Group.setStrand_restoring (g : Group) (k : Nat) (x : Strand) : (g.setStrand k x).restoring = g.restoring := rfl
@[simp] theorem Group.setStrand_lastIssue (g : Group) (k : Nat) (x : Strand) : (g.setStrand k x).lastIssue = g.lastIssue := rfl
@[simp] theorem Group.setStrand_endPc (g : Group) (k : Nat) (x : Strand) : (g.setStrand k x).endPc = g.endPc := rfl
@[simp] theorem Group.setStrand_saving (g : Group) (k : Nat) (x : Strand) : (g.setStrand k x).saving = g.saving := rfl

/-! ### Group.onStrand -/

@[simp] theorem Group.onStrand_core (g : Group) (k : Nat) (f : Strand → Strand) : (g.onStrand k f).core = g.core := rfl
@[simp] theorem Group.onStrand_part (g : Group) (k : Nat) (f : Strand → Strand) : (g.onStrand k f).part = g.part := rfl
@[simp] theorem Group.onStrand_slot (g : Group) (k : Nat) (f : Strand → Strand) : (g.onStrand k f).slot = g.slot := rfl
@[simp] theorem Group.onStrand_launch (g : Group) (k : Nat) (f : Strand → Strand) : (g.onStrand k f).launch = g.launch := rfl
@[simp] theorem Group.onStrand_team (g : Group) (k : Nat) (f : Strand → Strand) : (g.onStrand k f).team = g.team := rfl
@[simp] theorem Group.onStrand_index (g : Group) (k : Nat) (f : Strand → Strand) : (g.onStrand k f).index = g.index := rfl
@[simp] theorem Group.onStrand_width (g : Group) (k : Nat) (f : Strand → Strand) : (g.onStrand k f).width = g.width := rfl
@[simp] theorem Group.onStrand_held (g : Group) (k : Nat) (f : Strand → Strand) : (g.onStrand k f).held = g.held := rfl
@[simp] theorem Group.onStrand_v (g : Group) (k : Nat) (f : Strand → Strand) : (g.onStrand k f).v = g.v := rfl
@[simp] theorem Group.onStrand_s (g : Group) (k : Nat) (f : Strand → Strand) : (g.onStrand k f).s = g.s := rfl
@[simp] theorem Group.onStrand_p (g : Group) (k : Nat) (f : Strand → Strand) : (g.onStrand k f).p = g.p := rfl
@[simp] theorem Group.onStrand_srg (g : Group) (k : Nat) (f : Strand → Strand) : (g.onStrand k f).srg = g.srg := rfl
@[simp] theorem Group.onStrand_bad (g : Group) (k : Nat) (f : Strand → Strand) : (g.onStrand k f).bad = g.bad := rfl
@[simp] theorem Group.onStrand_q0 (g : Group) (k : Nat) (f : Strand → Strand) : (g.onStrand k f).q0 = g.q0 := rfl
@[simp] theorem Group.onStrand_q1 (g : Group) (k : Nat) (f : Strand → Strand) : (g.onStrand k f).q1 = g.q1 := rfl
@[simp] theorem Group.onStrand_fifo (g : Group) (k : Nat) (f : Strand → Strand) : (g.onStrand k f).fifo = g.fifo := rfl
@[simp] theorem Group.onStrand_sfu (g : Group) (k : Nat) (f : Strand → Strand) : (g.onStrand k f).sfu = g.sfu := rfl
@[simp] theorem Group.onStrand_sfufn (g : Group) (k : Nat) (f : Strand → Strand) : (g.onStrand k f).sfufn = g.sfufn := rfl
@[simp] theorem Group.onStrand_tokens (g : Group) (k : Nat) (f : Strand → Strand) : (g.onStrand k f).tokens = g.tokens := rfl
@[simp] theorem Group.onStrand_scl (g : Group) (k : Nat) (f : Strand → Strand) : (g.onStrand k f).scl = g.scl := rfl
@[simp] theorem Group.onStrand_wsig1 (g : Group) (k : Nat) (f : Strand → Strand) : (g.onStrand k f).wsig1 = g.wsig1 := rfl
@[simp] theorem Group.onStrand_wsig2 (g : Group) (k : Nat) (f : Strand → Strand) : (g.onStrand k f).wsig2 = g.wsig2 := rfl
@[simp] theorem Group.onStrand_wsig3 (g : Group) (k : Nat) (f : Strand → Strand) : (g.onStrand k f).wsig3 = g.wsig3 := rfl
@[simp] theorem Group.onStrand_glz (g : Group) (k : Nat) (f : Strand → Strand) : (g.onStrand k f).glz = g.glz := rfl
@[simp] theorem Group.onStrand_resp (g : Group) (k : Nat) (f : Strand → Strand) : (g.onStrand k f).resp = g.resp := rfl
@[simp] theorem Group.onStrand_trav (g : Group) (k : Nat) (f : Strand → Strand) : (g.onStrand k f).trav = g.trav := rfl
@[simp] theorem Group.onStrand_restoring (g : Group) (k : Nat) (f : Strand → Strand) : (g.onStrand k f).restoring = g.restoring := rfl
@[simp] theorem Group.onStrand_lastIssue (g : Group) (k : Nat) (f : Strand → Strand) : (g.onStrand k f).lastIssue = g.lastIssue := rfl
@[simp] theorem Group.onStrand_endPc (g : Group) (k : Nat) (f : Strand → Strand) : (g.onStrand k f).endPc = g.endPc := rfl
@[simp] theorem Group.onStrand_saving (g : Group) (k : Nat) (f : Strand → Strand) : (g.onStrand k f).saving = g.saving := rfl

/-! ### Group.onSet -/

@[simp] theorem Group.onSet_core (g : Group) (j : Nat) (f : Strand → Strand) : (g.onSet j f).core = g.core := rfl
@[simp] theorem Group.onSet_part (g : Group) (j : Nat) (f : Strand → Strand) : (g.onSet j f).part = g.part := rfl
@[simp] theorem Group.onSet_slot (g : Group) (j : Nat) (f : Strand → Strand) : (g.onSet j f).slot = g.slot := rfl
@[simp] theorem Group.onSet_launch (g : Group) (j : Nat) (f : Strand → Strand) : (g.onSet j f).launch = g.launch := rfl
@[simp] theorem Group.onSet_team (g : Group) (j : Nat) (f : Strand → Strand) : (g.onSet j f).team = g.team := rfl
@[simp] theorem Group.onSet_index (g : Group) (j : Nat) (f : Strand → Strand) : (g.onSet j f).index = g.index := rfl
@[simp] theorem Group.onSet_width (g : Group) (j : Nat) (f : Strand → Strand) : (g.onSet j f).width = g.width := rfl
@[simp] theorem Group.onSet_held (g : Group) (j : Nat) (f : Strand → Strand) : (g.onSet j f).held = g.held := rfl
@[simp] theorem Group.onSet_v (g : Group) (j : Nat) (f : Strand → Strand) : (g.onSet j f).v = g.v := rfl
@[simp] theorem Group.onSet_s (g : Group) (j : Nat) (f : Strand → Strand) : (g.onSet j f).s = g.s := rfl
@[simp] theorem Group.onSet_p (g : Group) (j : Nat) (f : Strand → Strand) : (g.onSet j f).p = g.p := rfl
@[simp] theorem Group.onSet_srg (g : Group) (j : Nat) (f : Strand → Strand) : (g.onSet j f).srg = g.srg := rfl
@[simp] theorem Group.onSet_bad (g : Group) (j : Nat) (f : Strand → Strand) : (g.onSet j f).bad = g.bad := rfl
@[simp] theorem Group.onSet_q0 (g : Group) (j : Nat) (f : Strand → Strand) : (g.onSet j f).q0 = g.q0 := rfl
@[simp] theorem Group.onSet_q1 (g : Group) (j : Nat) (f : Strand → Strand) : (g.onSet j f).q1 = g.q1 := rfl
@[simp] theorem Group.onSet_fifo (g : Group) (j : Nat) (f : Strand → Strand) : (g.onSet j f).fifo = g.fifo := rfl
@[simp] theorem Group.onSet_sfu (g : Group) (j : Nat) (f : Strand → Strand) : (g.onSet j f).sfu = g.sfu := rfl
@[simp] theorem Group.onSet_sfufn (g : Group) (j : Nat) (f : Strand → Strand) : (g.onSet j f).sfufn = g.sfufn := rfl
@[simp] theorem Group.onSet_tokens (g : Group) (j : Nat) (f : Strand → Strand) : (g.onSet j f).tokens = g.tokens := rfl
@[simp] theorem Group.onSet_scl (g : Group) (j : Nat) (f : Strand → Strand) : (g.onSet j f).scl = g.scl := rfl
@[simp] theorem Group.onSet_wsig1 (g : Group) (j : Nat) (f : Strand → Strand) : (g.onSet j f).wsig1 = g.wsig1 := rfl
@[simp] theorem Group.onSet_wsig2 (g : Group) (j : Nat) (f : Strand → Strand) : (g.onSet j f).wsig2 = g.wsig2 := rfl
@[simp] theorem Group.onSet_wsig3 (g : Group) (j : Nat) (f : Strand → Strand) : (g.onSet j f).wsig3 = g.wsig3 := rfl
@[simp] theorem Group.onSet_glz (g : Group) (j : Nat) (f : Strand → Strand) : (g.onSet j f).glz = g.glz := rfl
@[simp] theorem Group.onSet_resp (g : Group) (j : Nat) (f : Strand → Strand) : (g.onSet j f).resp = g.resp := rfl
@[simp] theorem Group.onSet_trav (g : Group) (j : Nat) (f : Strand → Strand) : (g.onSet j f).trav = g.trav := rfl
@[simp] theorem Group.onSet_restoring (g : Group) (j : Nat) (f : Strand → Strand) : (g.onSet j f).restoring = g.restoring := rfl
@[simp] theorem Group.onSet_lastIssue (g : Group) (j : Nat) (f : Strand → Strand) : (g.onSet j f).lastIssue = g.lastIssue := rfl
@[simp] theorem Group.onSet_endPc (g : Group) (j : Nat) (f : Strand → Strand) : (g.onSet j f).endPc = g.endPc := rfl
@[simp] theorem Group.onSet_saving (g : Group) (j : Nat) (f : Strand → Strand) : (g.onSet j f).saving = g.saving := rfl

/-! ### Strand.next -/

@[simp] theorem Strand.next_pc (x : Strand) (n : Nat × Nat) : (x.next n).pc = x.pc := rfl
@[simp] theorem Strand.next_mode (x : Strand) (n : Nat × Nat) : (x.next n).mode = x.mode := rfl
@[simp] theorem Strand.next_prec (x : Strand) (n : Nat × Nat) : (x.next n).prec = x.prec := rfl
@[simp] theorem Strand.next_live (x : Strand) (n : Nat × Nat) : (x.next n).live = x.live := rfl
@[simp] theorem Strand.next_lk (x : Strand) (n : Nat × Nat) : (x.next n).lk = x.lk := rfl
@[simp] theorem Strand.next_loops (x : Strand) (n : Nat × Nat) : (x.next n).loops = x.loops := rfl
@[simp] theorem Strand.next_amask (x : Strand) (n : Nat × Nat) : (x.next n).amask = x.amask := rfl
@[simp] theorem Strand.next_stack (x : Strand) (n : Nat × Nat) : (x.next n).stack = x.stack := rfl
@[simp] theorem Strand.next_handler (x : Strand) (n : Nat × Nat) : (x.next n).handler = x.handler := rfl
@[simp] theorem Strand.next_tcause (x : Strand) (n : Nat × Nat) : (x.next n).tcause = x.tcause := rfl
@[simp] theorem Strand.next_tpc (x : Strand) (n : Nat × Nat) : (x.next n).tpc = x.tpc := rfl
@[simp] theorem Strand.next_taddr (x : Strand) (n : Nat × Nat) : (x.next n).taddr = x.taddr := rfl
@[simp] theorem Strand.next_tinfo (x : Strand) (n : Nat × Nat) : (x.next n).tinfo = x.tinfo := rfl
@[simp] theorem Strand.next_ended (x : Strand) (n : Nat × Nat) : (x.next n).ended = x.ended := rfl
@[simp] theorem Strand.next_jset (x : Strand) (n : Nat × Nat) : (x.next n).jset = x.jset := rfl
@[simp] theorem Strand.next_parked (x : Strand) (n : Nat × Nat) : (x.next n).parked = x.parked := rfl
@[simp] theorem Strand.next_parkPc (x : Strand) (n : Nat × Nat) : (x.next n).parkPc = x.parkPc := rfl
@[simp] theorem Strand.next_arrived (x : Strand) (n : Nat × Nat) : (x.next n).arrived = x.arrived := rfl
@[simp] theorem Strand.next_barPend (x : Strand) (n : Nat × Nat) : (x.next n).barPend = x.barPend := rfl
@[simp] theorem Strand.next_snap (x : Strand) (n : Nat × Nat) : (x.next n).snap = x.snap := rfl
@[simp] theorem Strand.next_waitSeq (x : Strand) (n : Nat × Nat) : (x.next n).waitSeq = x.waitSeq := rfl

/-! ### Strand.enter -/

@[simp] theorem Strand.enter_mode (x : Strand) (t : Trap) (h : DWord) (n : Nat × Nat) : (x.enter t h n).mode = x.mode := rfl
@[simp] theorem Strand.enter_prec (x : Strand) (t : Trap) (h : DWord) (n : Nat × Nat) : (x.enter t h n).prec = x.prec := rfl
@[simp] theorem Strand.enter_live (x : Strand) (t : Trap) (h : DWord) (n : Nat × Nat) : (x.enter t h n).live = x.live := rfl
@[simp] theorem Strand.enter_lk (x : Strand) (t : Trap) (h : DWord) (n : Nat × Nat) : (x.enter t h n).lk = x.lk := rfl
@[simp] theorem Strand.enter_loops (x : Strand) (t : Trap) (h : DWord) (n : Nat × Nat) : (x.enter t h n).loops = x.loops := rfl
@[simp] theorem Strand.enter_amask (x : Strand) (t : Trap) (h : DWord) (n : Nat × Nat) : (x.enter t h n).amask = x.amask := rfl
@[simp] theorem Strand.enter_stack (x : Strand) (t : Trap) (h : DWord) (n : Nat × Nat) : (x.enter t h n).stack = x.stack := rfl
@[simp] theorem Strand.enter_ended (x : Strand) (t : Trap) (h : DWord) (n : Nat × Nat) : (x.enter t h n).ended = x.ended := rfl
@[simp] theorem Strand.enter_jset (x : Strand) (t : Trap) (h : DWord) (n : Nat × Nat) : (x.enter t h n).jset = x.jset := rfl
@[simp] theorem Strand.enter_parked (x : Strand) (t : Trap) (h : DWord) (n : Nat × Nat) : (x.enter t h n).parked = x.parked := rfl
@[simp] theorem Strand.enter_parkPc (x : Strand) (t : Trap) (h : DWord) (n : Nat × Nat) : (x.enter t h n).parkPc = x.parkPc := rfl
@[simp] theorem Strand.enter_barPend (x : Strand) (t : Trap) (h : DWord) (n : Nat × Nat) : (x.enter t h n).barPend = x.barPend := rfl
@[simp] theorem Strand.enter_snap (x : Strand) (t : Trap) (h : DWord) (n : Nat × Nat) : (x.enter t h n).snap = x.snap := rfl
@[simp] theorem Strand.enter_waitSeq (x : Strand) (t : Trap) (h : DWord) (n : Nat × Nat) : (x.enter t h n).waitSeq = x.waitSeq := rfl

/-! ### Strand.setLoop -/

@[simp] theorem Strand.setLoop_pc (x : Strand) (k : Nat) (v : LoopLevel) : (x.setLoop k v).pc = x.pc := rfl
@[simp] theorem Strand.setLoop_mode (x : Strand) (k : Nat) (v : LoopLevel) : (x.setLoop k v).mode = x.mode := rfl
@[simp] theorem Strand.setLoop_prec (x : Strand) (k : Nat) (v : LoopLevel) : (x.setLoop k v).prec = x.prec := rfl
@[simp] theorem Strand.setLoop_live (x : Strand) (k : Nat) (v : LoopLevel) : (x.setLoop k v).live = x.live := rfl
@[simp] theorem Strand.setLoop_lk (x : Strand) (k : Nat) (v : LoopLevel) : (x.setLoop k v).lk = x.lk := rfl
@[simp] theorem Strand.setLoop_amask (x : Strand) (k : Nat) (v : LoopLevel) : (x.setLoop k v).amask = x.amask := rfl
@[simp] theorem Strand.setLoop_stack (x : Strand) (k : Nat) (v : LoopLevel) : (x.setLoop k v).stack = x.stack := rfl
@[simp] theorem Strand.setLoop_handler (x : Strand) (k : Nat) (v : LoopLevel) : (x.setLoop k v).handler = x.handler := rfl
@[simp] theorem Strand.setLoop_tcause (x : Strand) (k : Nat) (v : LoopLevel) : (x.setLoop k v).tcause = x.tcause := rfl
@[simp] theorem Strand.setLoop_tpc (x : Strand) (k : Nat) (v : LoopLevel) : (x.setLoop k v).tpc = x.tpc := rfl
@[simp] theorem Strand.setLoop_taddr (x : Strand) (k : Nat) (v : LoopLevel) : (x.setLoop k v).taddr = x.taddr := rfl
@[simp] theorem Strand.setLoop_tinfo (x : Strand) (k : Nat) (v : LoopLevel) : (x.setLoop k v).tinfo = x.tinfo := rfl
@[simp] theorem Strand.setLoop_ended (x : Strand) (k : Nat) (v : LoopLevel) : (x.setLoop k v).ended = x.ended := rfl
@[simp] theorem Strand.setLoop_jset (x : Strand) (k : Nat) (v : LoopLevel) : (x.setLoop k v).jset = x.jset := rfl
@[simp] theorem Strand.setLoop_parked (x : Strand) (k : Nat) (v : LoopLevel) : (x.setLoop k v).parked = x.parked := rfl
@[simp] theorem Strand.setLoop_parkPc (x : Strand) (k : Nat) (v : LoopLevel) : (x.setLoop k v).parkPc = x.parkPc := rfl
@[simp] theorem Strand.setLoop_arrived (x : Strand) (k : Nat) (v : LoopLevel) : (x.setLoop k v).arrived = x.arrived := rfl
@[simp] theorem Strand.setLoop_barPend (x : Strand) (k : Nat) (v : LoopLevel) : (x.setLoop k v).barPend = x.barPend := rfl
@[simp] theorem Strand.setLoop_barMark (x : Strand) (k : Nat) (v : LoopLevel) : (x.setLoop k v).barMark = x.barMark := rfl
@[simp] theorem Strand.setLoop_released (x : Strand) (k : Nat) (v : LoopLevel) : (x.setLoop k v).released = x.released := rfl
@[simp] theorem Strand.setLoop_snap (x : Strand) (k : Nat) (v : LoopLevel) : (x.setLoop k v).snap = x.snap := rfl
@[simp] theorem Strand.setLoop_issued (x : Strand) (k : Nat) (v : LoopLevel) : (x.setLoop k v).issued = x.issued := rfl
@[simp] theorem Strand.setLoop_wait (x : Strand) (k : Nat) (v : LoopLevel) : (x.setLoop k v).wait = x.wait := rfl
@[simp] theorem Strand.setLoop_waitSeq (x : Strand) (k : Nat) (v : LoopLevel) : (x.setLoop k v).waitSeq = x.waitSeq := rfl
@[simp] theorem Strand.setLoop_readyAt (x : Strand) (k : Nat) (v : LoopLevel) : (x.setLoop k v).readyAt = x.readyAt := rfl
@[simp] theorem Strand.setLoop_begun (x : Strand) (k : Nat) (v : LoopLevel) : (x.setLoop k v).begun = x.begun := rfl

/-! ### Strand.rejoin -/

@[simp] theorem Strand.rejoin_pc (x : Strand)  : (x.rejoin ).pc = x.pc := rfl
@[simp] theorem Strand.rejoin_mode (x : Strand)  : (x.rejoin ).mode = x.mode := rfl
@[simp] theorem Strand.rejoin_prec (x : Strand)  : (x.rejoin ).prec = x.prec := rfl
@[simp] theorem Strand.rejoin_live (x : Strand)  : (x.rejoin ).live = x.live := rfl
@[simp] theorem Strand.rejoin_lk (x : Strand)  : (x.rejoin ).lk = x.lk := rfl
@[simp] theorem Strand.rejoin_loops (x : Strand)  : (x.rejoin ).loops = x.loops := rfl
@[simp] theorem Strand.rejoin_handler (x : Strand)  : (x.rejoin ).handler = x.handler := rfl
@[simp] theorem Strand.rejoin_tcause (x : Strand)  : (x.rejoin ).tcause = x.tcause := rfl
@[simp] theorem Strand.rejoin_tpc (x : Strand)  : (x.rejoin ).tpc = x.tpc := rfl
@[simp] theorem Strand.rejoin_taddr (x : Strand)  : (x.rejoin ).taddr = x.taddr := rfl
@[simp] theorem Strand.rejoin_tinfo (x : Strand)  : (x.rejoin ).tinfo = x.tinfo := rfl
@[simp] theorem Strand.rejoin_ended (x : Strand)  : (x.rejoin ).ended = x.ended := rfl
@[simp] theorem Strand.rejoin_jset (x : Strand)  : (x.rejoin ).jset = x.jset := rfl
@[simp] theorem Strand.rejoin_parked (x : Strand)  : (x.rejoin ).parked = x.parked := rfl
@[simp] theorem Strand.rejoin_parkPc (x : Strand)  : (x.rejoin ).parkPc = x.parkPc := rfl
@[simp] theorem Strand.rejoin_arrived (x : Strand)  : (x.rejoin ).arrived = x.arrived := rfl
@[simp] theorem Strand.rejoin_barPend (x : Strand)  : (x.rejoin ).barPend = x.barPend := rfl
@[simp] theorem Strand.rejoin_barMark (x : Strand)  : (x.rejoin ).barMark = x.barMark := rfl
@[simp] theorem Strand.rejoin_released (x : Strand)  : (x.rejoin ).released = x.released := rfl
@[simp] theorem Strand.rejoin_snap (x : Strand)  : (x.rejoin ).snap = x.snap := rfl
@[simp] theorem Strand.rejoin_issued (x : Strand)  : (x.rejoin ).issued = x.issued := rfl
@[simp] theorem Strand.rejoin_wait (x : Strand)  : (x.rejoin ).wait = x.wait := rfl
@[simp] theorem Strand.rejoin_waitSeq (x : Strand)  : (x.rejoin ).waitSeq = x.waitSeq := rfl
@[simp] theorem Strand.rejoin_readyAt (x : Strand)  : (x.rejoin ).readyAt = x.readyAt := rfl
@[simp] theorem Strand.rejoin_begun (x : Strand)  : (x.rejoin ).begun = x.begun := rfl

end Sys2Proof.Machine
end

