-- ==== Sys2Proof/Laws/Memory.lean ====
section
/-!
SUPPORT. Laws of memory: the writes of a step keep the canonical form, what a byte reads as after them, and what
ending a step leaves alone.
-/
namespace Sys2Proof.Machine

theorem lastOf_append (k : Nat) (a b : List Host.Cell) :
    lastOf k (a ++ b) = (match lastOf k b with | some x => some x | none => lastOf k a) := by
  induction a with
  | nil => simp [lastOf]; cases lastOf k b <;> rfl
  | cons e a ih =>
    obtain ⟨n, v⟩ := e
    simp only [List.cons_append, lastOf, ih]
    cases lastOf k b <;> simp

/-- A byte of memory after a list of writes: the last one written there, else what it was. -/
theorem tget_applyBus (m b : List Host.Cell) (a : Nat) :
    tget 0 (applyBus m b) a = (lastOf a b).getD (tget 0 m a) := by
  induction b generalizing m with
  | nil => rfl
  | cons e b ih =>
    obtain ⟨n, v⟩ := e
    have h : applyBus m ((n, v) :: b) = applyBus (tput 0 m n v) b := rfl
    rw [h, ih]
    simp only [lastOf, tget_tput]
    cases lastOf a b with
    | some x => rfl
    | none => by_cases hn : n = a <;> simp [hn]

/-- The writes of a step keep memory in canonical form. -/
theorem tcanon_applyBus (m b : List Host.Cell) (h : tcanon (0 : Byte) m = true) :
    tcanon (0 : Byte) (applyBus m b) = true := by
  induction b generalizing m with
  | nil => exact h
  | cons e b ih => exact ih _ (tcanon_tput 0 m e.1 e.2 h)

@[simp] theorem applyBus_nil (m : List Host.Cell) : applyBus m [] = m := rfl

@[simp] theorem commit_mem (s t : State) : (commit s t).mem = applyBus s.mem t.bus := rfl
@[simp] theorem commit_bus (s t : State) : (commit s t).bus = [] := rfl
@[simp] theorem commit_groups (s t : State) : (commit s t).groups = t.groups := rfl
@[simp] theorem commit_cores (s t : State) : (commit s t).cores = t.cores := rfl
@[simp] theorem commit_stackTab (s t : State) : (commit s t).stackTab = t.stackTab := rfl
@[simp] theorem commit_cur (s t : State) : (commit s t).cur = t.cur := rfl
@[simp] theorem commit_ctl (s t : State) : (commit s t).ctl = t.ctl := rfl
@[simp] theorem commit_launches (s t : State) : (commit s t).launches = t.launches := rfl
@[simp] theorem commit_queues (s t : State) : (commit s t).queues = t.queues := rfl
@[simp] theorem commit_teams (s t : State) : (commit s t).teams = t.teams := rfl
@[simp] theorem commit_g (s t : State) : (commit s t).g = t.g := rfl
@[simp] theorem commit_grp (s t : State) (k : Nat) : (commit s t).grp k = t.grp k := rfl
@[simp] theorem commit_core (s t : State) (k : Nat) : (commit s t).core k = t.core k := rfl
@[simp] theorem commit_stack (s t : State) (k : Nat) : (commit s t).stack k = t.stack k := rfl
@[simp] theorem commit_launch (s t : State) (k : Nat) : (commit s t).launch k = t.launch k := rfl
@[simp] theorem commit_queue (s t : State) (k : Nat) : (commit s t).queue k = t.queue k := rfl

/-- A step that writes no memory leaves it as it was. -/
theorem commit_quiet (s t : State) (hb : t.bus = []) (hm : t.mem = s.mem) : commit s t = t := by
  cases t; simp_all [commit]

/-- A byte read after a step is the byte as the step's own writes left it. -/
theorem peek_commit (s t : State) (hm : t.mem = s.mem) (a : Nat) : (commit s t).peek a = t.peek a := by
  show tget 0 (applyBus s.mem t.bus) a = _
  rw [tget_applyBus, ← hm]; rfl

/-- Ending a step establishes the invariant from a canonical memory. -/
theorem commit_inv (s t : State) (h : Safety.Memory.wf s.mem) : Safety.Inv (commit s t) :=
  ⟨tcanon_applyBus _ _ h, rfl⟩

end Sys2Proof.Machine
end

