-- ==== Sys2Proof/Laws/Flow.lean ====
section
/-!
SUPPORT. Laws of moving on: what retiring an instruction changes. A set that is no traveller's, or that stays in its
segment, changes only its strands and the counter of keys.
-/
namespace Sys2Proof.Machine

/-! ## Strands of a group -/

theorem lset_length {α : Type} (l : List α) (n : Nat) (x : α) : (lset l n x).length = l.length := by
  induction l generalizing n with
  | nil => rfl
  | cons a l ih => cases n <;> simp [lset, ih]

theorem lset_getD {α : Type} (l : List α) (n m : Nat) (x d : α) :
    (lset l n x).getD m d = if n = m ∧ m < l.length then x else l.getD m d := by
  induction l generalizing n m with
  | nil => simp [lset]
  | cons a l ih =>
    cases n with
    | zero => cases m <;> simp [lset]
    | succ n =>
      cases m with
      | zero => simp [lset]
      | succ m => simpa [lset] using ih n m

theorem Group.strand_setStrand (g : Group) (k n : Nat) (x : Strand) :
    (g.setStrand k x).strand n = if k = n ∧ n < g.strands.length then x else g.strand n :=
  lset_getD _ _ _ _ _

theorem Group.strand_onStrand (g : Group) (k n : Nat) (f : Strand → Strand) :
    (g.onStrand k f).strand n = if k = n ∧ n < g.strands.length then f (g.strand n) else g.strand n := by
  simp only [Group.onStrand, Group.strand_setStrand]
  split <;> simp_all

@[simp] theorem Group.onStrand_length (g : Group) (k : Nat) (f : Strand → Strand) :
    (g.onStrand k f).strands.length = g.strands.length := lset_length _ _ _

@[simp] theorem Group.setStrand_length (g : Group) (k : Nat) (x : Strand) :
    (g.setStrand k x).strands.length = g.strands.length := lset_length _ _ _

/-- A strand number past the group's strands stands for an ended strand. -/
theorem Group.strand_ge (g : Group) {k : Nat} (h : g.strands.length ≤ k) : g.strand k = { ended := true } := by
  simp [Group.strand, List.getD_eq_getElem?_getD, List.getElem?_eq_none h]

theorem Group.strand_onSet (g : Group) (j k : Nat) (f : Strand → Strand) :
    (g.onSet j f).strand k =
      if (g.strand k).jset = j ∧ (g.strand k).ended = false then f (g.strand k) else g.strand k := by
  by_cases h : k < g.strands.length
  · simp only [Group.strand, Group.onSet, List.getD_eq_getElem?_getD, List.getElem?_map]
    rw [List.getElem?_eq_getElem h]
    simp
  · have h' : g.strands.length ≤ k := by omega
    rw [Group.strand_ge g h', Group.strand_ge]
    · simp
    · simpa [Group.onSet] using h'

@[simp] theorem Group.onSet_length (g : Group) (j : Nat) (f : Strand → Strand) :
    (g.onSet j f).strands.length = g.strands.length := by simp [Group.onSet]

theorem Group.mem_members (g : Group) (j k : Nat) :
    k ∈ g.members j ↔ (g.strand k).jset = j ∧ (g.strand k).ended = false := by
  simp only [Group.members, List.mem_filter, List.mem_range]
  constructor
  · rintro ⟨_, h⟩; simpa using h
  · intro h
    refine ⟨?_, by simpa using h⟩
    by_contra hk
    rw [Group.strand_ge g (by omega)] at h
    simp at h

/-- A change of strands that keeps a group's length and its strands' sets and endings keeps every set's members. -/
theorem Group.members_congr (g h : Group) (j : Nat) (hl : h.strands.length = g.strands.length)
    (hk : ∀ k, (h.strand k).jset = (g.strand k).jset ∧ (h.strand k).ended = (g.strand k).ended) :
    h.members j = g.members j := by
  simp only [Group.members, hl]
  refine List.filter_congr fun k _ => ?_
  rw [(hk k).1, (hk k).2]

/-- A group with the same strands has the same members of a set. -/
theorem Group.members_strands (g h : Group) (j : Nat) (hs : h.strands = g.strands) : h.members j = g.members j :=
  Group.members_congr g h j (by rw [hs]) fun k => by simp [Group.strand, hs]

/-- A fold that changes strand k of each of a list of distinct strands by itself. -/
theorem foldl_onStrand (f : Strand → Strand) (ks : List Nat) (hn : ks.Nodup) (g : Group) :
    let h := ks.foldl (fun g k => g.onStrand k f) g
    h = { g with strands := h.strands } ∧ h.strands.length = g.strands.length ∧
      ∀ k, h.strand k = if k ∈ ks ∧ k < g.strands.length then f (g.strand k) else g.strand k := by
  induction ks generalizing g with
  | nil => simp
  | cons a ks ih =>
    obtain ⟨h1, h2, h3⟩ := ih (List.nodup_cons.mp hn).2 (g.onStrand a f)
    refine ⟨h1, by simpa using h2, fun k => ?_⟩
    have ha : a ∉ ks := (List.nodup_cons.mp hn).1
    simp only [List.foldl_cons, h3 k, Group.onStrand_length, Group.strand_onStrand, List.mem_cons]
    by_cases hk : k = a
    · subst hk; simp [ha]
    · simp [hk, Ne.symm hk]

/-- A fold that sets strands of a list of distinct strands to the values a function gives for their old ones. -/
theorem foldl_setStrand (f : Nat → Strand → Strand) (ks : List Nat) (hn : ks.Nodup) (g : Group) :
    let h := ks.foldl (fun g k => g.setStrand k (f k (g.strand k))) g
    h = { g with strands := h.strands } ∧ h.strands.length = g.strands.length ∧
      ∀ k, h.strand k = if k ∈ ks ∧ k < g.strands.length then f k (g.strand k) else g.strand k := by
  induction ks generalizing g with
  | nil => simp
  | cons a ks ih =>
    obtain ⟨h1, h2, h3⟩ := ih (List.nodup_cons.mp hn).2 (g.setStrand a (f a (g.strand a)))
    refine ⟨h1, by simpa using h2, fun k => ?_⟩
    have ha : a ∉ ks := (List.nodup_cons.mp hn).1
    simp only [List.foldl_cons, h3 k, Group.setStrand_length, Group.strand_setStrand, List.mem_cons]
    by_cases hk : k = a
    · subst hk; simp [ha]
    · simp [hk, Ne.symm hk]

theorem Group.members_nodup (g : Group) (j : Nat) : (g.members j).Nodup := List.nodup_range.filter _

theorem Group.members_lt (g : Group) (j k : Nat) (h : k ∈ g.members j) : k < g.strands.length := by
  simp only [Group.members, List.mem_filter, List.mem_range] at h; exact h.1

/-! ## Parting (R112) -/

/-- Strands as a group's strands after a change of numbers: each strand is what it was but for its joined set, and
one outside the list keeps that too. -/
def Renumbered (g : Group) (ks : List Nat) (X : List Strand) : Prop :=
  X.length = g.strands.length ∧ ∀ k, ∃ j, X.getD k { ended := true } = { g.strand k with jset := j } ∧
    (k ∉ ks → j = (g.strand k).jset)

theorem renumbered_self (g : Group) (ks : List Nat) : Renumbered g ks g.strands :=
  ⟨rfl, fun k => ⟨(g.strand k).jset, rfl, fun _ => rfl⟩⟩

/-- Changing a group just listed lists the changed one. -/
theorem setGrp_onGrp (s : State) (gk n : Nat) (g : Group) (F : Group → Group) :
    ({ s.setGrp gk g with nextKey := n } : State).onGrp gk F =
      { s with nextKey := n, groups := tset s.groups gk (F g) } := by
  simp only [State.onGrp, State.setGrp, State.grp, tset_tset, tget_tset_self]

/-- Parting a set changes the numbers of its strands' joined sets and the counter of keys, and nothing else. -/
theorem part_shape (s : State) (gk j : Nat) (g : Group) : ∃ X n,
    (s.setGrp gk g).part gk j =
      { s with nextKey := n, groups := tset s.groups gk { g with strands := X } } ∧
    Renumbered g (g.members j) X := by
  unfold State.part
  simp only [State.grp_setGrp_self]
  generalize List.foldl (fun (a : List DWord) k => _) [] (g.members j) = others
  split
  · exact ⟨g.strands, s.nextKey, rfl, renumbered_self _ _⟩
  · generalize hf : (fun x : Strand => match List.idxOf? x.pc others with
      | some i => ({ x with jset := s.nextKey + i } : Strand)
      | none => x) = f
    obtain ⟨h1, h2, h3⟩ := foldl_onStrand f (g.members j) (g.members_nodup j) g
    refine ⟨((g.members j).foldl (fun g k => g.onStrand k f) g).strands, s.nextKey + others.length, ?_, h2, fun k => ?_⟩
    · rw [← h1, ← hf]
      exact setGrp_onGrp s gk _ g _
    · have h4 := h3 k
      rw [Group.strand] at h4
      rw [h4]
      split
      · rw [← hf]
        dsimp only
        split
        · exact ⟨_, rfl, fun hn => absurd ‹_ ∧ _›.1 hn⟩
        · exact ⟨_, rfl, fun _ => rfl⟩
      · exact ⟨_, rfl, fun _ => rfl⟩

/-! ## Retiring (R112, R411) -/

theorem Strand.pass_kept (x : Strand) (w : Nat) : (x.pass w).jset = x.jset ∧ (x.pass w).ended = x.ended := by
  have hr : ∀ y : Strand, y.rejoin.jset = y.jset ∧ y.rejoin.ended = y.ended := fun y => ⟨rfl, rfl⟩
  have hl : ∀ (ls : List Nat) (y : Strand), (y.loopEnd ls).jset = y.jset ∧ (y.loopEnd ls).ended = y.ended := by
    intro ls
    induction ls with
    | nil => intro y; exact ⟨rfl, rfl⟩
    | cons k ls ih =>
      intro y
      simp only [Strand.loopEnd]
      split
      · split
        · exact ⟨rfl, rfl⟩
        · have := ih (y.setLoop k { y.loop k with count := (y.loop k).count - 1 })
          exact ⟨this.1.trans rfl, this.2.trans rfl⟩
      · exact ih y
  have := hl [2, 1, 0] ({ x with pc := seqNext x.pc w } : Strand).rejoin
  exact ⟨this.1.trans rfl, this.2.trans rfl⟩

/-- A set that need not leave its core does not depart. -/
theorem departure_stays {s : State} {x : Strand} (h : Safety.StaysAt s x) : s.departure x = none := by
  unfold State.departure
  cases ht : s.g.trav with
  | none => simp [ht]
  | some tr =>
    rcases h tr ht with h | h | h
    · simp [h]
    · simp [h]
    · cases hh : (s.core s.g.core).holder <;> simp only [hh] at h ⊢ <;> split <;> simp

/-- Retiring a set that stays on its core changes its strands' places and numbers, and nothing else. -/
theorem retire_shape (s0 s1 : State) (x : Strand) (h : Safety.StaysAt s0 x)
    (hx : (s1.grp s0.gk).trav = none ∨ (x.pc = ((s1.grp s0.gk).strand 0).pc ∧ x.handler = ((s1.grp s0.gk).strand 0).handler ∧
      x.ended = ((s1.grp s0.gk).strand 0).ended)) : ∃ X n,
    s0.retire s1 = { s1 with nextKey := n, groups := tset s1.groups s0.gk { s1.grp s0.gk with strands := X } } ∧
    Safety.Went (s1.grp s0.gk) { s1.grp s0.gk with strands := X } ((s1.grp s0.gk).members s0.cur.jset)
      (fun _ x => x) := by
  unfold State.retire
  set gk := s0.gk
  set j := s0.cur.jset
  set g := s1.grp gk with hg
  simp only
  set step := s1.nowAt g.core g.part
  set g2 := g.onSet j fun x => x.next step with hg2
  have hs2 : (s1.onGrp gk fun g => g.onSet j fun x => x.next step) = s1.setGrp gk g2 := rfl
  rw [hs2]
  have hst : ∀ k, g2.strand k = if k ∈ g.members j then (g.strand k).next step else g.strand k := by
    intro k; rw [hg2, Group.strand_onSet]; simp only [Group.mem_members]
  have hm : g2.members j = g.members j := by
    refine Group.members_congr _ _ _ (by simp [hg2]) fun k => ?_
    rw [hst]; split <;> simp
  -- the strands as they stand without a parting
  have stay : Safety.Went g { g with strands := g2.strands } (g.members j) fun _ x => x := by
    refine ⟨by simp [hg2], fun k => ?_⟩
    have : ({ g with strands := g2.strands } : Group).strand k = g2.strand k := rfl
    rw [this, hst]
    split
    · exact ⟨(g.strand k).jset, step, rfl⟩
    · rfl
  have here : s1.setGrp gk g2 =
      { s1 with nextKey := s1.nextKey, groups := tset s1.groups gk { g with strands := g2.strands } } := rfl
  cases ht : g.trav with
  | none =>
    obtain ⟨X, n, h1, h2, h3⟩ := part_shape s1 gk j g2
    refine ⟨X, n, ?_, ?_⟩
    · show (s1.setGrp gk g2).part gk j = _
      have hn : g2.trav = none := ht
      rw [h1]
      simp only [hn]
      rfl
    · refine ⟨by simpa [hg2] using h2, fun k => ?_⟩
      obtain ⟨j', h4, h5⟩ := h3 k
      have h6 : ({ g with strands := X } : Group).strand k = { g2.strand k with jset := j' } := h4
      split
      · rename_i hk
        refine ⟨j', step, h6.trans ?_⟩
        rw [hst, if_pos hk]; rfl
      · rename_i hk
        refine h6.trans ?_
        rw [h5 (by rwa [hm]), hst, if_neg hk]
  | some tr =>
    refine ⟨g2.strands, s1.nextKey, ?_, stay⟩
    rw [show ({ g with strands := g2.strands } : Group) = { g with strands := g2.strands, trav := some tr } by
      rw [← ht]] at here
    refine Eq.trans ?_ here
    rw [ht] at hx
    have e1 : ((s1.setGrp gk g2).grp gk).strand 0 = g2.strand 0 := by simp
    obtain ⟨h1, h2, h3⟩ := hx.resolve_left (by simp)
    have e2 : (g2.strand 0).handler = x.handler := by rw [hst, h2]; split <;> simp
    have e3 : (g2.strand 0).ended = x.ended := by rw [hst, h3]; split <;> simp
    have e4 : (g2.strand 0).pc = x.pc := by rw [hst, h1]; split <;> simp
    have stays : Safety.StaysAt s0 (g2.strand 0) := by
      intro tr htr
      rw [e2, e3, e4]
      exact h tr htr
    rw [e1, departure_stays stays]

/-- Passing an instruction and retiring it, for a set that stays on its core. -/
theorem done_shape (s s1 : State) (w : Nat) (hc : s1.cur = s.cur)
    (ha : (s1.grp s.gk).strands = s.g.strands) (h : Safety.Stays s w) : ∃ X n,
    s.done s1 w = { s1 with nextKey := n, groups := tset s1.groups s.gk { s1.grp s.gk with strands := X } } ∧
    Safety.Went (s1.grp s.gk) { s1.grp s.gk with strands := X } ((s1.grp s.gk).members s.cur.jset)
      (fun _ x => x.pass w) := by
  unfold State.done
  have hs : (s1.onSet fun x => x.pass w) = s1.setGrp s.gk ((s1.grp s.gk).onSet s.cur.jset fun x => x.pass w) := by
    simp only [State.onSet, State.onG, State.onGrp, hc]; rfl
  rw [hs]
  set g := s1.grp s.gk
  set g2 := g.onSet s.cur.jset fun x => x.pass w with hg2
  have hm : g2.members s.cur.jset = g.members s.cur.jset := by
    refine Group.members_congr _ _ _ (by simp [hg2]) fun k => ?_
    rw [hg2, Group.strand_onSet]; split <;> simp [Strand.pass_kept]
  have e0 : (s.g.onSet s.cur.jset fun x => x.pass w).strand 0 = g2.strand 0 := by
    simp only [hg2, Group.strand, Group.onSet]
    rw [show g.strands = s.g.strands from ha]
  obtain ⟨X, n, h1, h2, h3⟩ := retire_shape s (s1.setGrp s.gk g2) _ h
    (by rw [State.grp_setGrp_self, e0]; exact .inr ⟨rfl, rfl, rfl⟩)
  simp only [State.grp_setGrp_self] at h1 h2 h3
  refine ⟨X, n, ?_, ?_⟩
  · rw [h1]
    simp only [State.setGrp, tset_tset]
    rfl
  · rw [hm] at h3
    refine ⟨h2.trans (by simp [hg2]), fun k => ?_⟩
    have h4 := h3 k
    split
    · rename_i hk
      rw [if_pos hk] at h4
      obtain ⟨j, n, h5⟩ := h4
      refine ⟨j, n, h5.trans ?_⟩
      rw [hg2, Group.strand_onSet, if_pos ((Group.mem_members _ _ _).mp hk)]
    · rename_i hk
      rw [if_neg hk] at h4
      refine h4.trans ?_
      rw [hg2, Group.strand_onSet, if_neg (fun hh => hk ((Group.mem_members _ _ _).mpr hh))]

/-- A change of the issuing group alone, passed and retired: what a claim says of it. -/
theorem done_passes (s : State) (w : Nat) (act : Group → Group) (hb : s.bus = []) (hs : Safety.Stays s w)
    (ha : (act s.g).strands = s.g.strands) :
    Safety.Passes s (commit s (s.done (s.onG act) w)) w act := by
  have e1 : (s.onG act).grp s.gk = act s.g := State.grp_onGrp_self _ _ _
  obtain ⟨X, n, h1, h2, h3⟩ := done_shape s (s.onG act) w rfl (by rw [e1]; exact ha) hs
  rw [e1] at h1 h2 h3
  rw [Group.members_strands _ _ _ ha] at h3
  rw [h1]
  have e5 : ∀ k, (act s.g).strand k = s.g.strand k := fun k => by simp [Group.strand, ha]
  have e6 : (commit s { s.onG act with nextKey := n, groups := tset (s.onG act).groups s.gk { act s.g with strands := X } }).g
      = { act s.g with strands := X } := by
    simp only [State.g, State.grp, commit]; exact tget_tset_self _ _ _ _
  refine ⟨⟨?_, ?_⟩, ?_, ?_⟩
  · cases s; simp_all [commit]
  · intro k hk
    simp only [commit, State.onG, State.onGrp, State.setGrp]
    rw [tfind_tset_ne _ _ (by exact fun h => hk h.symm), tfind_tset_ne _ _ (by exact fun h => hk h.symm)]
  · unfold Safety.GroupIs; rw [e6]
  · rw [e6]
    refine ⟨h2.trans (by rw [ha]), fun k => ?_⟩
    have := h3 k
    simp only [e5] at this
    exact this

end Sys2Proof.Machine
end

