-- ==== Sys2Proof/Laws/Operands.lean ====
section
/-!
SUPPORT. Laws of operands: what writing a register does to reads of it, and what an instruction whose operands
are allowed comes to.
-/
namespace Sys2Proof.Machine
open Sys2Proof.Safety

/-! ## Registers of a group -/

theorem Group.sr_putS (g : Group) (i k : Nat) (x : DWord) : (g.putS i x).sr k = if i = k then x else g.sr k := by
  simp only [Group.sr, Group.putS]; exact tget_tput _ _ _ _ _

theorem Group.vr_putV (g : Group) (r l r' l' : Nat) (x : Word) :
    (g.putV r l x).vr r' l' = if 64 * r + l = 64 * r' + l' then x else g.vr r' l' := by
  simp only [Group.vr, Group.putV]; exact tget_tput _ _ _ _ _

/-! ## Traps of the issuing set (R210, R211) -/

/-- The issuing group with its set in the handler. -/
def trapGroup (s : State) (x : Trap) : Group :=
  s.ks.foldl (fun g k => g.onStrand k fun y =>
    y.enter x s.lau.lrec.handler (s.nowAt s.g.core s.g.part)) s.g

theorem trapStops_iff (s : State) (x : Trap) : TrapStops s x ↔
    (s.lau.lrec.handler = 0 ∨ s.ks.any (fun k => (s.g.strand k).handler) = true ∨ x.cause = 0x15 ∨ x.cause = 0x3F) := by
  simp [TrapStops, TrapStopsIn, List.any_eq_true]

/-- Strands with the accesses they had begun given up. -/
def endBegun (ks : List Nat) (g : Group) : Group := ks.foldl (fun g k => g.onStrand k fun y => { y with begun := none }) g

theorem trap_stops (s : State) (x : Trap) (h : TrapStops s x) :
    s.trap x = (s.onGrp s.gk (endBegun s.ks)).stopLaunch s.g.launch { stopRecord s s.leadK x with launch := 0, seq := 0 } :=
  if_pos ((trapStops_iff s x).mp h)

theorem trap_enters (s : State) (x : Trap) (h : ¬ TrapStops s x) : s.trap x = s.setGrp s.gk (trapGroup s x) :=
  if_neg (fun e => h ((trapStops_iff s x).mpr e))

/-- The strands of the issuing set in their handler, and no other change of the group. -/
theorem trapGroup_shape (s : State) (x : Trap) :
    { trapGroup s x with strands := s.g.strands } = s.g ∧ (trapGroup s x).strands.length = s.g.strands.length ∧
    ∀ k, if k ∈ s.ks then Entered (s.g.strand k) ((trapGroup s x).strand k) x s.lau.lrec.handler
      else (trapGroup s x).strand k = s.g.strand k := by
  obtain ⟨h1, h2, h3⟩ := foldl_onStrand (fun y => y.enter x s.lau.lrec.handler
    (s.nowAt s.g.core s.g.part)) s.ks (s.g.members_nodup _) s.g
  refine ⟨?_, h2, fun k => ?_⟩
  · rw [trapGroup, h1]
  · have h4 := h3 k
    split
    · rename_i hk
      rw [if_pos ⟨hk, Group.members_lt _ _ _ hk⟩] at h4
      rw [trapGroup, h4]
      exact ⟨rfl, rfl, rfl, rfl, rfl, rfl, rfl, rfl, rfl, rfl, rfl, rfl, rfl, rfl, rfl, rfl⟩
    · rename_i hk
      rw [if_neg fun e => hk e.1] at h4
      exact h4

/-- Stopping a launch drops its teams at the stack dispatchers. -/
theorem offers_dropped (s : State) (id : Nat) (f : FaultRec) : OffersDropped s (s.stopLaunch id f) id :=
  fun n => tfind_map (fun k : Stack => k.dropOffers id) s.stackTab n

/-- Giving up accesses changes no more than that. -/
theorem endBegun_shape (ks : List Nat) (hn : ks.Nodup) (g : Group) :
    endBegun ks g = { g with strands := (endBegun ks g).strands } ∧ (endBegun ks g).strands.length = g.strands.length ∧
    ∀ k, (endBegun ks g).strand k = { g.strand k with begun := ((endBegun ks g).strand k).begun } := by
  obtain ⟨h1, h2, h3⟩ := foldl_onStrand (fun y => { y with begun := none }) ks hn g
  refine ⟨h1, h2, fun k => ?_⟩
  have h4 : (endBegun ks g).strand k = _ := h3 k
  rw [h4]; split <;> rfl

/-- Stopping the launch of s's issuing set in a state u that differs from s in groups alone, as the effect of a step to t. -/
theorem stop_stopped (s u t : State) (f : FaultRec) (hu : { u with groups := s.groups, nextKey := s.nextKey } = s)
    (ht : { u.stopLaunch s.g.launch f with groups := t.groups } = t) (hl : t.g.launch = s.g.launch) :
    { t with launches := s.launches, stackTab := s.stackTab, groups := s.groups, nextKey := s.nextKey } = s ∧
      Stopped s t { f with launch := s.g.launch, seq := s.lau.lrec.seq } := by
  have e1 : u.launches = s.launches := by rw [← hu]
  have e2 : u.stackTab = s.stackTab := by rw [← hu]
  have e3 : t.launches = (u.stopLaunch s.g.launch f).launches := by rw [← ht]
  have e4 : t.stackTab = (u.stopLaunch s.g.launch f).stackTab := by rw [← ht]
  have hlau : u.launch s.g.launch = s.lau := by simp only [State.launch, State.lau, e1]
  have hl2 : t.lau =
      (match s.lau.stop with
        | none => { s.lau with stop := some { f with launch := s.g.launch, seq := s.lau.lrec.seq } }
        | some r => { s.lau with stop := some { r with count := if r.count = 0xFFFFFFFF then r.count else r.count + 1 } }) := by
    rw [State.lau, hl, State.launch, e3, ← hlau]
    exact tget_tset_self _ _ _ _
  refine ⟨?_, fun n => ?_, fun n hn => ?_, ?_, fun hn => ?_⟩
  · rw [← ht, ← hu]; rfl
  · rw [e4, ← e2]; exact offers_dropped u _ f n
  · rw [e3, ← e1]; exact tfind_tset_ne _ _ (fun e => hn e.symm)
  · rw [hl2]; cases hst : s.lau.stop <;> simp [← hst]
  · rw [hl2, hn]

/-- A trap of the issuing set: it enters its handler, or its launch stops. -/
theorem trap_takes (s : State) (x : Trap) (hb : s.bus = []) : TakesTrap s (commit s (s.trap x)) x := by
  by_cases h : TrapStops s x
  · obtain ⟨a1, a2, a3⟩ := endBegun_shape s.ks (s.g.members_nodup _) s.g
    rw [trap_stops s x h, commit_quiet s _ (show (State.stopLaunch (s.onGrp _ _) _ _).bus = [] from hb) rfl]
    set t := (s.onGrp s.gk (endBegun s.ks)).stopLaunch s.g.launch { stopRecord s s.leadK x with launch := 0, seq := 0 } with ht
    have eg : t.g = endBegun s.ks s.g := tget_tset_self _ _ _ _
    obtain ⟨h1, h2⟩ := stop_stopped s (s.onGrp s.gk (endBegun s.ks)) t { stopRecord s s.leadK x with launch := 0, seq := 0 }
      rfl rfl (by rw [eg, a1])
    refine ⟨fun k hk => tfind_tset_ne _ _ (fun e => hk e.symm), ?_, by rw [eg, a2], fun _ => ⟨h1, h2, fun k => ?_⟩,
      fun hn => absurd h hn⟩
    · unfold GroupIs; rw [eg, a1]; rfl
    · rw [eg, a3 k]
  · rw [trap_enters s x h, commit_quiet s (s.setGrp s.gk (trapGroup s x)) hb rfl]
    have eg : (s.setGrp s.gk (trapGroup s x)).g = trapGroup s x := tget_tset_self _ _ _ _
    obtain ⟨h1, h2, h3⟩ := trapGroup_shape s x
    refine ⟨fun k hk => tfind_tset_ne _ _ (fun e => hk e.symm), ?_, by rw [eg, h2], fun hs => absurd hs h,
      fun _ => ⟨rfl, fun k => by rw [eg]; exact h3 k⟩⟩
    unfold GroupIs; rw [eg, h1]; rfl

/-! ## Traps that arise in lanes (R210, log 5) -/

/-- The strands that take a lane's trap are some of the issuing set, in its order. -/
theorem trapping_sublist (s : State) (bad : List (Nat × Trap)) : (s.trapping bad).Sublist s.ks := by
  unfold State.trapping
  split
  · exact List.nil_sublist _
  · dsimp only
    split
    · exact List.Sublist.refl _
    · split
      · exact List.Sublist.refl _
      · exact List.filter_sublist

/-- Traps that arise in lanes: the strands that `trapping` names take the first lane's trap together, and nothing else happens. -/
theorem trapLanes_takes (s : State) (l : Nat) (x : Trap) (rest : List (Nat × Trap)) (hb : s.bus = []) :
    TakesTrapIn s (commit s (s.trapLanes ((l, x) :: rest))) (s.trapping ((l, x) :: rest)) x := by
  have hsub := trapping_sublist s ((l, x) :: rest)
  simp only [State.trapLanes]
  generalize s.trapping ((l, x) :: rest) = ks at hsub ⊢
  by_cases hk : ks = s.ks
  · simp only [TakesTrapIn, hk, if_true]
    exact trap_takes s x hb
  · have hn : ks.Nodup := hsub.nodup (s.g.members_nodup _)
    have hstop : TrapStopsIn s ks x ↔ (s.lau.lrec.handler = 0 ∨ ks.any (fun k => (s.g.strand k).handler) = true ∨
        x.cause = 0x15 ∨ x.cause = 0x3F) := by simp [TrapStopsIn, List.any_eq_true]
    have hbus : ∀ (u : State) (f : Strand → Strand), u.bus = [] → (u.onSet f).bus = [] := fun _ _ h => h
    have hkeep : ∀ (g : Group) (j k : Nat), { (g.onSet j fun y => { y with begun := none }).strand k with
        begun := (g.strand k).begun } = g.strand k := by
      intro g j k; rw [Group.strand_onSet]; split <;> rfl
    simp only [TakesTrapIn, hk, if_false]
    obtain ⟨a1, a2, a3⟩ := foldl_onStrand (fun y => { y with jset := s.nextKey }) ks hn s.g
    set g1 := ks.foldl (fun g k => g.onStrand k fun y => { y with jset := s.nextKey }) s.g with hg1
    have e1 : (s.setApart s.gk ks).grp s.gk = g1 := tget_tset_self _ _ _ _
    by_cases hs : TrapStopsIn s ks x
    · obtain ⟨b1, b2, b3⟩ := endBegun_shape ks hn g1
      have e : s.takeTrap s.gk ks x true = ((s.setApart s.gk ks).onGrp s.gk (endBegun ks)).stopLaunch s.g.launch
          { stopRecord s (ks.headD 0) x with launch := 0, seq := 0 } := if_pos (hstop.mp hs)
      rw [e, commit_quiet s _ (hbus (State.stopLaunch (State.onGrp (s.setApart s.gk ks) _ _) _ _) _ hb) rfl]
      set w := ((s.setApart s.gk ks).onGrp s.gk (endBegun ks)).stopLaunch s.g.launch
          { stopRecord s (ks.headD 0) x with launch := 0, seq := 0 } with hw
      have eg : w.g = endBegun ks g1 := by
        refine (tget_tset_self _ _ _ _).trans ?_
        rw [e1]
      have hlen : w.g.strands.length = s.g.strands.length := by rw [eg, b2, a2]
      have hgi : GroupIs s (w.onSet fun y => { y with begun := none }) id := by
        simp only [GroupIs, State.g_onSet, eg]; rw [b1, a1]; rfl
      obtain ⟨h1, h2⟩ := stop_stopped s ((s.setApart s.gk ks).onGrp s.gk (endBegun ks)) (w.onSet fun y => { y with begun := none })
        { stopRecord s (ks.headD 0) x with launch := 0, seq := 0 } rfl rfl (by have := congrArg Group.launch hgi; exact this)
      refine ⟨fun k hk => (tfind_tset_ne _ _ (fun e => hk e.symm)).trans ((tfind_tset_ne _ _ (fun e => hk e.symm)).trans
        (tfind_tset_ne _ _ (fun e => hk e.symm))), hgi, ?_, rfl, fun k hkk => ?_, fun _ => ⟨h1, h2, fun k hkk => ?_⟩,
        fun h => absurd hs h⟩
      · simp only [State.g_onSet, Group.onSet_length, hlen]
      · have h4 := a3 k
        rw [if_neg fun e => hkk e.1] at h4
        simp only [State.g_onSet, eg]
        rw [← h4, Group.strand_onSet, b3 k]; split <;> rfl
      · have hlt := Group.members_lt _ _ _ (hsub.subset hkk)
        have h4 := a3 k
        rw [if_pos ⟨hkk, hlt⟩] at h4
        simp only [State.g_onSet, eg]
        rw [← h4, Group.strand_onSet, b3 k, h4]; split <;> rfl
    · have e : s.takeTrap s.gk ks x true = ((s.setApart s.gk ks).onGrp s.gk fun g => ks.foldl (fun g k => g.onStrand k fun y =>
          y.enter x s.lau.lrec.handler ((s.setApart s.gk ks).nowAt s.g.core s.g.part)) g) := if_neg (fun h => hs (hstop.mpr h))
      obtain ⟨b1, b2, b3⟩ := foldl_onStrand (fun y => y.enter x s.lau.lrec.handler (s.nowAt s.g.core s.g.part)) ks hn g1
      set g2 := ks.foldl (fun g k => g.onStrand k fun y => y.enter x s.lau.lrec.handler (s.nowAt s.g.core s.g.part)) g1 with hg2
      rw [e, commit_quiet s _ (hbus (State.onGrp (s.setApart s.gk ks) _ _) _ hb) rfl]
      have eg : ((s.setApart s.gk ks).onGrp s.gk fun g => ks.foldl (fun g k => g.onStrand k fun y =>
          y.enter x s.lau.lrec.handler ((s.setApart s.gk ks).nowAt s.g.core s.g.part)) g).g = g2 := by
        refine (tget_tset_self _ _ _ _).trans ?_
        rw [e1]; rfl
      refine ⟨fun k hk => (tfind_tset_ne _ _ (fun e => hk e.symm)).trans ((tfind_tset_ne _ _ (fun e => hk e.symm)).trans
        (tfind_tset_ne _ _ (fun e => hk e.symm))), ?_, ?_, rfl, fun k hkk => ?_, fun h => absurd h hs, fun _ => ⟨rfl, fun k hkk => ?_⟩⟩
      · simp only [GroupIs, State.g_onSet, eg]; rw [b1, a1]; rfl
      · simp only [State.g_onSet, Group.onSet_length, eg, b2, a2]
      · have h3 := b3 k; have h4 := a3 k
        rw [if_neg fun e => hkk e.1] at h3 h4
        simp only [State.g_onSet, eg]
        rw [← h4, ← h3]; exact hkeep g2 _ k
      · have hlt := Group.members_lt _ _ _ (hsub.subset hkk)
        have h3 := b3 k; have h4 := a3 k
        rw [if_pos ⟨hkk, hlt⟩] at h4
        rw [if_pos ⟨hkk, a2 ▸ hlt⟩, h4] at h3
        simp only [State.g_onSet, eg]
        rw [Group.strand_onSet]
        rw [h3]
        split <;> exact ⟨rfl, rfl, rfl, rfl, rfl, rfl, rfl, rfl, rfl, rfl, rfl, rfl, rfl, rfl, rfl, rfl⟩

/-! ## Scalar instructions -/

/-- A scalar instruction whose codes are allowed writes its destination and passes. -/
theorem scalarOp_passes (s : State) (rs : List Reg) (d : Reg) (x : DWord) (w : Nat) (hr : ScalarCodes s (d :: rs))
    (hb : s.bus = []) (hs : Stays s w) :
    Passes s (commit s (s.scalarOp rs d x w)) w (fun g => g.putS (regIdx d) x) := by
  have h : (d :: rs).any s.badS = false := by
    simp only [List.any_eq_false]
    intro r hrm
    obtain ⟨k, rfl, hk⟩ := hr r hrm
    simp [State.badS, hk]
  simp only [State.scalarOp, State.withScalars, h, Bool.false_eq_true, if_false, State.wrS]
  exact done_passes s w _ hb hs rfl

/-- A scalar instruction with another code where an s code must stand raises 0x03 (R21, R402). -/
theorem scalarOp_traps (s : State) (rs : List Reg) (d : Reg) (x : DWord) (w : Nat)
    (h : (d :: rs).any s.badS = true) : s.scalarOp rs d x w = s.trap { cause := 0x03 } := by
  simp only [State.scalarOp, State.withScalars, h, if_true]

/-! ## Lane instructions -/

theorem onG_onG (s : State) (f h : Group → Group) : (s.onG f).onG h = s.onG fun g => h (f g) := by
  simp only [State.onG, State.onGrp, State.setGrp, State.grp, tset_tset, tget_tset_self]

/-- The active lanes depend on a group's width, strands and predicates alone. -/
theorem lanes_onG (s : State) (f : Group → Group) (hw : (f s.g).width = s.g.width)
    (hs : (f s.g).strands = s.g.strands) (hp : (f s.g).p = s.g.p) : (s.onG f).lanes = s.lanes := by
  have hg : (s.onG f).g = f s.g := State.g_onG s f
  have hst : ∀ k, (f s.g).strand k = s.g.strand k := fun k => by simp [Group.strand, hs]
  have hks : (s.onG f).ks = s.ks := by
    simp only [State.ks, hg]
    exact Group.members_strands _ _ _ hs
  unfold State.lanes
  rw [hg]
  have hl : (f s.g).laneNos = s.g.laneNos := by simp [Group.laneNos, hw]
  rw [hl]
  refine List.filter_congr fun l _ => ?_
  simp only [State.active, State.running, hg, hst, hks, Group.pr, hp]

theorem mem_lanes_lt {s : State} {l : Nat} (h : l ∈ s.lanes) : l < 64 := by
  simp only [State.lanes, Group.laneNos, List.mem_filter, List.mem_range] at h; omega

theorem lanes_nodup (s : State) : s.lanes.Nodup := List.nodup_range.filter _

/-! What a fold over lanes leaves alone. -/

theorem foldl_keeps {α β γ : Type} (f : α → β → α) (p : α → γ) (h : ∀ a b, p (f a b) = p a) (l : List β) (a : α) :
    p (l.foldl f a) = p a := by
  induction l generalizing a with
  | nil => rfl
  | cons b l ih => rw [List.foldl_cons, ih, h]

theorem popQueues_shape (g : Group) (ls : List Nat) (pops : List (Nat × Nat)) :
    g.popQueues ls pops = { g with fifo := (g.popQueues ls pops).fifo } := by
  unfold Group.popQueues
  induction pops generalizing g with
  | nil => rfl
  | cons e pops ih =>
    rw [List.foldl_cons, ih]
    have : ∀ g : Group, (ls.foldl (fun g l => g.setQueued e.1 l ((g.queued e.1 l).drop e.2)) g) =
        { g with fifo := (ls.foldl (fun g l => g.setQueued e.1 l ((g.queued e.1 l).drop e.2)) g).fifo } := by
      clear ih
      induction ls with
      | nil => intro g; rfl
      | cons l ls ih2 => intro g; rw [List.foldl_cons, ih2]; rfl
    rw [this g]

theorem drawn_shape (g : Group) (l n : Nat) : g.drawn l n = { g with srg := (g.drawn l n).srg } := by
  unfold Group.drawn; split <;> rfl

theorem gen_drawn (g : Group) (l n m : Nat) :
    (g.drawn l n).gen m = if l = m then (srgDraws (g.gen l) n).getLastD (g.gen l) else g.gen m := by
  unfold Group.drawn
  cases h : (srgDraws (g.gen l) n).getLast? with
  | none =>
    have : srgDraws (g.gen l) n = [] := by simpa using h
    simp only [this]
    split <;> simp_all [List.getLastD]
  | some x =>
    simp only [Group.gen, tget_tset]
    have : (srgDraws (g.gen l) n).getLastD (g.gen l) = x := by
      rw [List.getLastD_eq_getLast?, h]; rfl
    simp only [Group.gen] at this
    rw [this]

theorem shape_v {g h : Group} {v : Table Word} {b : List Nat} (e : h = { g with v := v, bad := b })
    (x : Table Word) (y : List Nat) : ({ h with v := x, bad := y } : Group) = { g with v := x, bad := y } := by
  subst e; rfl

theorem shape_srg {g h : Group} {v : Table Word} (e : h = { g with srg := v }) (x : Table Word) :
    ({ h with srg := x } : Group) = { g with srg := x } := by
  subst e; rfl

theorem drawLanes_shape (g : Group) (ls : List Nat) (n : Nat) (hn : ls.Nodup) :
    let h := ls.foldl (fun g l => g.drawn l n) g
    h = { g with srg := h.srg } ∧
    ∀ m, h.gen m = if m ∈ ls then (srgDraws (g.gen m) n).getLastD (g.gen m) else g.gen m := by
  induction ls generalizing g with
  | nil => simp
  | cons l ls ih =>
    obtain ⟨h1, h2⟩ := ih (g.drawn l n) (List.nodup_cons.mp hn).2
    have hl : l ∉ ls := (List.nodup_cons.mp hn).1
    simp only [List.foldl_cons]
    refine ⟨h1.trans (shape_srg (drawn_shape g l n) _), fun m => ?_⟩
    rw [h2 m]
    simp only [gen_drawn, List.mem_cons]
    by_cases hm : m = l
    · subst hm; simp [hl]
    · simp [hm, Ne.symm hm]

theorem putWords_shape (g : Group) (i l : Nat) (ws : List Word) :
    g.putWords i l ws = { g with v := (g.putWords i l ws).v, bad := (g.putWords i l ws).bad } ∧
    ∀ e ∈ (g.putWords i l ws).bad, e ∈ g.bad := by
  induction ws generalizing g i with
  | nil => exact ⟨rfl, fun e he => he⟩
  | cons w ws ih =>
    obtain ⟨h1, h2⟩ := ih (g.putV i l w) (i + 1)
    refine ⟨h1.trans rfl, fun e he => ?_⟩
    exact List.mem_of_mem_filter (h2 e he)

/-- What the words written from register i up in one lane read as. -/
theorem vr_putWords (g : Group) (i l : Nat) (ws : List Word) (r m : Nat) (hl : l < 64) (hm : m < 64) :
    (g.putWords i l ws).vr r m = if m = l ∧ i ≤ r then ws[r - i]?.getD (g.vr r m) else g.vr r m := by
  induction ws generalizing g i with
  | nil => simp [Group.putWords]
  | cons w ws ih =>
    simp only [Group.putWords]
    rw [ih, Group.vr_putV]
    by_cases h : m = l
    · subst h
      by_cases h2 : r = i
      · subst h2; simp
      · have : ¬ (64 * i + m = 64 * r + m) := by omega
        by_cases h3 : i ≤ r
        · have h4 : i + 1 ≤ r := by omega
          have h5 : r - i = (r - (i + 1)) + 1 := by omega
          simp [h3, h4, h5, Ne.symm h2]
        · simp [h3, Ne.symm h2, show ¬ i + 1 ≤ r by omega]
    · have : ¬ (64 * i + l = 64 * r + m) := by omega
      simp [h, this]

theorem putLanes_shape (g : Group) (i : Nat) (rs : List (Nat × List Word)) (hn : (rs.map (·.1)).Nodup)
    (hl : ∀ e ∈ rs, e.1 < 64) :
    let h := rs.foldl (fun g r => g.putWords i r.1 r.2) g
    h = { g with v := h.v, bad := h.bad } ∧ (∀ e ∈ h.bad, e ∈ g.bad) ∧
    ∀ r l, l < 64 → h.vr r l =
      ((rs.find? fun e => e.1 == l).bind fun e => if i ≤ r then e.2[r - i]? else none).getD (g.vr r l) := by
  induction rs generalizing g with
  | nil => exact ⟨rfl, fun e he => he, fun r l _ => rfl⟩
  | cons x rs ih =>
    obtain ⟨h1, h2, h3⟩ := ih (g.putWords i x.1 x.2) (List.nodup_cons.mp (by simpa using hn)).2
      (fun e he => hl e (by simp [he]))
    have hx : x.1 ∉ rs.map (·.1) := (List.nodup_cons.mp (by simpa using hn)).1
    obtain ⟨s1, s2⟩ := putWords_shape g i x.1 x.2
    refine ⟨h1.trans (shape_v s1 _ _), fun e he => s2 e (h2 e he), fun r l hll => ?_⟩
    simp only [List.foldl_cons] at h3 ⊢
    rw [h3 r l hll, vr_putWords _ _ _ _ _ _ (hl x (by simp)) hll]
    by_cases hxl : x.1 = l
    · have hnone : rs.find? (fun e => e.1 == l) = none := by
        rw [List.find?_eq_none]
        intro e he hel
        exact hx (by rw [hxl, ← (by simpa using hel : e.1 = l)]; exact List.mem_map_of_mem he)
      simp only [hnone, List.find?_cons, hxl, beq_self_eq_true, Option.bind_none, Option.getD_none, true_and,
        Option.bind_some]
      split <;> simp
    · have hb : (x.1 == l) = false := by simpa using hxl
      simp only [List.find?_cons, hb]
      have : ¬ (l = x.1 ∧ i ≤ r) := fun e => hxl e.1.symm
      rw [if_neg this]

/-- Pops, then draws, then writes: what the last group shares with the first. -/
theorem chain_shape {g P D L : Group} {f : Table (List Word)} {r v : Table Word} {b : List Nat}
    (hP : P = { g with fifo := f }) (hD : D = { P with srg := r }) (hL : L = { D with v := v, bad := b }) :
    L = { P with v := L.v, srg := L.srg, bad := L.bad } ∧
    L = { g with fifo := L.fifo, v := L.v, srg := L.srg, bad := L.bad } ∧
    D.v = g.v ∧ D.bad = g.bad ∧ L.srg = D.srg ∧ P.srg = g.srg := by
  subst hP; subst hD; subst hL
  exact ⟨rfl, rfl, rfl, rfl, rfl, rfl⟩

theorem withOperands_ready (s : State) (u : Uses) (k : State → (Nat → List (List Word)) → State)
    (h : OperandsReady s u) :
    s.withOperands u k = k (s.onG fun g => g.popQueues s.lanes u.pops) fun l => s.g.srcVals l [] u.srcs := by
  obtain ⟨h1, h2, h3⟩ := h
  simp only [State.withOperands, h1, h2, h3, if_true]

/-- A lane instruction whose operands are ready writes its lanes and passes. -/
theorem done_writes (s : State) (u : Uses) (n w : Nat) (d : Reg) (rs : List (Nat × List Word)) (hb : s.bus = [])
    (hs : Stays s w) (hn : (rs.map (·.1)).Nodup) (hl : ∀ e ∈ rs, e.1 < 64) :
    WritesLanes s (commit s (s.done (((s.onG fun g => g.popQueues s.lanes u.pops).drawAll n).writeDst d rs) w)) w u n d rs := by
  cases d with
  | q i => rfl
  | s i => rfl
  | v i =>
    let act : Group → Group := fun g => rs.foldl (fun g r => g.putWords i.val r.1 r.2)
      (s.lanes.foldl (fun g l => g.drawn l n) (g.popQueues s.lanes u.pops))
    have e : ((s.onG fun g => g.popQueues s.lanes u.pops).drawAll n).writeDst (.v i) rs = s.onG act := by
      simp only [State.drawAll, State.writeDst]
      rw [lanes_onG s _ (by rw [popQueues_shape]) (by rw [popQueues_shape]) (by rw [popQueues_shape])]
      rw [onG_onG, onG_onG]
    obtain ⟨d1, d2⟩ := drawLanes_shape (s.g.popQueues s.lanes u.pops) s.lanes n (lanes_nodup s)
    obtain ⟨p1, p2, p3⟩ := putLanes_shape (s.lanes.foldl (fun g l => g.drawn l n) (s.g.popQueues s.lanes u.pops)) i.val rs hn hl
    obtain ⟨hact, hshape, c1, c2, c3, c4⟩ := chain_shape (popQueues_shape s.g s.lanes u.pops) d1 p1
    change act s.g = _ at hact
    change act s.g = _ at hshape
    rw [e]
    have hp := done_passes s w act hb hs (by rw [hshape])
    set t := commit s (s.done (s.onG act) w)
    have tg : ∀ {γ : Type} (f : Group → γ), (∀ g X, f { g with strands := X } = f g) → f t.g = f (act s.g) := by
      intro γ f hf
      exact (hf _ _).symm.trans ((congrArg f hp.2.1).trans (hf _ _))
    have tv := tg (·.v) fun _ _ => rfl
    have tb := tg (·.bad) fun _ _ => rfl
    have tr := tg (·.srg) fun _ _ => rfl
    refine ⟨⟨hp.1, ?_, hp.2.2⟩, ?_, ?_, ?_⟩
    · have := hp.2.1
      unfold GroupIs at this ⊢
      rw [this, tv, tb, tr]
      rw [hact]
    · intro r l hl'
      have : t.g.vr r l = (act s.g).vr r l := tg (fun g => g.vr r l) fun _ _ => rfl
      rw [this]
      refine (p3 r l hl').trans ?_
      have : (s.lanes.foldl (fun g l => g.drawn l n) (s.g.popQueues s.lanes u.pops)).vr r l = s.g.vr r l := by
        simp only [Group.vr, c1]
      rw [this]
    · intro l
      have : t.g.gen l = (act s.g).gen l := tg (fun g => g.gen l) fun _ _ => rfl
      rw [this]
      have h1 : (act s.g).gen l = (s.lanes.foldl (fun g l => g.drawn l n) (s.g.popQueues s.lanes u.pops)).gen l := by
        simp only [Group.gen]; exact congrArg (tget 0 · l) c3
      have h2 : ∀ l, (s.g.popQueues s.lanes u.pops).gen l = s.g.gen l := by
        intro l; simp only [Group.gen, c4]
      rw [h1, d2]
      simp only [h2]
      split <;> rfl
    · intro e he
      rw [tb] at he
      have := p2 e he
      rwa [c2] at this

theorem vecOp_writes (s : State) (u : Uses) (d : Reg) (steps words : Nat)
    (f : Nat → List (List Word) → List Word → List Word → Option (List Word)) (len : Nat)
    (ws : Nat → List Word) (hf : ∀ l, f l (s.g.srcVals l [] u.srcs) (oldWords s d words l)
      (srgDraws (s.g.gen l) (drawCount s.mode steps)) = some (ws l))
    (hr : OperandsReady s u) (hb : s.bus = []) (hs : Stays s len) :
    WritesLanes s (commit s (s.vecOp u d steps words f len)) len u (drawCount s.mode steps) d
      (s.lanes.map fun l => (l, ws l)) := by
  have e : (s.lanes.filterMap fun l => (f l (s.g.srcVals l [] u.srcs) (oldWords s d words l)
      (srgDraws (s.g.gen l) (drawCount s.mode steps))).map fun w => (l, w)) = s.lanes.map fun l => (l, ws l) := by
    rw [← List.filterMap_eq_map]
    refine List.filterMap_congr fun l _ => ?_
    rw [hf]; rfl
  have := done_writes s u (drawCount s.mode steps) len d (s.lanes.map fun l => (l, ws l)) hb hs
    (by simpa [Function.comp_def] using lanes_nodup s) (by
      intro e he
      obtain ⟨l, hl, rfl⟩ := List.mem_map.mp he
      exact mem_lanes_lt hl)
  rw [State.vecOp, withOperands_ready s u _ hr]
  rw [← e] at this ⊢
  exact this

end Sys2Proof.Machine
end

