-- ==== Sys2Proof/Laws/Elements.lean ====
section
/-!
SUPPORT. Laws of elements: packing and reading the elements of lane words, wrapping and saturating them.
-/
namespace Sys2Proof.Machine
open Sys2Proof.Safety

/-- A value's number fits its words. -/
theorem joinWords_lt (ws : List Word) : joinWords ws < 2 ^ (32 * ws.length) := by
  induction ws with
  | nil => simp [joinWords]
  | cons w ws ih =>
    simp only [joinWords, List.length_cons]
    have := w.isLt
    have e : 2 ^ (32 * (ws.length + 1)) = 2^32 * 2^(32*ws.length) := by rw [← Nat.pow_add]; congr 1; omega
    rw [e]; nlinarith

/-- Splitting a number into words and joining them gives it back, cut to the words' width. -/
theorem joinWords_split (x n : Nat) : joinWords (splitWords x n) = x % 2 ^ (32 * n) := by
  induction n generalizing x with
  | zero => simp [splitWords, joinWords, Nat.mod_one]
  | succ n ih =>
    simp only [splitWords, joinWords, ih]
    have e : 2 ^ (32 * (n + 1)) = 2^32 * 2^(32*n) := by rw [← Nat.pow_add]; congr 1; omega
    rw [e, Nat.mod_mul]; simp

/-- Splitting gives the words asked for. -/
theorem splitWords_length (x n : Nat) : (splitWords x n).length = n := by
  induction n generalizing x with
  | zero => rfl
  | succ n ih => simp [splitWords, ih]

/-- Packed elements fit their widths. -/
theorem fold_pack (w : Nat) (xs : List Nat) : xs.foldr (fun x a => x % 2 ^ w + 2 ^ w * a) 0 < 2 ^ (w * xs.length) := by
  induction xs with
  | nil => simp
  | cons x xs ih =>
    simp only [List.foldr_cons, List.length_cons]
    have h1 : x % 2^w < 2^w := Nat.mod_lt _ (by positivity)
    have e : 2 ^ (w * (xs.length + 1)) = 2^w * 2^(w*xs.length) := by rw [← Nat.pow_add]; congr 1; ring
    rw [e]
    have h3 : List.foldr (fun x a => x % 2 ^ w + 2 ^ w * a) 0 xs + 1 ≤ 2 ^ (w * xs.length) := ih
    calc _ < 2^w + 2^w * List.foldr (fun x a => x % 2 ^ w + 2 ^ w * a) 0 xs := by omega
      _ = 2^w * (List.foldr (fun x a => x % 2 ^ w + 2 ^ w * a) 0 xs + 1) := by ring
      _ ≤ _ := Nat.mul_le_mul_left _ h3

/-- Each packed element reads back. -/
theorem fold_get (w : Nat) (xs : List Nat) (e : Nat) : xs.foldr (fun x a => x % 2 ^ w + 2 ^ w * a) 0 / 2 ^ (w * e) % 2 ^ w = xs.getD e 0 % 2 ^ w := by
  induction xs generalizing e with
  | nil => simp
  | cons x xs ih =>
    simp only [List.foldr_cons]
    cases e with
    | zero => simp [Nat.add_mul_mod_self_left]
    | succ e =>
      have e1 : 2 ^ (w * (e + 1)) = 2^w * 2^(w*e) := by rw [← Nat.pow_add]; congr 1; ring
      rw [e1, ← Nat.div_div_eq_div_mul, Nat.add_mul_div_left _ _ (by positivity), Nat.div_eq_of_lt (Nat.mod_lt _ (by positivity)), Nat.zero_add, ih]
      simp

/-- An element of a packed value is the element packed, cut to its width. -/
theorem elemNat_pack (w n : Nat) (xs : List Nat) (hx : w * xs.length ≤ 32 * n) (e : Nat) :
    elemNat w (packElems w n xs) e = xs.getD e 0 % 2 ^ w := by
  unfold elemNat packElems
  rw [joinWords_split, Nat.mod_eq_of_lt (lt_of_lt_of_le (fold_pack w xs) (Nat.pow_le_pow_right (by norm_num) hx)), fold_get]

/-- The elements of a MODE type fit its words (R41). -/
theorem typeFits (t : Nat) : typeBits t * typeCount t ≤ 32 * typeWords t := by
  unfold typeBits typeCount typeWords
  split <;> simp_all

/-- A built value has the words of its type. -/
theorem build_length (t : Nat) (f : Nat → Int) : (buildElems t f).length = typeWords t := splitWords_length _ _

/-- Each element of a built value has the bits of what it was built from. -/
theorem build_elem (t : Nat) (f : Nat → Int) (e : Nat) (he : e < typeCount t) :
    elemNat (typeBits t) (buildElems t f) e = toBits (typeBits t) (f e) := by
  unfold buildElems
  rw [elemNat_pack _ _ _ (by simpa using typeFits t)]
  have : (((List.range (typeCount t)).map fun e => toBits (typeBits t) (f e)).getD e 0) = toBits (typeBits t) (f e) := by
    simp [he]
  rw [this]
  apply Nat.mod_eq_of_lt
  unfold toBits
  have := Int.emod_lt_of_pos (f e) (show (0:Int) < 2 ^ typeBits t by positivity)
  have h2 := Int.emod_nonneg (f e) (show (2:Int) ^ typeBits t ≠ 0 by positivity)
  zify
  rw [Int.toNat_of_nonneg h2]; exact_mod_cast this

/-- Elements have at least 8 bits. -/
theorem typeBits_pos (t : Nat) : 8 ≤ typeBits t := by unfold typeBits; split <;> norm_num

/-- Wrapping reads the low bits alone. -/
theorem wrap_toBits (w : Nat) (sg : Bool) (x : Int) : wrapInt w sg (toBits w x : Int) = wrapInt w sg x := by
  unfold wrapInt toBits
  have h2 := Int.emod_nonneg x (show (2:Int) ^ w ≠ 0 by positivity)
  rw [Int.toNat_of_nonneg h2, Int.emod_emod]

/-- Each element of a built value, read by the type, is what it was built from, wrapped. -/
theorem build_int (t : Nat) (f : Nat → Int) (e : Nat) (he : e < typeCount t) :
    elemInt t (buildElems t f) e = wrapInt (typeBits t) (typeSigned t) (f e) := by
  unfold elemInt; rw [build_elem t f e he, wrap_toBits]

/-- Wrapping lands between the type's bounds and differs by a multiple of its width (R42). -/
theorem wrap_range (w : Nat) (hw : 1 ≤ w) (sg : Bool) (x : Int) : minInt w sg ≤ wrapInt w sg x ∧ wrapInt w sg x ≤ maxInt w sg ∧ (2^w:Int) ∣ wrapInt w sg x - x := by
  unfold wrapInt minInt maxInt
  have e : (2:Int)^w = 2 * 2^(w-1) := by rw [← pow_succ']; congr 1; omega
  have h1 := Int.emod_nonneg x (show (2:Int) ^ w ≠ 0 by positivity)
  have h2 := Int.emod_lt_of_pos x (show (0:Int) < 2 ^ w by positivity)
  have h3 : (2^w:Int) ∣ x % 2^w - x := by
    exact ⟨-(x / 2^w) , by rw [Int.emod_def]; ring⟩ 
  have hp : (0:Int) < 2^(w-1) := by positivity
  cases sg
  · simp; refine ⟨h1, by omega, h3⟩
  · simp only [Bool.true_and, decide_eq_true_eq, if_true]
    split
    · refine ⟨by omega, by omega, ?_⟩
      have : x % 2 ^ w - 2 ^ w - x = (x % 2^w - x) - 2^w := by ring
      rw [this]; exact dvd_sub h3 (dvd_refl _)
    · exact ⟨by omega, by omega, h3⟩

/-- Wrapping leaves a value between the bounds alone. -/
theorem wrap_id (w : Nat) (hw : 1 ≤ w) (sg : Bool) (x : Int) (h1 : minInt w sg ≤ x) (h2 : x ≤ maxInt w sg) : wrapInt w sg x = x := by
  obtain ⟨a, b, c⟩ := wrap_range w hw sg x
  obtain ⟨k, hk⟩ := c
  have e : (2:Int)^w = 2 * 2^(w-1) := by rw [← pow_succ']; congr 1; omega
  have hp : (0:Int) < 2^(w-1) := by positivity
  have hspan : maxInt w sg - minInt w sg = 2^w - 1 := by unfold maxInt minInt; cases sg <;> simp; omega
  have hk0 : k = 0 := by
    rcases lt_trichotomy k 0 with h | h | h
    · have : (2:Int)^w * k ≤ -2^w := by nlinarith [show (0:Int) < 2^w by positivity]
      omega
    · exact h
    · have : (2:Int)^w ≤ 2^w * k := by nlinarith [show (0:Int) < 2^w by positivity]
      omega
  subst hk0; omega

/-- The bounds of a type are in order. -/
theorem minmax (w : Nat) (_hw : 1 ≤ w) (sg : Bool) : minInt w sg ≤ maxInt w sg := by
  have hp : (0:Int) < 2^(w-1) := by positivity
  have hp : (0:Int) < 2^(w) := by positivity
  unfold minInt maxInt; cases sg <;> simp; omega

/-- Saturation clamps to the bounds (R42). -/
theorem sat_eq (w : Nat) (hw : 1 ≤ w) (sg : Bool) (x : Int) : satInt w sg x = max (minInt w sg) (min (maxInt w sg) x) := by
  have := minmax w hw sg
  unfold satInt; split <;> [skip; split] <;> omega

/-- fit of R107 follows R42. -/
theorem fit_fits (s : State) (x : Int) : Fits s x (wrapInt (typeBits (mType s.mode)) (typeSigned (mType s.mode)) (s.fitT x)) := by
  have hw : 1 ≤ typeBits (mType s.mode) := by have := typeBits_pos (mType s.mode); omega
  unfold Fits State.fitT fit
  simp only
  split
  · rw [sat_eq _ hw]
    have := minmax _ hw (typeSigned (mType s.mode))
    exact wrap_id _ hw _ _ (by omega) (by omega)
  · have h := wrap_range _ hw (typeSigned (mType s.mode)) x
    rw [wrap_id _ hw _ _ h.1 h.2.1]
    exact h

/-- A built value of fitted elements has fitted elements. -/
theorem elems_fit (s : State) (f : Nat → Int) : ElemsI s (fun e => Fits s (f e)) (buildElems (mType s.mode) fun e => s.fitT (f e)) :=
  ⟨build_length _ _, fun e he => by rw [build_int _ _ _ he]; exact fit_fits s _⟩

/-- An element lies between the bounds of its type. -/
theorem elem_range (t : Nat) (ws : List Word) (e : Nat) : minInt (typeBits t) (typeSigned t) ≤ elemInt t ws e ∧ elemInt t ws e ≤ maxInt (typeBits t) (typeSigned t) := by
  have hw : 1 ≤ typeBits t := by have := typeBits_pos t; omega
  have h := wrap_range _ hw (typeSigned t) (elemNat (typeBits t) ws e : Int)
  exact ⟨h.1, h.2.1⟩

/-- Elements between the bounds are written as they are. -/
theorem elems_eq (s : State) (f : Nat → Int) (h : ∀ e, minInt (typeBits (mType s.mode)) (typeSigned (mType s.mode)) ≤ f e ∧ f e ≤ maxInt (typeBits (mType s.mode)) (typeSigned (mType s.mode))) :
    ElemsI s (fun e y => y = f e) (buildElems (mType s.mode) f) :=
  ⟨build_length _ _, fun e he => by
    rw [build_int _ _ _ he]
    have hw : 1 ≤ typeBits (mType s.mode) := by have := typeBits_pos (mType s.mode); omega
    exact wrap_id _ hw _ _ (h e).1 (h e).2⟩

/-- A built value of bits has those bits. -/
theorem elems_u (s : State) (f : Nat → Nat) : ElemsU s f (buildElems (mType s.mode) fun e => (f e : Int)) :=
  ⟨build_length _ _, fun e he => by
    rw [build_elem _ _ _ he]; unfold toBits; norm_cast⟩
/-- A built value has the low bits of each element. -/
theorem elems_toBits (s : State) (f : Nat → Int) : ElemsU s (fun e => toBits (typeBits (mType s.mode)) (f e)) (buildElems (mType s.mode) f) :=
  ⟨build_length _ _, fun e he => by
    rw [build_elem _ _ _ he]
    symm; apply Nat.mod_eq_of_lt
    unfold toBits
    have := Int.emod_lt_of_pos (f e) (show (0:Int) < 2 ^ typeBits (mType s.mode) by positivity)
    have h2 := Int.emod_nonneg (f e) (show (2:Int) ^ typeBits (mType s.mode) ≠ 0 by positivity)
    zify
    rw [Int.toNat_of_nonneg h2]; exact_mod_cast this⟩

/-- Each source has a value. -/
theorem srcVals_length (g : Group) (l : Nat) (popped : List Nat) (us : List (Reg × Nat)) : (g.srcVals l popped us).length = us.length := by
  induction us generalizing popped with
  | nil => rfl
  | cons x us ih => obtain ⟨r, n⟩ := x; cases r <;> simp [Group.srcVals, ih]

/-- Operands that raise no trap have an accepted type and no source of a wrong class. -/
theorem ops_ok {s : State} {u : Uses} (h : OperandsReady s u) : (u.srcs.any fun x => s.badSrc x.1 x.2) = false ∧ u.typeOk = true := by
  have := h.1
  unfold State.operandTrap at this
  split at this
  · simp at this
  · rename_i hh
    simp only [Bool.or_eq_true, not_or, Bool.not_eq_true] at hh
    exact ⟨hh.1.2, by simpa using hh.1.1⟩

/-- A source has as many words as its field spans. -/
theorem src_len {s : State} {u : Uses} {l : Nat} (n : Nat) (hu : ∀ x ∈ u.srcs, x.2 = n) (i : Nat) (hi : i < u.srcs.length)
   (hq : ∀ x ∈ u.srcs, (∃ j, x.1 = .v j) ∨ (∃ j, x.1 = .q j ∧ x.2 = 1) ∨ (∃ j, x.1 = .s j) ) (hn : n = 1 ∨ n = 2) (popped : List Nat):
   ((s.g.srcVals l popped u.srcs).getD i []).length = n := by
  generalize u.srcs = us at *
  clear u
  induction us generalizing i popped with
  | nil => simp at hi
  | cons x us ih =>
    obtain ⟨r, m⟩ := x
    have hm : m = n := hu (r, m) (by simp)
    subst hm
    cases i with
    | zero =>
      have := hq (r, m) (by simp)
      cases r with
      | v j => simp [Group.srcVals]
      | q j => simp at this; simp [Group.srcVals, this]
      | s j => rcases hn with rfl | rfl <;> simp [Group.srcVals]
    | succ i =>
      have := fun p => ih i p (fun x hx => hu x (by simp [hx])) (by simpa using hi) (fun x hx => hq x (by simp [hx]))
      cases r <;> simpa [Group.srcVals] using this _

end Sys2Proof.Machine
end

