-- ==== Sys2Proof/Laws/Home.lean ====
section
/-!
SUPPORT. Laws of the performing points: performing what is queued for a line leaves what every byte reads as, under one
key, as it was (R325, R383).
-/
namespace Sys2Proof.Machine

/-- What is queued at a performing point, from the two tables that hold it. -/
def queuedIn (stackTab : Table Stack) (edge : Table (List SliceReq)) (pa : Nat) : List SliceReq :=
  match nodeOf pa with
  | .stack n => tget [] (tget {} stackTab n).queue (sliceOf pa)
  | .edge e => tget [] edge e
  | _ => []

theorem queuedAt_eq (s : State) (pa : Nat) : s.queuedAt pa = queuedIn s.stackTab s.edge pa := rfl

theorem stack_touch_queue (k : Stack) (slice set line : Nat) (w demand : Bool) (key : Option Nat) :
    (k.touch slice set line w demand key).queue = k.queue := by
  unfold Stack.touch
  cases h : Stack.findWay { k with clock := k.clock + 1 } slice set line with
  | some w' =>
    cases h2 : tfind k.tier (tierKey slice set w') <;> simp [h, h2]
  | none =>
    cases h2 : Stack.victim { k with clock := k.clock + 1 } slice set <;> cases demand <;> simp [h, h2]

theorem touch_cases (s : State) (slice : Option Nat) (line : Nat) (w : Bool) (key : Option Nat) :
    s.touch slice line w key = s ∨
    ∃ n sl set, s.touch slice line w key = s.onStack n fun k => k.touch sl set line w true key := by
  unfold State.touch State.touchAs
  dsimp only
  split
  · next n h =>
    by_cases hw : (wayBlock (line * 128)).isSome = true
    · exact .inl (if_pos hw)
    · exact .inr ⟨n, _, _, if_neg hw⟩
  · exact .inl rfl

/-- A demand access changes tiers alone. -/
theorem touch_shape (s : State) (slice : Option Nat) (line : Nat) (w : Bool) (key : Option Nat) :
    (∃ st, s.touch slice line w key = { s with stackTab := st }) ∧
    ∀ pa, (s.touch slice line w key).queuedAt pa = s.queuedAt pa := by
  rcases touch_cases s slice line w key with h | ⟨n, sl, set, h⟩
  · rw [h]; exact ⟨⟨s.stackTab, rfl⟩, fun _ => rfl⟩
  · rw [h]
    refine ⟨⟨_, rfl⟩, fun pa => ?_⟩
    simp only [queuedAt_eq, queuedIn, State.onStack, State.setStack, State.stack]
    split
    · next m _ =>
      rw [tget_tset]
      by_cases hm : m = n
      · subst hm; simp [stack_touch_queue]
      · simp [Ne.symm hm]
    · rfl
    · rfl

/-- Performing a queued write whose key is the line's: its bytes join the writes of the step, poison and tiers may change. -/
theorem perform_shape (s : State) (r : SliceReq) (hk : tfind s.sealed r.line = r.key) :
    (∃ st p, s.perform r = { s with
      stackTab := st, poison := p, bus := s.bus ++ r.cells.filter (fun c => c.1 / 128 == r.line) }) ∧
    ∀ pa, (s.perform r).queuedAt pa = s.queuedAt pa := by
  have key : s.useKey r.line r.key = s := if_pos hk
  have go : ∀ p, let y : State := { s with bus := s.bus ++ r.cells.filter (fun c => c.1 / 128 == r.line), poison := p }
      (∃ st p, y.touch none r.line true r.key = { s with
        stackTab := st, poison := p, bus := s.bus ++ r.cells.filter (fun c => c.1 / 128 == r.line) }) ∧
      ∀ pa, (y.touch none r.line true r.key).queuedAt pa = s.queuedAt pa := by
    intro p y
    obtain ⟨⟨st, h⟩, h2⟩ := touch_shape y none r.line true r.key
    exact ⟨⟨st, p, h⟩, h2⟩
  unfold State.perform
  rw [key]
  dsimp only [State.pokes]
  split
  · exact go _
  · split
    · exact go _
    · exact go _

/-- Performing queued writes of a line under its key, in order. -/
theorem performs_shape (line : Nat) (rs : List SliceReq) (s : State)
    (hl : ∀ r ∈ rs, r.line = line ∧ r.key = tfind s.sealed line) :
    (∃ st p, rs.foldl State.perform s = { s with
      stackTab := st, poison := p, bus := s.bus ++ (rs.flatMap (·.cells)).filter (fun c => c.1 / 128 == line) }) ∧
    ∀ pa, (rs.foldl State.perform s).queuedAt pa = s.queuedAt pa := by
  induction rs generalizing s with
  | nil => exact ⟨⟨s.stackTab, s.poison, by simp⟩, fun _ => rfl⟩
  | cons r rs ih =>
    obtain ⟨h1, h2⟩ := hl r (by simp)
    obtain ⟨⟨st, p, hp⟩, hq⟩ := perform_shape s r (by rw [h1, h2])
    obtain ⟨⟨st', p', hp'⟩, hq'⟩ := ih (s.perform r) fun x hx => by
      have : (s.perform r).sealed = s.sealed := by rw [hp]
      rw [this]; exact hl x (by simp [hx])
    refine ⟨⟨st', p', ?_⟩, fun pa => ?_⟩
    · rw [List.foldl_cons, hp', hp, h1]; simp
    · rw [List.foldl_cons, hq' pa, hq pa]

theorem lastOf_filter (a line : Nat) (cs : List Host.Cell) :
    lastOf a (cs.filter fun c => c.1 / 128 == line) = if a / 128 = line then lastOf a cs else none := by
  induction cs with
  | nil => simp [lastOf]
  | cons c cs ih =>
    obtain ⟨n, v⟩ := c
    by_cases h : n / 128 = line
    · simp only [List.filter_cons, h, beq_self_eq_true, if_true, lastOf, ih]
      by_cases ha : a / 128 = line
      · simp [ha]
      · have : n ≠ a := fun e => ha (e ▸ h)
        simp [ha, this]
    · simp only [List.filter_cons, beq_iff_eq, h, if_false, ih, lastOf]
      by_cases ha : a / 128 = line
      · have : n ≠ a := fun e => h (e ▸ ha)
        simp only [ha, if_true, this, if_false]
        cases lastOf a cs <;> rfl
      · simp [ha]

/-- Where an address is performed depends on its line alone. -/
theorem nodeOf_line (a : Nat) : nodeOf (a / 128 * 128) = nodeOf a := by
  have e1 : (2 ^ 52 ≤ a / 128 * 128) ↔ 2 ^ 52 ≤ a := by omega
  have e2 : (2 ^ 51 ≤ a / 128 * 128) ↔ 2 ^ 51 ≤ a := by omega
  have e3 : a / 128 * 128 / 2 ^ 46 = a / 2 ^ 46 := by omega
  have e4 : a / 128 * 128 / 2 ^ 48 = a / 2 ^ 48 := by omega
  have e5 : a / 128 * 128 / 2 ^ 36 = a / 2 ^ 36 := by omega
  have e6 : (a / 128 * 128 < 2 ^ 43) ↔ a < 2 ^ 43 := by omega
  have e7 : (a / 128 * 128 < 2 ^ 40) ↔ a < 2 ^ 40 := by omega
  unfold nodeOf
  rw [e3, e4, e5]
  simp only [e1, e2, e6, e7]

theorem mod_pow_line (a k : Nat) (h : 7 ≤ k) : a / 128 * 128 % 2 ^ k = a % 2 ^ k / 128 * 128 := by
  obtain ⟨j, rfl⟩ := Nat.exists_eq_add_of_le h
  rw [Nat.pow_add, show 2 ^ 7 = 128 from rfl, Nat.mul_comm (a / 128), Nat.mul_mod_mul_left, Nat.mod_mul_right_div_self, Nat.mul_comm]

theorem wayBlock_line (a : Nat) : wayBlock (a / 128 * 128) = wayBlock a := by
  unfold wayBlock
  rw [mod_pow_line a 36 (by decide)]
  generalize a % 2 ^ 36 = o
  have e1 : (2 ^ 36 - 0xC000000 ≤ o / 128 * 128) ↔ 2 ^ 36 - 0xC000000 ≤ o := by omega
  have e2 : (2 ^ 36 - 1 - o / 128 * 128) / 2 ^ 24 = (2 ^ 36 - 1 - o) / 2 ^ 24 := by omega
  simp only [e1, e2]

theorem pow_div_line (a k : Nat) (h : 7 ≤ k) : a / 128 * 128 / 2 ^ k = a / 2 ^ k := by
  obtain ⟨j, rfl⟩ := Nat.exists_eq_add_of_le h
  rw [Nat.pow_add, show 2 ^ 7 = 128 from rfl, ← Nat.div_div_eq_div_mul, ← Nat.div_div_eq_div_mul,
    Nat.mul_div_cancel _ (by decide : 0 < 128)]

theorem sliceOf_line (a : Nat) : sliceOf (a / 128 * 128) = sliceOf a := by
  unfold sliceOf
  rw [wayBlock_line]
  cases wayBlock a with
  | none =>
    dsimp only
    rw [pow_div_line a 7 (by decide), pow_div_line a 11 (by decide), pow_div_line a 15 (by decide), pow_div_line a 19 (by decide),
      pow_div_line a 23 (by decide), pow_div_line a 27 (by decide), pow_div_line a 31 (by decide)]
  | some j =>
    dsimp only
    rw [mod_pow_line a 24 (by decide), Nat.mul_div_cancel _ (by decide : 0 < 128)]

theorem queuedIn_line (st : Table Stack) (ed : Table (List SliceReq)) (a : Nat) : queuedIn st ed (a / 128 * 128) = queuedIn st ed a := by
  unfold queuedIn
  rw [nodeOf_line, sliceOf_line]

theorem queuedIn_same (st : Table Stack) (ed : Table (List SliceReq)) (a b : Nat) (h : a / 128 = b / 128) :
    queuedIn st ed a = queuedIn st ed b := by
  rw [← queuedIn_line st ed a, h, queuedIn_line]

/-- Reading at home, from the parts of the state it looks at. -/
theorem home_eq (s : State) (a : Nat) :
    s.home a = match lastOf a (((s.queuedAt a).filter (·.line == a / 128)).flatMap (·.cells)) with
      | some b => b
      | none => (lastOf a s.bus).getD (tget 0 s.mem a) := rfl

/-- The queues after one queue has been replaced. -/
theorem queuedAt_replace (s : State) (L : Nat) (rest : List SliceReq) (a : Nat) :
    (s.putQueuedAt (L * 128) rest).queuedAt a = s.queuedAt a ∨
    (s.putQueuedAt (L * 128) rest).queuedAt a = rest ∧ s.queuedAt a = s.queuedAt (L * 128) := by
  unfold State.putQueuedAt
  cases h : nodeOf (L * 128) with
  | stack n =>
    simp only [queuedAt_eq, queuedIn, State.onStack, State.setStack, State.stack, h]
    cases ha : nodeOf a with
    | stack m =>
      simp only [tget_tset]
      by_cases hm : n = m
      · subst hm
        simp only [if_true, tget_tput]
        by_cases hs : sliceOf (L * 128) = sliceOf a
        · right; simp [hs]
        · left; simp [hs]
      · left; simp [hm]
    | _ => left; rfl
  | edge e =>
    simp only [queuedAt_eq, queuedIn, h]
    cases ha : nodeOf a with
    | edge m =>
      simp only [tget_tput]
      by_cases hm : e = m
      · subst hm; right; simp
      · left; simp [hm]
    | _ => left; rfl
  | _ => left; rfl

/-- A line's queue after its own writes have left it. -/
theorem queuedAt_own (s : State) (L : Nat) (rest : List SliceReq) (hne : s.queuedAt (L * 128) ≠ []) (a : Nat) (ha : a / 128 = L) :
    (s.putQueuedAt (L * 128) rest).queuedAt a = rest := by
  rw [queuedAt_eq, queuedIn_same _ _ a (L * 128) (by omega)]
  unfold State.putQueuedAt
  cases h : nodeOf (L * 128) with
  | stack n => simp [queuedIn, State.onStack, State.setStack, State.stack, h]
  | edge e => simp [queuedIn, h]
  | _ => simp [queuedAt_eq, queuedIn, h] at hne

/-- What a byte reads as at home does not change when the writes queued for a line are performed under its key. -/
theorem settle_home (s : State) (line : Nat)
    (hk : ∀ r ∈ s.queuedAt (line * 128), r.line = line → r.key = tfind s.sealed line) (a : Nat) :
    (s.settle line).home a = s.home a := by
  unfold State.settle
  dsimp only
  split
  · rfl
  · next hne =>
    set mine := (s.queuedAt (line * 128)).filter (·.line == line) with hm
    set rest := (s.queuedAt (line * 128)).filter (·.line != line) with hr
    obtain ⟨⟨st, p, h⟩, hq⟩ := performs_shape line mine s (by
      intro r hr
      rw [hm, List.mem_filter] at hr
      have hr2 : r.line = line := by simpa using hr.2
      exact ⟨hr2, hk r hr.1 hr2⟩)
    set u := mine.foldl State.perform s with hu
    have hmem : u.mem = s.mem := by rw [h]
    have hbus : u.bus = s.bus ++ (mine.flatMap (·.cells)).filter (fun c => c.1 / 128 == line) := by rw [h]
    have hx : ∀ x : State, x.mem = s.mem → x.bus = u.bus →
        (a / 128 = line → x.queuedAt a = rest) → (a / 128 ≠ line → (x.queuedAt a).filter (·.line == a / 128) = (s.queuedAt a).filter (·.line == a / 128)) →
        x.home a = s.home a := by
      intro x xm xb x1 x2
      rw [home_eq, home_eq, xm, xb, hbus, lastOf_append, lastOf_filter]
      by_cases ha : a / 128 = line
      · rw [x1 ha, hr, show s.queuedAt a = s.queuedAt (line * 128) from queuedIn_same _ _ _ _ (by omega), ha, ← hm]
        have e : ((s.queuedAt (line * 128)).filter (·.line != line)).filter (·.line == line) = [] := by
          rw [List.filter_filter]; apply List.filter_eq_nil_iff.2; intro r _; simp
        rw [e, if_pos rfl]
        simp only [List.flatMap_nil, lastOf]
        cases lastOf a (mine.flatMap (·.cells)) <;> rfl
      · rw [x2 ha, if_neg ha]
    have hne2 : u.queuedAt (line * 128) ≠ [] := by
      rw [hq]; intro e; rw [hm, e] at hne; simp at hne
    refine hx _ ?_ ?_ (fun ha => queuedAt_own u line rest hne2 a ha) (fun ha => ?_)
    · unfold State.putQueuedAt; cases nodeOf (line * 128) <;> exact hmem
    · unfold State.putQueuedAt; cases nodeOf (line * 128) <;> rfl
    · rcases queuedAt_replace u line rest a with h1 | ⟨h1, h2⟩
      · rw [h1, hq]
      · rw [h1, hr, List.filter_filter, ← hq (line * 128), ← h2, hq]
        congr 1
        funext r
        by_cases e : r.line = a / 128 <;> simp [e, ha]

/-- Performing what is queued for a line, under its key, leaves its bytes, queues of other lines, and all else but tiers and
poison alone. -/
theorem settle_rest (s : State) (line : Nat)
    (hk : ∀ r ∈ s.queuedAt (line * 128), r.line = line → r.key = tfind s.sealed line) :
    { s.settle line with stackTab := s.stackTab, edge := s.edge, poison := s.poison, bus := s.bus } = s := by
  unfold State.settle
  dsimp only
  split
  · rfl
  · obtain ⟨⟨st, p, h⟩, -⟩ := performs_shape line ((s.queuedAt (line * 128)).filter (·.line == line)) s (by
      intro r hr
      rw [List.mem_filter] at hr
      have hr2 : r.line = line := by simpa using hr.2
      exact ⟨hr2, hk r hr.1 hr2⟩)
    rw [h]
    unfold State.putQueuedAt
    cases nodeOf (line * 128) <;> rfl

end Sys2Proof.Machine
end

