-- ==== Sys2Proof/Laws/PerInstr.lean ====
section
/-!
SUPPORT. One law for each instruction: a well-formed instruction is encoded under an opcode that takes an extension word exactly where
its format has one, and with 0 after it where it has none (R83, R85, R91).
-/
namespace Sys2Proof.Laws.Encoding

/-- The opcode of a well-formed instruction takes an extension word exactly where the instruction has two words, and an instruction of
one word is encoded with 0 after it. An event has no words. -/
def Statement (i : Instr) : Prop :=
  ∀ w x, WellFormed i = true → encode i = some (w, x) → takesExtension (fld w 24 8) = decide (i.words = 2) ∧ (i.words = 1 → x = 0)

/-- The top byte of a word is its opcode. -/
theorem op_of (op : BitVec 8) (r : BitVec 24) : fld ((op ++ r : BitVec (8 + 24)) : Word) 24 8 = op := by
  apply BitVec.eq_of_getLsbD_eq
  intro i hi
  have h : ((op ++ r : BitVec (8 + 24))).getLsbD (24 + i) = op.getLsbD i := by
    rw [BitVec.getLsbD_append, if_neg (by omega)]; congr 1; omega
  simpa [fld, hi] using h

theorem op_word16 (op d : BitVec 8) (m : BitVec 16) : fld (word16 op d m) 24 8 = op := by
  apply BitVec.eq_of_getLsbD_eq
  intro i hi
  have h : ((op ++ d ++ m : BitVec (8 + 8 + 16))).getLsbD (24 + i) = op.getLsbD i := by
    rw [BitVec.getLsbD_append, if_neg (by omega), BitVec.getLsbD_append, if_neg (by omega)]; congr 1; omega
  simpa [fld, word16, hi] using h

theorem op_word (op d a b : BitVec 8) : fld (word op d a b) 24 8 = op := by
  apply BitVec.eq_of_getLsbD_eq
  intro i hi
  have h : ((op ++ d ++ a ++ b : BitVec (8 + 8 + 8 + 8))).getLsbD (24 + i) = op.getLsbD i := by
    rw [BitVec.getLsbD_append, if_neg (by omega), BitVec.getLsbD_append, if_neg (by omega), BitVec.getLsbD_append,
      if_neg (by omega)]; congr 1; omega
  simpa [fld, word, hi] using h

/-- An instruction of one word, under an opcode that takes no extension word. -/
theorem single {i : Instr} (hi : i.words = 1) {v : Word} {op : BitVec 8} (he : encode i = some (v, 0)) (hv : fld v 24 8 = op)
    (ho : WellFormed i = true → takesExtension op = false) : Statement i := by
  intro w x hw h
  cases he.symm.trans h
  exact ⟨by rw [hv, ho hw, hi]; rfl, fun _ => rfl⟩

/-- An instruction of two words, under an opcode that takes one. -/
theorem double {i : Instr} (hi : i.words = 2) {v y : Word} {op : BitVec 8} (he : encode i = some (v, y)) (hv : fld v 24 8 = op)
    (ho : takesExtension op = true) : Statement i := by
  intro w x _ h
  cases he.symm.trans h
  exact ⟨by rw [hv, ho, hi]; rfl, fun h => by omega⟩

/-- An event has no words. -/
theorem event {i : Instr} (he : encode i = none) : Statement i := fun _ _ _ h => by rw [he] at h; cases h

theorem nop : Statement (.nop) := single rfl rfl (op_word ..) fun _ => rfl
theorem exit : Statement (.exit) := single rfl rfl (op_word ..) fun _ => rfl
theorem bra : ∀ x0, Statement (.bra x0) := fun _ => single rfl rfl (op_of ..) fun _ => rfl
theorem brc : ∀ x0 x1 x2, Statement (.brc x0 x1 x2) := fun _ _ _ => single rfl rfl (op_of ..) fun _ => rfl
theorem call : ∀ x0, Statement (.call x0) := fun _ => single rfl rfl (op_of ..) fun _ => rfl
theorem ret : Statement (.ret) := single rfl rfl (op_word ..) fun _ => rfl
theorem jmpr : ∀ x0, Statement (.jmpr x0) := fun _ => single rfl rfl (op_word ..) fun _ => rfl
theorem regang : Statement (.regang) := single rfl rfl (op_word ..) fun _ => rfl
theorem loop : ∀ x0 x1 x2, Statement (.loop x0 x1 x2) := fun _ _ _ => single rfl rfl (op_of ..) fun _ => rfl
theorem leave : ∀ x0, Statement (.leave x0) := fun _ => single rfl rfl (op_of ..) fun _ => rfl
theorem setm : ∀ x0, Statement (.setm x0) := fun _ => single rfl rfl (op_of ..) fun _ => rfl
theorem setp : ∀ x0, Statement (.setp x0) := fun _ => single rfl rfl (op_word ..) fun _ => rfl
theorem setlive : ∀ x0, Statement (.setlive x0) := fun _ => single rfl rfl (op_word ..) fun _ => rfl
theorem trap : ∀ x0, Statement (.trap x0) := fun _ => single rfl rfl (op_word16 ..) fun _ => rfl
theorem waitt : ∀ x0, Statement (.waitt x0) := fun _ => single rfl rfl (op_word ..) fun _ => rfl
theorem sysr : ∀ x0 x1, Statement (.sysr x0 x1) := fun _ _ => single rfl rfl (op_word16 ..) fun _ => rfl
theorem sysw : ∀ x0 x1, Statement (.sysw x0 x1) := fun _ _ => single rfl rfl (op_word16 ..) fun _ => rfl
theorem bar : ∀ x0, Statement (.bar x0) := fun _ => single rfl rfl (op_word ..) fun _ => rfl
theorem bara : ∀ x0, Statement (.bara x0) := fun _ => single rfl rfl (op_word ..) fun _ => rfl
theorem barw : ∀ x0, Statement (.barw x0) := fun _ => single rfl rfl (op_word ..) fun _ => rfl
theorem paltake : ∀ x0, Statement (.paltake x0) := fun _ => single rfl rfl (op_word ..) fun _ => rfl
theorem paltry : ∀ x0 x1, Statement (.paltry x0 x1) := fun _ _ => single rfl rfl (op_word ..) fun _ => rfl
theorem palgive : ∀ x0, Statement (.palgive x0) := fun _ => single rfl rfl (op_word ..) fun _ => rfl
theorem yield : Statement (.yield) := single rfl rfl (op_word ..) fun _ => rfl
theorem spawn : ∀ x0 x1 x2, Statement (.spawn x0 x1 x2) := fun _ _ _ => single rfl rfl (op_word ..) fun _ => rfl
theorem tloc : ∀ x0, Statement (.tloc x0) := fun _ => single rfl rfl (op_word ..) fun _ => rfl
theorem fence : Statement (.fence) := single rfl rfl (op_word ..) fun _ => rfl
theorem hswap : ∀ x0, Statement (.hswap x0) := fun _ => single rfl rfl (op_word ..) fun _ => rfl
theorem srcfg : ∀ x0 x1, Statement (.srcfg x0 x1) := fun _ _ => single rfl rfl (op_word ..) fun _ => rfl
theorem pin : ∀ x0 x1, Statement (.pin x0 x1) := fun _ _ => single rfl rfl (op_word ..) fun _ => rfl
theorem unpin : ∀ x0 x1, Statement (.unpin x0 x1) := fun _ _ => single rfl rfl (op_word ..) fun _ => rfl
theorem tret : Statement (.tret) := single rfl rfl (op_word ..) fun _ => rfl
theorem sadd : ∀ x0 x1 x2, Statement (.sadd x0 x1 x2) := fun _ _ _ => single rfl rfl (op_word ..) fun _ => rfl
theorem ssub : ∀ x0 x1 x2, Statement (.ssub x0 x1 x2) := fun _ _ _ => single rfl rfl (op_word ..) fun _ => rfl
theorem smul : ∀ x0 x1 x2, Statement (.smul x0 x1 x2) := fun _ _ _ => single rfl rfl (op_word ..) fun _ => rfl
theorem smulh : ∀ x0 x1 x2, Statement (.smulh x0 x1 x2) := fun _ _ _ => single rfl rfl (op_word ..) fun _ => rfl
theorem sdiv : ∀ x0 x1 x2, Statement (.sdiv x0 x1 x2) := fun _ _ _ => single rfl rfl (op_word ..) fun _ => rfl
theorem sdivn : ∀ x0 x1 x2, Statement (.sdivn x0 x1 x2) := fun _ _ _ => single rfl rfl (op_word ..) fun _ => rfl
theorem srem : ∀ x0 x1 x2, Statement (.srem x0 x1 x2) := fun _ _ _ => single rfl rfl (op_word ..) fun _ => rfl
theorem sand : ∀ x0 x1 x2, Statement (.sand x0 x1 x2) := fun _ _ _ => single rfl rfl (op_word ..) fun _ => rfl
theorem sor : ∀ x0 x1 x2, Statement (.sor x0 x1 x2) := fun _ _ _ => single rfl rfl (op_word ..) fun _ => rfl
theorem sxor : ∀ x0 x1 x2, Statement (.sxor x0 x1 x2) := fun _ _ _ => single rfl rfl (op_word ..) fun _ => rfl
theorem sshl : ∀ x0 x1 x2, Statement (.sshl x0 x1 x2) := fun _ _ _ => single rfl rfl (op_word ..) fun _ => rfl
theorem sshr : ∀ x0 x1 x2, Statement (.sshr x0 x1 x2) := fun _ _ _ => single rfl rfl (op_word ..) fun _ => rfl
theorem ssra : ∀ x0 x1 x2, Statement (.ssra x0 x1 x2) := fun _ _ _ => single rfl rfl (op_word ..) fun _ => rfl
theorem smin : ∀ x0 x1 x2, Statement (.smin x0 x1 x2) := fun _ _ _ => single rfl rfl (op_word ..) fun _ => rfl
theorem smax : ∀ x0 x1 x2, Statement (.smax x0 x1 x2) := fun _ _ _ => single rfl rfl (op_word ..) fun _ => rfl
theorem scmp : ∀ x0 x1 x2 x3, Statement (.scmp x0 x1 x2 x3) := fun _ _ _ _ => single rfl rfl (op_word ..) fun _ => rfl
theorem saddi : ∀ x0 x1 x2, Statement (.saddi x0 x1 x2) := fun _ _ _ => single rfl rfl (op_word ..) fun _ => rfl
theorem smovi : ∀ x0 x1, Statement (.smovi x0 x1) := fun _ _ => single rfl rfl (op_word16 ..) fun _ => rfl
theorem smovx : ∀ x0 x1, Statement (.smovx x0 x1) := fun _ _ => double rfl rfl (op_word ..) rfl
theorem smovxh : ∀ x0 x1, Statement (.smovxh x0 x1) := fun _ _ => double rfl rfl (op_word ..) rfl
theorem sshli : ∀ x0 x1 x2, Statement (.sshli x0 x1 x2) := fun _ _ _ => single rfl rfl (op_word ..) fun _ => rfl
theorem sshri : ∀ x0 x1 x2, Statement (.sshri x0 x1 x2) := fun _ _ _ => single rfl rfl (op_word ..) fun _ => rfl
theorem ssrai : ∀ x0 x1 x2, Statement (.ssrai x0 x1 x2) := fun _ _ _ => single rfl rfl (op_word ..) fun _ => rfl
theorem sandi : ∀ x0 x1 x2, Statement (.sandi x0 x1 x2) := fun _ _ _ => single rfl rfl (op_word ..) fun _ => rfl
theorem smadi : ∀ x0 x1 x2, Statement (.smadi x0 x1 x2) := fun _ _ _ => single rfl rfl (op_word ..) fun _ => rfl
theorem spopc : ∀ x0 x1, Statement (.spopc x0 x1) := fun _ _ => single rfl rfl (op_word ..) fun _ => rfl
theorem sclz : ∀ x0 x1, Statement (.sclz x0 x1) := fun _ _ => single rfl rfl (op_word ..) fun _ => rfl
theorem rfal : ∀ x0 x1, Statement (.rfal x0 x1) := fun _ _ => single rfl rfl (op_word ..) fun _ => rfl
theorem smask : ∀ x0 x1, Statement (.smask x0 x1) := fun _ _ => single rfl rfl (op_word ..) fun _ => rfl
theorem sid : ∀ x0 x1, Statement (.sid x0 x1) := fun _ _ => single rfl rfl (op_word ..) fun _ => rfl
theorem ssel : ∀ x0 x1 x2 x3, Statement (.ssel x0 x1 x2 x3) := fun _ _ _ _ => double rfl rfl (op_word ..) rfl
theorem vadd : ∀ x0 x1 x2, Statement (.vadd x0 x1 x2) := fun _ _ _ => single rfl rfl (op_word ..) fun _ => rfl
theorem vsub : ∀ x0 x1 x2, Statement (.vsub x0 x1 x2) := fun _ _ _ => single rfl rfl (op_word ..) fun _ => rfl
theorem vmul : ∀ x0 x1 x2, Statement (.vmul x0 x1 x2) := fun _ _ _ => single rfl rfl (op_word ..) fun _ => rfl
theorem vmulh : ∀ x0 x1 x2, Statement (.vmulh x0 x1 x2) := fun _ _ _ => single rfl rfl (op_word ..) fun _ => rfl
theorem vmad : ∀ x0 x1 x2, Statement (.vmad x0 x1 x2) := fun _ _ _ => single rfl rfl (op_word ..) fun _ => rfl
theorem vand : ∀ x0 x1 x2, Statement (.vand x0 x1 x2) := fun _ _ _ => single rfl rfl (op_word ..) fun _ => rfl
theorem vor : ∀ x0 x1 x2, Statement (.vor x0 x1 x2) := fun _ _ _ => single rfl rfl (op_word ..) fun _ => rfl
theorem vxor : ∀ x0 x1 x2, Statement (.vxor x0 x1 x2) := fun _ _ _ => single rfl rfl (op_word ..) fun _ => rfl
theorem vshl : ∀ x0 x1 x2, Statement (.vshl x0 x1 x2) := fun _ _ _ => single rfl rfl (op_word ..) fun _ => rfl
theorem vshr : ∀ x0 x1 x2, Statement (.vshr x0 x1 x2) := fun _ _ _ => single rfl rfl (op_word ..) fun _ => rfl
theorem vsra : ∀ x0 x1 x2, Statement (.vsra x0 x1 x2) := fun _ _ _ => single rfl rfl (op_word ..) fun _ => rfl
theorem vmin : ∀ x0 x1 x2, Statement (.vmin x0 x1 x2) := fun _ _ _ => single rfl rfl (op_word ..) fun _ => rfl
theorem vmax : ∀ x0 x1 x2, Statement (.vmax x0 x1 x2) := fun _ _ _ => single rfl rfl (op_word ..) fun _ => rfl
theorem vabsd : ∀ x0 x1 x2, Statement (.vabsd x0 x1 x2) := fun _ _ _ => single rfl rfl (op_word ..) fun _ => rfl
theorem vcmp : ∀ x0 x1 x2 x3, Statement (.vcmp x0 x1 x2 x3) := fun _ _ _ _ => single rfl rfl (op_word ..) fun _ => rfl
theorem vsel : ∀ x0 x1 x2 x3, Statement (.vsel x0 x1 x2 x3) := fun _ _ _ _ => double rfl rfl (op_word ..) rfl
theorem vaddi : ∀ x0 x1 x2, Statement (.vaddi x0 x1 x2) := fun _ _ _ => single rfl rfl (op_word ..) fun _ => rfl
theorem vmovi : ∀ x0 x1, Statement (.vmovi x0 x1) := fun _ _ => single rfl rfl (op_word16 ..) fun _ => rfl
theorem vmovx : ∀ x0 x1, Statement (.vmovx x0 x1) := fun _ _ => double rfl rfl (op_word ..) rfl
theorem vshli : ∀ x0 x1 x2, Statement (.vshli x0 x1 x2) := fun _ _ _ => single rfl rfl (op_word ..) fun _ => rfl
theorem vshri : ∀ x0 x1 x2, Statement (.vshri x0 x1 x2) := fun _ _ _ => single rfl rfl (op_word ..) fun _ => rfl
theorem vsrai : ∀ x0 x1 x2, Statement (.vsrai x0 x1 x2) := fun _ _ _ => single rfl rfl (op_word ..) fun _ => rfl
theorem vpopc : ∀ x0 x1, Statement (.vpopc x0 x1) := fun _ _ => single rfl rfl (op_word ..) fun _ => rfl
theorem vclz : ∀ x0 x1, Statement (.vclz x0 x1) := fun _ _ => single rfl rfl (op_word ..) fun _ => rfl
theorem vlane : ∀ x0, Statement (.vlane x0) := fun _ => single rfl rfl (op_word ..) fun _ => rfl
theorem vmov : ∀ x0 x1, Statement (.vmov x0 x1) := fun _ _ => single rfl rfl (op_word ..) fun _ => rfl
theorem pand : ∀ x0 x1 x2, Statement (.pand x0 x1 x2) := fun _ _ _ => single rfl rfl (op_word ..) fun _ => rfl
theorem por : ∀ x0 x1 x2, Statement (.por x0 x1 x2) := fun _ _ _ => single rfl rfl (op_word ..) fun _ => rfl
theorem pxor : ∀ x0 x1 x2, Statement (.pxor x0 x1 x2) := fun _ _ _ => single rfl rfl (op_word ..) fun _ => rfl
theorem pnot : ∀ x0 x1, Statement (.pnot x0 x1) := fun _ _ => single rfl rfl (op_word ..) fun _ => rfl
theorem ptest : ∀ x0 x1, Statement (.ptest x0 x1) := fun _ _ => single rfl rfl (op_word ..) fun _ => rfl
theorem vpacks : ∀ x0 x1 x2, Statement (.vpacks x0 x1 x2) := fun _ _ _ => single rfl rfl (op_word ..) fun _ => rfl
theorem vfadd : ∀ x0 x1 x2, Statement (.vfadd x0 x1 x2) := fun _ _ _ => single rfl rfl (op_word ..) fun _ => rfl
theorem vfsub : ∀ x0 x1 x2, Statement (.vfsub x0 x1 x2) := fun _ _ _ => single rfl rfl (op_word ..) fun _ => rfl
theorem vfmul : ∀ x0 x1 x2, Statement (.vfmul x0 x1 x2) := fun _ _ _ => single rfl rfl (op_word ..) fun _ => rfl
theorem vfma : ∀ x0 x1 x2, Statement (.vfma x0 x1 x2) := fun _ _ _ => single rfl rfl (op_word ..) fun _ => rfl
theorem vfms : ∀ x0 x1 x2, Statement (.vfms x0 x1 x2) := fun _ _ _ => single rfl rfl (op_word ..) fun _ => rfl
theorem vfnma : ∀ x0 x1 x2, Statement (.vfnma x0 x1 x2) := fun _ _ _ => single rfl rfl (op_word ..) fun _ => rfl
theorem vfmin : ∀ x0 x1 x2, Statement (.vfmin x0 x1 x2) := fun _ _ _ => single rfl rfl (op_word ..) fun _ => rfl
theorem vfmax : ∀ x0 x1 x2, Statement (.vfmax x0 x1 x2) := fun _ _ _ => single rfl rfl (op_word ..) fun _ => rfl
theorem vfcmp : ∀ x0 x1 x2 x3, Statement (.vfcmp x0 x1 x2 x3) := fun _ _ _ _ => single rfl rfl (op_word ..) fun _ => rfl
theorem vfabs : ∀ x0 x1, Statement (.vfabs x0 x1) := fun _ _ => single rfl rfl (op_word ..) fun _ => rfl
theorem vfneg : ∀ x0 x1, Statement (.vfneg x0 x1) := fun _ _ => single rfl rfl (op_word ..) fun _ => rfl
theorem vfdiv : ∀ x0 x1 x2, Statement (.vfdiv x0 x1 x2) := fun _ _ _ => single rfl rfl (op_word ..) fun _ => rfl
theorem vfsqrt : ∀ x0 x1, Statement (.vfsqrt x0 x1) := fun _ _ => single rfl rfl (op_word ..) fun _ => rfl
theorem vfrcp : ∀ x0 x1, Statement (.vfrcp x0 x1) := fun _ _ => single rfl rfl (op_word ..) fun _ => rfl
theorem vfrsq : ∀ x0 x1, Statement (.vfrsq x0 x1) := fun _ _ => single rfl rfl (op_word ..) fun _ => rfl
theorem vfexp2 : ∀ x0 x1, Statement (.vfexp2 x0 x1) := fun _ _ => single rfl rfl (op_word ..) fun _ => rfl
theorem vflog2 : ∀ x0 x1, Statement (.vflog2 x0 x1) := fun _ _ => single rfl rfl (op_word ..) fun _ => rfl
theorem vfsinp : ∀ x0 x1, Statement (.vfsinp x0 x1) := fun _ _ => single rfl rfl (op_word ..) fun _ => rfl
theorem vfcosp : ∀ x0 x1, Statement (.vfcosp x0 x1) := fun _ _ => single rfl rfl (op_word ..) fun _ => rfl
theorem vftanh : ∀ x0 x1, Statement (.vftanh x0 x1) := fun _ _ => single rfl rfl (op_word ..) fun _ => rfl
theorem vfsigm : ∀ x0 x1, Statement (.vfsigm x0 x1) := fun _ _ => single rfl rfl (op_word ..) fun _ => rfl
theorem vcvt : ∀ x0 x1 x2, Statement (.vcvt x0 x1 x2) := fun _ _ _ => single rfl rfl (op_word ..) fun _ => rfl
theorem vcvti : ∀ x0 x1 x2, Statement (.vcvti x0 x1 x2) := fun _ _ _ => single rfl rfl (op_word ..) fun _ => rfl
theorem vfclass : ∀ x0 x1, Statement (.vfclass x0 x1) := fun _ _ => single rfl rfl (op_word ..) fun _ => rfl
theorem vfrnd : ∀ x0 x1, Statement (.vfrnd x0 x1) := fun _ _ => single rfl rfl (op_word ..) fun _ => rfl
theorem vfscale : ∀ x0 x1 x2, Statement (.vfscale x0 x1 x2) := fun _ _ _ => single rfl rfl (op_word ..) fun _ => rfl
theorem vfdot2 : ∀ x0 x1 x2, Statement (.vfdot2 x0 x1 x2) := fun _ _ _ => single rfl rfl (op_word ..) fun _ => rfl
theorem vqnt : ∀ x0 x1 x2, Statement (.vqnt x0 x1 x2) := fun _ _ _ => single rfl rfl (op_word ..) fun _ => rfl
theorem vdqnt : ∀ x0 x1 x2, Statement (.vdqnt x0 x1 x2) := fun _ _ _ => single rfl rfl (op_word ..) fun _ => rfl
theorem vtpack : ∀ x0 x1, Statement (.vtpack x0 x1) := fun _ _ => single rfl rfl (op_word ..) fun _ => rfl
theorem vtunpk : ∀ x0 x1 x2, Statement (.vtunpk x0 x1 x2) := fun _ _ _ => single rfl rfl (op_word ..) fun _ => rfl
theorem vshfl : ∀ x0 x1 x2, Statement (.vshfl x0 x1 x2) := fun _ _ _ => single rfl rfl (op_word ..) fun _ => rfl
theorem vsend : ∀ x0 x1 x2, Statement (.vsend x0 x1 x2) := fun _ _ _ => single rfl rfl (op_word ..) fun _ => rfl
theorem vrot : ∀ x0 x1 x2, Statement (.vrot x0 x1 x2) := fun _ _ _ => single rfl rfl (op_word ..) fun _ => rfl
theorem vbcl : ∀ x0 x1 x2, Statement (.vbcl x0 x1 x2) := fun _ _ _ => single rfl rfl (op_word ..) fun _ => rfl
theorem vred : ∀ x0 x1 x2, Statement (.vred x0 x1 x2) := fun _ _ _ => single rfl rfl (op_word ..) fun _ => rfl
theorem vscan : ∀ x0 x1 x2, Statement (.vscan x0 x1 x2) := fun _ _ _ => single rfl rfl (op_word ..) fun _ => rfl
theorem vballot : ∀ x0 x1, Statement (.vballot x0 x1) := fun _ _ => single rfl rfl (op_word ..) fun _ => rfl
theorem vmatch : ∀ x0 x1, Statement (.vmatch x0 x1) := fun _ _ => single rfl rfl (op_word ..) fun _ => rfl
theorem vcomp : ∀ x0 x1, Statement (.vcomp x0 x1) := fun _ _ => single rfl rfl (op_word ..) fun _ => rfl
theorem efadd : ∀ x0 x1 x2, Statement (.efadd x0 x1 x2) := fun _ _ _ => single rfl rfl (op_word ..) fun _ => rfl
theorem efsub : ∀ x0 x1 x2, Statement (.efsub x0 x1 x2) := fun _ _ _ => single rfl rfl (op_word ..) fun _ => rfl
theorem efmul : ∀ x0 x1 x2, Statement (.efmul x0 x1 x2) := fun _ _ _ => single rfl rfl (op_word ..) fun _ => rfl
theorem effma : ∀ x0 x1 x2, Statement (.effma x0 x1 x2) := fun _ _ _ => single rfl rfl (op_word ..) fun _ => rfl
theorem efdiv : ∀ x0 x1 x2, Statement (.efdiv x0 x1 x2) := fun _ _ _ => single rfl rfl (op_word ..) fun _ => rfl
theorem efsqrt : ∀ x0 x1, Statement (.efsqrt x0 x1) := fun _ _ => single rfl rfl (op_word ..) fun _ => rfl
theorem efcmp : ∀ x0 x1 x2 x3, Statement (.efcmp x0 x1 x2 x3) := fun _ _ _ _ => single rfl rfl (op_word ..) fun _ => rfl
theorem efcvt : ∀ x0 x1 x2, Statement (.efcvt x0 x1 x2) := fun _ _ _ => single rfl rfl (op_word ..) fun _ => rfl
theorem efcvto : ∀ x0 x1 x2, Statement (.efcvto x0 x1 x2) := fun _ _ _ => single rfl rfl (op_word ..) fun _ => rfl
theorem efrnd : ∀ x0 x1, Statement (.efrnd x0 x1) := fun _ _ => single rfl rfl (op_word ..) fun _ => rfl
theorem eflen : ∀ x0 x1, Statement (.eflen x0 x1) := fun _ _ => single rfl rfl (op_word ..) fun _ => rfl
theorem efneg : ∀ x0 x1, Statement (.efneg x0 x1) := fun _ _ => single rfl rfl (op_word ..) fun _ => rfl
theorem efabs : ∀ x0 x1, Statement (.efabs x0 x1) := fun _ _ => single rfl rfl (op_word ..) fun _ => rfl
theorem efld : ∀ x0 x1 x2, Statement (.efld x0 x1 x2) := fun _ _ _ => single rfl rfl (op_word ..) fun _ => rfl
theorem efst : ∀ x0 x1 x2, Statement (.efst x0 x1 x2) := fun _ _ _ => single rfl rfl (op_word ..) fun _ => rfl
theorem efldw : ∀ x0 x1 x2, Statement (.efldw x0 x1 x2) := fun _ _ _ => single rfl rfl (op_word ..) fun _ => rfl
theorem ldg8 : ∀ x0 x1 x2, Statement (.ldg8 x0 x1 x2) := fun _ _ _ => single rfl rfl (op_word ..) fun _ => rfl
theorem ldg16 : ∀ x0 x1 x2, Statement (.ldg16 x0 x1 x2) := fun _ _ _ => single rfl rfl (op_word ..) fun _ => rfl
theorem ldg32 : ∀ x0 x1 x2, Statement (.ldg32 x0 x1 x2) := fun _ _ _ => single rfl rfl (op_word ..) fun _ => rfl
theorem ldg64 : ∀ x0 x1 x2, Statement (.ldg64 x0 x1 x2) := fun _ _ _ => single rfl rfl (op_word ..) fun _ => rfl
theorem ldg128 : ∀ x0 x1 x2, Statement (.ldg128 x0 x1 x2) := fun _ _ _ => single rfl rfl (op_word ..) fun _ => rfl
theorem stg8 : ∀ x0 x1 x2, Statement (.stg8 x0 x1 x2) := fun _ _ _ => single rfl rfl (op_word ..) fun _ => rfl
theorem stg16 : ∀ x0 x1 x2, Statement (.stg16 x0 x1 x2) := fun _ _ _ => single rfl rfl (op_word ..) fun _ => rfl
theorem stg32 : ∀ x0 x1 x2, Statement (.stg32 x0 x1 x2) := fun _ _ _ => single rfl rfl (op_word ..) fun _ => rfl
theorem stg64 : ∀ x0 x1 x2, Statement (.stg64 x0 x1 x2) := fun _ _ _ => single rfl rfl (op_word ..) fun _ => rfl
theorem stg128 : ∀ x0 x1 x2, Statement (.stg128 x0 x1 x2) := fun _ _ _ => single rfl rfl (op_word ..) fun _ => rfl
theorem lds32 : ∀ x0 x1 x2, Statement (.lds32 x0 x1 x2) := fun _ _ _ => single rfl rfl (op_word ..) fun _ => rfl
theorem lds128 : ∀ x0 x1 x2, Statement (.lds128 x0 x1 x2) := fun _ _ _ => single rfl rfl (op_word ..) fun _ => rfl
theorem sts32 : ∀ x0 x1 x2, Statement (.sts32 x0 x1 x2) := fun _ _ _ => single rfl rfl (op_word ..) fun _ => rfl
theorem sts128 : ∀ x0 x1 x2, Statement (.sts128 x0 x1 x2) := fun _ _ _ => single rfl rfl (op_word ..) fun _ => rfl
theorem sld : ∀ x0 x1 x2, Statement (.sld x0 x1 x2) := fun _ _ _ => single rfl rfl (op_word ..) fun _ => rfl
theorem sst : ∀ x0 x1 x2, Statement (.sst x0 x1 x2) := fun _ _ _ => single rfl rfl (op_word ..) fun _ => rfl
theorem aadd : ∀ x0 x1 x2, Statement (.aadd x0 x1 x2) := fun _ _ _ => single rfl rfl (op_word ..) fun _ => rfl
theorem amin : ∀ x0 x1 x2, Statement (.amin x0 x1 x2) := fun _ _ _ => single rfl rfl (op_word ..) fun _ => rfl
theorem amax : ∀ x0 x1 x2, Statement (.amax x0 x1 x2) := fun _ _ _ => single rfl rfl (op_word ..) fun _ => rfl
theorem aand : ∀ x0 x1 x2, Statement (.aand x0 x1 x2) := fun _ _ _ => single rfl rfl (op_word ..) fun _ => rfl
theorem aor : ∀ x0 x1 x2, Statement (.aor x0 x1 x2) := fun _ _ _ => single rfl rfl (op_word ..) fun _ => rfl
theorem axor : ∀ x0 x1 x2, Statement (.axor x0 x1 x2) := fun _ _ _ => single rfl rfl (op_word ..) fun _ => rfl
theorem axchg : ∀ x0 x1 x2, Statement (.axchg x0 x1 x2) := fun _ _ _ => single rfl rfl (op_word ..) fun _ => rfl
theorem acas : ∀ x0 x1 x2, Statement (.acas x0 x1 x2) := fun _ _ _ => single rfl rfl (op_word ..) fun _ => rfl
theorem afadd : ∀ x0 x1 x2, Statement (.afadd x0 x1 x2) := fun _ _ _ => single rfl rfl (op_word ..) fun _ => rfl
theorem saadd : ∀ x0 x1, Statement (.saadd x0 x1) := fun _ _ => single rfl rfl (op_word ..) fun _ => rfl
theorem cpy : ∀ x0 x1 x2, Statement (.cpy x0 x1 x2) := fun _ _ _ => single rfl rfl (op_word ..) fun _ => rfl
theorem cpyt : ∀ x0 x1 x2 x3, Statement (.cpyt x0 x1 x2 x3) := fun _ _ _ _ => single rfl rfl (op_word ..) fun _ => rfl
theorem pref : ∀ x0 x1, Statement (.pref x0 x1) := fun _ _ => single rfl rfl (op_word ..) fun _ => rfl
theorem invl : ∀ x0 x1, Statement (.invl x0 x1) := fun _ _ => single rfl rfl (op_word ..) fun _ => rfl
theorem sacas : ∀ x0 x1, Statement (.sacas x0 x1) := fun _ _ => single rfl rfl (op_word ..) fun _ => rfl
theorem mma : ∀ x0 x1 x2 x3 x4, Statement (.mma x0 x1 x2 x3 x4) := fun _ _ _ _ _ => single rfl rfl (op_of ..) fun _ => rfl
theorem mmar : ∀ x0 x1 x2 x3 x4, Statement (.mmar x0 x1 x2 x3 x4) := fun _ _ _ _ _ => single rfl rfl (op_of ..) fun _ => rfl
theorem accz : ∀ x0, Statement (.accz x0) := fun _ => single rfl rfl (op_word ..) fun _ => rfl
theorem accld : ∀ x0 x1, Statement (.accld x0 x1) := fun _ _ => single rfl rfl (op_word ..) fun _ => rfl
theorem accst : ∀ x0 x1 x2, Statement (.accst x0 x1 x2) := fun _ _ _ => single rfl rfl (op_word ..) fun _ => rfl
theorem accdr : ∀ x0 x1 x2 x3, Statement (.accdr x0 x1 x2 x3) := fun _ _ _ _ => double rfl rfl (op_word ..) rfl
theorem accrd : ∀ x0 x1, Statement (.accrd x0 x1) := fun _ _ => single rfl rfl (op_word ..) fun _ => rfl
theorem accwr : ∀ x0 x1, Statement (.accwr x0 x1) := fun _ _ => single rfl rfl (op_word ..) fun _ => rfl
theorem mwait : Statement (.mwait) := single rfl rfl (op_word ..) fun _ => rfl
theorem mscl : ∀ x0 x1, Statement (.mscl x0 x1) := fun _ _ => single rfl rfl (op_word ..) fun _ => rfl
theorem glzcfg : ∀ x0 x1, Statement (.glzcfg x0 x1) := fun _ _ => single rfl rfl (op_word ..) fun _ => rfl
theorem glzjoin : ∀ x0, Statement (.glzjoin x0) := fun _ => single rfl rfl (op_word ..) fun _ => rfl
theorem glzend : Statement (.glzend) := single rfl rfl (op_word ..) fun _ => rfl
theorem glzbar : Statement (.glzbar) := single rfl rfl (op_word ..) fun _ => rfl
theorem glzcin : ∀ x0, Statement (.glzcin x0) := fun _ => single rfl rfl (op_word ..) fun _ => rfl
theorem glzleave : Statement (.glzleave) := single rfl rfl (op_word ..) fun _ => rfl
theorem ill : Statement (.ill) := single rfl rfl (op_word ..) fun _ => rfl
theorem handleEntryDrop : ∀ x0, Statement (.handleEntryDrop x0) := fun _ => event rfl
theorem srwaysPublish : ∀ x0, Statement (.srwaysPublish x0) := fun _ => event rfl
theorem undefined_op (op : BitVec 8) : WellFormed (.undefinedOpcode op) = true → takesExtension op = false := by
  revert op; decide

theorem undefinedOpcode : ∀ x0, Statement (.undefinedOpcode x0) := fun x0 => single rfl rfl (op_word ..) (undefined_op x0)
theorem copyRow : ∀ x0 x1, Statement (.copyRow x0 x1) := fun _ _ => event rfl
theorem matrixPassStart : ∀ x0, Statement (.matrixPassStart x0) := fun _ => event rfl
theorem matrixOpComplete : ∀ x0 x1, Statement (.matrixOpComplete x0 x1) := fun _ _ => event rfl
theorem accdrMerge : ∀ x0 x1, Statement (.accdrMerge x0 x1) := fun _ _ => event rfl
theorem sfuResult : ∀ x0 x1, Statement (.sfuResult x0 x1) := fun _ _ => event rfl
theorem glazeElementAccept : ∀ x0, Statement (.glazeElementAccept x0) := fun _ => event rfl
theorem glazeCarryArrive : ∀ x0 x1, Statement (.glazeCarryArrive x0 x1) := fun _ _ => event rfl
theorem glazeRoundComplete : ∀ x0 x1, Statement (.glazeRoundComplete x0 x1) := fun _ _ => event rfl
theorem glazeResultDeliver : ∀ x0 x1, Statement (.glazeResultDeliver x0 x1) := fun _ _ => event rfl
theorem groupEnd : ∀ x0, Statement (.groupEnd x0) := fun _ => event rfl
theorem teamAdmit : ∀ x0, Statement (.teamAdmit x0) := fun _ => event rfl
theorem teamRestore : ∀ x0, Statement (.teamRestore x0) := fun _ => event rfl
theorem forcedSave : ∀ x0 x1, Statement (.forcedSave x0 x1) := fun _ _ => event rfl
theorem forwardProgressSwap : ∀ x0, Statement (.forwardProgressSwap x0) := fun _ => event rfl
theorem drainLimitSave : ∀ x0 x1, Statement (.drainLimitSave x0 x1) := fun _ _ => event rfl
theorem wcbDrain : ∀ x0 x1, Statement (.wcbDrain x0 x1) := fun _ _ => event rfl
theorem sliceRequest : ∀ x0 x1 x2, Statement (.sliceRequest x0 x1 x2) := fun _ _ _ => event rfl
theorem edgeMemoryRequest : ∀ x0 x1, Statement (.edgeMemoryRequest x0 x1) := fun _ _ => event rfl
theorem loadResponse : ∀ x0 x1, Statement (.loadResponse x0 x1) := fun _ _ => event rfl
theorem signaturePublish : ∀ x0, Statement (.signaturePublish x0) := fun _ => event rfl
theorem governorPeriod : ∀ x0 x1 x2 x3 x4, Statement (.governorPeriod x0 x1 x2 x3 x4) := fun _ _ _ _ _ => event rfl
theorem powerLimitPeriod : ∀ x0, Statement (.powerLimitPeriod x0) := fun _ => event rfl
theorem waitForWalk : Statement (.waitForWalk) := event rfl
theorem knotBreakDeliver : ∀ x0, Statement (.knotBreakDeliver x0) := fun _ => event rfl
theorem occupancyReport : ∀ x0, Statement (.occupancyReport x0) := fun _ => event rfl
theorem waitReread : ∀ x0, Statement (.waitReread x0) := fun _ => event rfl
theorem headStart : Statement (.headStart) := event rfl
theorem recordRead : ∀ x0, Statement (.recordRead x0) := fun _ => event rfl
theorem recordReread : ∀ x0, Statement (.recordReread x0) := fun _ => event rfl
theorem teamHandout : Statement (.teamHandout) := event rfl
theorem launchComplete : ∀ x0, Statement (.launchComplete x0) := fun _ => event rfl
theorem completionRecord : ∀ x0, Statement (.completionRecord x0) := fun _ => event rfl
theorem launchStop : ∀ x0, Statement (.launchStop x0) := fun _ => event rfl
theorem qkick : ∀ x0 x1, Statement (.qkick x0 x1) := fun _ _ => event rfl
theorem qcfg : ∀ x0 x1, Statement (.qcfg x0 x1) := fun _ _ => event rfl
theorem qctlCancel : ∀ x0, Statement (.qctlCancel x0) := fun _ => event rfl
theorem qctlRenumber : ∀ x0, Statement (.qctlRenumber x0) := fun _ => event rfl
theorem lcmdDrain : ∀ x0, Statement (.lcmdDrain x0) := fun _ => event rfl
theorem lcmdResume : ∀ x0, Statement (.lcmdResume x0) := fun _ => event rfl
theorem lcmdAbort : ∀ x0, Statement (.lcmdAbort x0) := fun _ => event rfl
theorem invcmdTlb : ∀ x0 x1 x2, Statement (.invcmdTlb x0 x1 x2) := fun _ _ _ => event rfl
theorem invcmdHnd : ∀ x0, Statement (.invcmdHnd x0) := fun _ => event rfl
theorem invalidationComplete : Statement (.invalidationComplete) := event rfl
theorem chead : ∀ x0 x1, Statement (.chead x0 x1) := fun _ _ => event rfl
theorem controlRegisterWrite : ∀ x0 x1, Statement (.controlRegisterWrite x0 x1) := fun _ _ => event rfl
theorem mbAttest : Statement (.mbAttest) := event rfl
theorem mbCertificate : Statement (.mbCertificate) := event rfl
theorem mbKeyLoad : ∀ x0 x1, Statement (.mbKeyLoad x0 x1) := fun _ _ => event rfl
theorem mbKeyUnload : ∀ x0, Statement (.mbKeyUnload x0) := fun _ => event rfl
theorem mbRaiseSvn : Statement (.mbRaiseSvn) := event rfl
theorem hostHdmAccess : ∀ x0 x1, Statement (.hostHdmAccess x0 x1) := fun _ _ => event rfl
theorem hostWindowCompletion : ∀ x0 x1 x2, Statement (.hostWindowCompletion x0 x1 x2) := fun _ _ _ => event rfl
theorem hostRequestTimeout : ∀ x0, Statement (.hostRequestTimeout x0) := fun _ => event rfl
theorem fabricInboundRequest : ∀ x0, Statement (.fabricInboundRequest x0) := fun _ => event rfl
theorem fabricResponse : ∀ x0 x1 x2, Statement (.fabricResponse x0 x1 x2) := fun _ _ _ => event rfl
theorem fabricResponseTimeout : ∀ x0, Statement (.fabricResponseTimeout x0) := fun _ => event rfl
theorem portStateChange : ∀ x0 x1, Statement (.portStateChange x0 x1) := fun _ _ => event rfl
theorem bringUp : ∀ x0 x1, Statement (.bringUp x0 x1) := fun _ _ => event rfl
theorem functionLevelReset : Statement (.functionLevelReset) := event rfl
theorem eccError : ∀ x0 x1, Statement (.eccError x0 x1) := fun _ _ => event rfl
theorem selfTest : ∀ x0 x1, Statement (.selfTest x0 x1) := fun _ _ => event rfl
theorem wearPrediction : ∀ x0 x1 x2, Statement (.wearPrediction x0 x1 x2) := fun _ _ _ => event rfl
theorem segmentLoad : ∀ x0, Statement (.segmentLoad x0) := fun _ => event rfl
theorem travellerDeparture : ∀ x0, Statement (.travellerDeparture x0) := fun _ => event rfl
theorem packetArrival : ∀ x0, Statement (.packetArrival x0) := fun _ => event rfl
theorem travellerAdmission : ∀ x0, Statement (.travellerAdmission x0) := fun _ => event rfl
theorem spawnAllocate : ∀ x0, Statement (.spawnAllocate x0) := fun _ => event rfl
theorem segmentReplication : ∀ x0 x1, Statement (.segmentReplication x0 x1) := fun _ _ => event rfl
theorem travellerProgressSwap : ∀ x0, Statement (.travellerProgressSwap x0) := fun _ => event rfl

end Sys2Proof.Laws.Encoding
end

