-- ==== Sys2Proof/Tests/Slice0.lean ====
section
/-!
SUPPORT. Small checks of the model: ill-formed terms refused, words of the spec's encodings decoded, and for each statement a
state and operands that meet its hypotheses together.
-/
set_option maxRecDepth 100000
namespace Sys2Proof.Tests
open Sys2Proof Sys2Proof.Machine Sys2Proof.Safety

/-! ## Helpers -/

/-- A state with one group of 32 lanes about to issue at its joined set. -/
def base : State := { State.reset.withFetchWord 32 0 with cur := { group := 1 } }

/-- The same with a change of the group. -/
def onGroup (f : Group → Group) : State := base.onG f

/-- The same with a change of its strands. -/
def onStrands (f : Strand → Strand) : State := onGroup fun g => { g with strands := g.strands.map f }

/-- The same in a MODE. -/
def inMode (m : BitVec 24) : State := onStrands fun x => { x with mode := m }

/-- The same with a change of its launch. -/
def onLaunch (f : Launch → Launch) : State := base.onLaunch 1 f

/-- One resident group of one strand, the only one of its team. -/
def lone (f : Strand → Strand) : State := onGroup fun g => { g with strands := [f { pc := 0x10004, live := BitVec.allOnes 64 }] }

theorem stays_of {s : State} {w : Nat} (h : s.g.trav = none) : Stays s w := by
  intro tr ht; rw [h] at ht; cases ht

theorem staysBy_of {s : State} {f : Nat → Strand → Strand} (h : s.g.trav = none) : StaysBy s f := by
  intro tr ht; rw [h] at ht; cases ht

theorem resident_of {s : State} (h : s.g.trav = none) : Resident s := by
  intro tr ht; rw [h] at ht; cases ht

/-! ## Well-formedness: each limit refuses a term beyond it -/

theorem test_wf_loop : WellFormed (.loop 3 0 1) = false ∧ WellFormed (.loop 0 0 0) = false := by decide
theorem test_wf_leave : WellFormed (.leave 3) = false := by decide
theorem test_wf_sys : WellFormed (.sysr (.s 0) 0x017) = false ∧ WellFormed (.sysw (.s 0) 0x306) = false := by decide
theorem test_wf_bar : WellFormed (.bar 16) = false ∧ WellFormed (.bara 16) = false ∧ WellFormed (.barw 255) = false := by decide
theorem test_wf_palette : WellFormed (.paltake 0) = false ∧ WellFormed (.paltry 0 12) = false ∧ WellFormed (.palgive 12) = false := by decide
theorem test_wf_srcfg : WellFormed (.srcfg (.s 0) 5) = false := by decide
theorem test_wf_shifts : WellFormed (.sshli (.s 0) (.s 0) 64) = false ∧ WellFormed (.sshri (.s 0) (.s 0) 64) = false ∧
    WellFormed (.ssrai (.s 0) (.s 0) 64) = false ∧ WellFormed (.vshli (.v 0) (.v 0) 32) = false ∧
    WellFormed (.vshri (.v 0) (.v 0) 32) = false ∧ WellFormed (.vsrai (.v 0) (.v 0) 32) = false := by decide
theorem test_wf_sid : WellFormed (.sid (.s 0) 8) = false := by decide
theorem test_wf_types : WellFormed (.vcvt (.v 0) (.v 0) 12) = false ∧ WellFormed (.vcvti (.v 0) (.v 0) 12) = false ∧
    WellFormed (.efcvt (.v 0) (.v 0) 12) = false ∧ WellFormed (.efcvto (.v 0) (.v 0) 12) = false := by decide
theorem test_wf_lanes : WellFormed (.vbcl (.v 0) (.v 0) 64) = false ∧ WellFormed (.vred (.v 0) (.v 0) 9) = false ∧
    WellFormed (.vscan (.v 0) (.v 0) 9) = false ∧ WellFormed (.vscan (.v 0) (.v 0) 0x20) = false := by decide
theorem test_wf_copies : WellFormed (.cpy 0 16 (.s 0)) = false ∧ WellFormed (.cpyt 0 4 (.s 0) (.s 1)) = false := by decide
theorem test_wf_undefined : WellFormed (.undefinedOpcode 0x20) = false ∧ WellFormed (.undefinedOpcode 0x3F) = true := by decide
theorem test_wf_events : WellFormed (.wcbDrain 128 0) = false ∧ WellFormed (.sfuResult 1 64) = false ∧
    WellFormed (.teamAdmit 8) = false ∧ WellFormed (.sliceRequest 0 16 0) = false ∧ WellFormed (.edgeMemoryRequest 2 0) = false ∧
    WellFormed (.glazeCarryArrive 1 128) = false ∧ WellFormed (.qcfg 1024 0) = false ∧ WellFormed (.lcmdDrain (2 ^ 32)) = false ∧
    WellFormed (.governorPeriod 0 0 0 2 1) = false ∧ WellFormed (.controlRegisterWrite 0x40000 0) = false := by decide
theorem test_wf_accesses : WellFormed (.hostHdmAccess 8 none) = false ∧
    WellFormed (.fabricInboundRequest { op := .load, addr := 4, size := 8, src := 0, data := 0, mode := 0, draw := 0, lane := 0, pc := 0 }) = false ∧
    WellFormed (.eccError (.accStore 0 256) false) = false := by decide

/-! ## Decoding: a word of each pattern, written out from R85, R88 and R91 -/

theorem test_decode_n : decode 0x00000000 7 = .ok .nop := by decide
theorem test_decode_zero_field : decode 0x01000001 0 = .reserved := by decide
theorem test_decode_j : decode 0x02FFFFFE 0 = .ok (.bra 0xFFFFFE) := by decide
theorem test_decode_br : decode 0x03B00005 0 = .ok (.brc 5 true 5) := by decide
theorem test_decode_loop : decode 0x08850010 0 = .ok (.loop 2 5 16) := by decide
theorem test_decode_loop_level : decode 0x08C50010 0 = .reserved := by decide
theorem test_decode_sr : decode 0x0FC10020 0 = .ok (.sysr (.s 1) 0x20) := by decide
theorem test_decode_s3 : decode 0x20C1C2C3 0 = .ok (.sadd (.s 1) (.s 2) (.s 3)) := by decide
theorem test_decode_sc : decode 0x2F13C0FF 0 = .ok (.scmp 3 .lt (.s 0) (.s 63)) := by decide
theorem test_decode_cond : decode 0x2F33C0FF 0 = .reserved := by decide
theorem test_decode_sx : decode 0x32C40000 0xFFFFFFFF = .ok (.smovx (.s 4) 0xFFFFFFFF) := by decide
theorem test_decode_vx : decode 0x4F050607 3 = .ok (.vsel (.v 5) 3 (.v 6) (.v 7)) := by decide
theorem test_decode_vx_extension : decode 0x4F050607 8 = .reserved := by decide
theorem test_decode_v3 : decode 0x4001B0C2 0 = .ok (.vadd (.v 1) (.q 0) (.s 2)) := by decide
theorem test_decode_vt : decode 0x75AF0A0B 0 = .ok (.vcvt (.v 175) (.v 10) 11) := by decide
theorem test_decode_cross : decode 0x80010203 0 = .ok (.vshfl (.v 1) (.v 2) (.v 3)) := by decide
theorem test_decode_elastic : decode 0x90102030 0 = .ok (.efadd (.v 16) (.v 32) (.v 48)) := by decide
theorem test_decode_gl : decode 0xA201C205 0 = .ok (.ldg32 (.v 1) (.s 2) (.v 5)) := by decide
theorem test_decode_c : decode 0xBAA9C300 0 = .ok (.cpy 5 9 (.s 3)) := by decide
theorem test_decode_m : decode 0xC00830C5 0 = .ok (.mma 2 3 0 3 5) := by decide
theorem test_decode_glaze : decode 0xD000C4C5 0 = .ok (.glzcfg (.s 4) (.s 5)) := by decide
theorem test_decode_undefined : decode 0xFF123456 0 = .ok (.undefinedOpcode 0xFF) := by decide
/-! Words printed in the spec's own sections, as they stand there. -/

theorem test_decode_printed_scalar : decode 0x20CCCCC3 0 = .ok (.sadd (.s 12) (.s 12) (.s 3)) ∧
    decode 0x2F11C3C4 0 = .ok (.scmp 1 .lt (.s 3) (.s 4)) ∧ decode 0x30CCCCFC 0 = .ok (.saddi (.s 12) (.s 12) 0xFC) ∧
    decode 0xAEC7CA02 0 = .ok (.sld (.s 7) (.s 10) 2) ∧ decode 0x0FD40003 0 = .ok (.sysr (.s 20) 0x003) := by decide
theorem test_decode_printed_lanes : decode 0x5A010203 0 = .ok (.pand 1 2 3) ∧ decode 0x59B40300 0 = .ok (.vmov (.q 4) (.v 3)) ∧
    decode 0x630804C2 0 = .ok (.vfma (.v 8) (.v 4) (.s 2)) ∧ decode 0x75050108 0 = .ok (.vcvt (.v 5) (.v 1) 8) ∧
    decode 0x84030206 0 = .ok (.vred (.v 3) (.v 2) 6) ∧ decode 0x90140A1E 0 = .ok (.efadd (.v 20) (.v 10) (.v 30)) := by decide
theorem test_decode_printed_memory : decode 0xA20402CA 0 = .ok (.ldg32 (.v 4) (.v 2) (.s 10)) ∧
    decode 0xA70502CA 0 = .ok (.stg32 (.v 5) (.v 2) (.s 10)) ∧ decode 0xAA060102 0 = .ok (.lds32 (.v 6) (.v 1) 2) ∧
    decode 0xB00302CA 0 = .ok (.aadd (.v 3) (.v 2) (.s 10)) ∧ decode 0xBA01C600 0 = .ok (.cpy 0 1 (.s 6)) := by decide
theorem test_decode_printed_units : decode 0xC028B04C 0 = .ok (.mma 10 11 0 1 12) ∧ decode 0xD000D5D6 0 = .ok (.glzcfg (.s 21) (.s 22)) ∧
    decode 0x1808CACB 0 = .ok (.spawn (.v 8) (.s 10) (.s 11)) ∧ decode 0x1D00CACB 0 = .ok (.pin (.s 10) (.s 11)) ∧
    decode 0x15010001 0 = .ok (.paltry 1 1) ∧ decode 0x09400000 0 = .ok (.leave 1) ∧
    decode 0x1CC50008 0 = .ok (.srcfg (.s 5) 8) ∧ decode 0xC5C6C9C7 2 = .ok (.accdr (.s 6) (.s 9) (.s 7) 2) := by decide
theorem test_decode_table : decodeTableWord 64 0x00000005_32C40000 = some (.smovx (.s 4) 5) := by decide

/-- The word placed after reset is fetched and run by the next step, which passes it. -/
theorem test_first_step : (match step (State.reset.withFetchWord 32 0) with
    | .next t => (t.grp 1).strands.map (·.pc) | _ => []) = List.replicate 8 0x10008 := by decide

/-! ## Hypotheses met: scalar, lane and elastic instructions -/

theorem test_roundtrip_met : WellFormed (.sadd (.s 1) (.s 2) (.s 63)) = true ∧
    encode (.sadd (.s 1) (.s 2) (.s 63)) = some (0x20C1C2FF, 0) ∧ Instr.words (.sadd (.s 1) (.s 2) (.s 63)) = 1 := by decide

theorem test_roundtrip_two_words_met : WellFormed (.ssel (.s 0) 7 (.s 1) (.s 2)) = true ∧
    encode (.ssel (.s 0) 7 (.s 1) (.s 2)) = some (0x3EC0C1C2, 7) := by decide

theorem test_scalar_met : ∃ x, ScalarRule base (.sadd (.s 1) (.s 2) (.s 3)) [.s 2, .s 3] (.s 1) x ∧
    ScalarCodes base [.s 1, .s 2, .s 3] ∧ base.bus = [] ∧ Stays base 1 :=
  ⟨_, .sadd .., by simp only [ScalarCodes, List.forall_mem_cons]; exact ⟨⟨1, rfl, by decide⟩, ⟨2, rfl, by decide⟩, ⟨3, rfl, by decide⟩, by simp⟩,
    rfl, stays_of rfl⟩

theorem test_scalar_class_met : ∃ x, ScalarRule base (.sadd (.s 1) (.v 0) (.s 3)) [.v 0, .s 3] (.s 1) x ∧
    ([Reg.s 1, .v 0, .s 3].any base.badS) = true ∧ base.bus = [] := ⟨_, .sadd .., by decide, rfl⟩

theorem test_integer_met : ∃ P, IntRule base (.vadd (.v 1) (.v 2) (.s 3)) (uses base (.v 1) [.v 2, .s 3] false true) (.v 1) P ∧
    OperandsReady base (uses base (.v 1) [.v 2, .s 3] false true) ∧ base.bus = [] ∧ Stays base 1 ∧ base.lanes.length = 32 :=
  ⟨_, .vadd .., ⟨by decide, by decide, by decide⟩, rfl, stays_of rfl, by decide⟩

theorem test_integer_push_met : let s := inMode 0x100
    ∃ P, IntRule s (.vmov (.q 4) (.v 175)) (uses s (.q 4) [.v 175] false true) (.q 4) P ∧
    OperandsReady s (uses s (.q 4) [.v 175] false true) := ⟨_, .vmov .., by decide, by decide, by decide⟩

theorem test_float_met : let s := inMode 0x100
    ∃ P, FloatRule s (.vfma (.v 1) (.v 2) (.v 3)) (usesF s (.v 1) [.v 2, .v 3] true) (.v 1) 1 P ∧
    OperandsReady s (usesF s (.v 1) [.v 2, .v 3] true) ∧ s.bus = [] ∧ Stays s 1 :=
  ⟨_, .vfma .., ⟨by decide, by decide, by decide⟩, rfl, stays_of rfl⟩

theorem test_predicate_met : ∃ f, PredRule base (.pand 7 0 1) {} 7 base.lanes f ∧ OperandsReady base {} ∧ base.bus = [] ∧ Stays base 1 :=
  ⟨_, .pand .., ⟨by decide, by decide, by decide⟩, rfl, stays_of rfl⟩

theorem test_scmp_met : ∃ f, PredRule base (.scmp 0 .lt (.s 0) (.s 63)) {} 0 base.setLanes f := ⟨_, .scmp _ _ _ _ (by decide) (by decide)⟩

theorem test_cross_met : ∃ P, CrossRule base (.vrot (.v 1) (.v 2) (.v 3)) (base.moveUses (.v 1) (.v 2) (some (.v 3))) (.v 1) (fun _ => 0) base.lanes P ∧
    OperandsReady base (base.moveUses (.v 1) (.v 2) (some (.v 3))) ∧ base.bus = [] ∧ Stays base 1 :=
  ⟨_, .vrot .., ⟨by decide, by decide, by decide⟩, rfl, stays_of rfl⟩

theorem test_ternary_met : OperandsReady base { srcs := [(.v 0, 1)], dsts := [(.v 4, 4)], noq := true } ∧ base.bus = [] ∧ Stays base 1 :=
  ⟨⟨by decide, by decide, by decide⟩, rfl, stays_of rfl⟩

theorem test_elastic_met : let s := inMode 0x2160
    ∃ x, EfRule s (.efadd (.v 10) (.v 2) (.v 3)) [.v 2, .v 3] {} (.v 10) x ∧ WindowsReady s [.v 2, .v 3] (some (.v 10)) {} ∧
    mExact s.mode = true ∧ (∀ l ∈ s.lanes, efExhausted s.prec (x l) = none) ∧
    s.bus = [] ∧ Stays s 1 :=
  ⟨_, .efadd .., ⟨by decide, by decide, by decide, by decide⟩, by decide, by decide, rfl, stays_of rfl⟩

theorem test_elastic_exhausted_met : let s := (inMode 0x2160).onG fun g => { g with v := [(128, 0x7FFFFFFF)] }
    ∃ x e, EfRule s (.efcvt (.v 10) (.v 2) 0) [] { srcs := [(.v 2, 1)], typeOk := true } (.v 10) x ∧
    WindowsReady s [] (some (.v 10)) { srcs := [(.v 2, 1)], typeOk := true } ∧ mExact s.mode = true ∧ 0 ∈ s.lanes ∧
    efExhausted s.prec (x 0) = some e ∧ (∀ m ∈ s.lanes, m < 0 → efExhausted s.prec (x m) = none) ∧ s.bus = [] :=
  ⟨_, _, .efcvt .., ⟨by decide, by decide, by decide, by decide⟩, by decide, by decide, by rfl, by simp, rfl⟩

theorem test_elastic_window_met : let s := inMode 0x160
    (∃ x, EfRule s (.efadd (.v 175) (.v 2) (.v 3)) [.v 2, .v 3] {} (.v 175) x) ∧ 0 ∈ s.lanes ∧ s.bus = [] ∧
    (∃ x, EfRule (inMode 0) (.efadd (.v 8) (.v 2) (.v 3)) [.v 2, .v 3] {} (.v 8) x) ∧
    WindowClass (inMode 0) [.v 2, .v 3] (some (.v 8)) {} := by
  refine ⟨⟨_, .efadd ..⟩, by decide, rfl, ⟨_, .efadd ..⟩, .inl (by decide)⟩

theorem classed {s : State} (h : mType s.mode = 11) (k : Fin 176) : ¬ WindowClass s [.v k, .v k] none {} := by
  rintro (h1 | ⟨r, hr, h1⟩ | h1 | ⟨_, h1, _⟩ | ⟨_, h1, _⟩)
  · exact h1 h
  · simp only [Option.toList, List.append_nil, List.mem_cons, List.not_mem_nil, or_false, or_self] at hr; exact h1 k hr
  · cases h1
  · simp at h1
  · simp at h1

theorem test_elastic_past_met : let s := (inMode 0x160).onG fun g => { g with v := [(175 * 64, 0x1000)] }
    WindowForm s (.efcmp 0 .lt (.v 175) (.v 175)) [.v 175, .v 175] none {} ∧ ¬ WindowClass s [.v 175, .v 175] none {} ∧
    0 ∈ s.lanes ∧ WindowPast s [.v 175, .v 175] none 0 ∧ s.bus = [] :=
  ⟨.efcmp .., classed (by decide) 175, by decide, .inl ⟨.v 175, by simp, by decide⟩, rfl⟩

/-- Sixteen registers held, one word of each window's header set. -/
def few (n : Nat) : State := (inMode 0x160).onG fun g => { g with held := 16, v := (List.range 64).map fun l => (n * 64 + l, 0x1000) }

theorem test_elastic_base_met : let s := few 16
    ¬ WindowClass s [.v 16, .v 16] none {} ∧ (∀ l ∈ s.lanes, windowEnd s (.v 16) l ≤ 175) ∧ BaseNotHeld s [.v 16, .v 16] none {} :=
  ⟨classed (by decide) 16, by decide, .inl ⟨.v 16, by simp, by decide⟩⟩

theorem test_elastic_held_met : let s := few 15
    ¬ WindowClass s [.v 15, .v 15] none {} ∧ regIdx (.v 15) < s.g.held ∧ 0 ∈ s.lanes ∧ WindowNotHeld s [.v 15, .v 15] none 0 :=
  ⟨classed (by decide) 15, by decide, by decide, .inl ⟨.v 15, by simp, by decide⟩⟩

theorem test_elastic_outputs_met : let s := inMode 0x160
    WindowsReady s [.v 2, .v 3] none {} ∧ WindowsReady s [.v 2] none { dsts := [(.v 4, 2)], typeOk := true } ∧ s.bus = [] ∧ Stays s 1 :=
  ⟨⟨by decide, by decide, by decide, by decide⟩, ⟨by decide, by decide, by decide, by decide⟩, rfl, stays_of rfl⟩

/-! ## Hypotheses met: control -/

theorem target_entry : TargetOk base 0x10004 true :=
  ⟨by decide, by decide, 0xFFFFFFFF, by rfl, by decide, fun _ => by decide⟩

theorem test_moves_met : MoveRule base .nop (fun _ x => landed x (seqNext x.pc 1)) ∧ base.bus = [] ∧ StaysBy base (fun _ x => landed x (seqNext x.pc 1)) :=
  ⟨.nop, rfl, staysBy_of rfl⟩

theorem test_call_met : MoveRule base (.call 0) (fun _ x => landed { x with lk := BitVec.ofNat 64 ((seqNext x.pc 1).toNat % 2 ^ 57) } (base.pc + (0 : BitVec 24).signExtend 64 * 4)) :=
  .call 0 target_entry

theorem test_brc_met : MoveRule base (.brc 1 false 0) (fun _ x => landed x (seqNext x.pc 1)) := by
  refine .brc 1 false 0 _ fun k hk => ⟨0, ?_, by simp, .no rfl⟩
  intro i hi
  have hp : base.g.p = [(0, 0xFFFFFFFF)] := rfl
  simp [Group.pr, hp, tget, tfind]

theorem test_setm_met : MoveRule base (.setm 0x000160) (fun _ x => landed { x with mode := 0x000160 } (seqNext x.pc 1)) :=
  .setm _ (by decide) (by decide) (by decide) (by decide)

theorem test_setm_trap_met : TrapRule base (.setm 0x0FFFFF) { cause := 0x02 } := .setm _ (by decide)

theorem test_setp_met : MoveRule base (.setp 237) (fun _ x => landed { x with prec := 237 } (seqNext x.pc 1)) := .setp 237 (by decide)

theorem test_sysw_strand_met : MoveRule base (.sysw (.s 0) 0x00A) (fun _ x => landed (x.setLoop 2 { x.loop 2 with count := 0 }) (seqNext x.pc 1)) :=
  .sysw 0 0x00A _ (by decide) (.loop 2 (by decide))

theorem test_control_traps_met : TrapRule base (.trap 7) { cause := 0x38, taddr := base.pc, imm := 7, low := 1 } ∧
    TrapRule base (.setp 238) { cause := 0x06 } ∧ TrapRule base (.jmpr (.v 0)) { cause := 0x03 } ∧
    TrapRule base (.jmpr (.s 0)) { cause := 0x09, taddr := 0 } ∧ base.bus = [] :=
  ⟨.trap 7, .setp 238 (by decide), TrapRule.jmprClass _ (fun _ h => by cases h), .jmpr 0 _ (by decide) (.header (by decide) (by decide)), rfl⟩

/-- Three strands with links that are no word, a header, and a slot, under a handler. -/
def parted : State :=
  (onGroup fun g => { g with strands := [2, 0, 0x10004].map fun lk => { pc := 0x10004, lk } }).onLaunch 1 fun l =>
    { l with lrec := { l.lrec with handler := 0x20004 } }

theorem test_strands_fare_met : parted.ks = [0, 1, 2] ∧ parted.bus = [] ∧ parted.g.trav = none ∧ parted.cur.jset < parted.nextKey ∧
    StrandRule parted .ret 0 (.inl { cause := 0x0A, taddr := 2 }) ∧ StrandRule parted .ret 1 (.inl { cause := 0x09, taddr := 0 }) ∧
    StrandRule parted .ret 2 (.inr (landed (parted.g.strand 2) (parted.g.strand 2).lk)) :=
  ⟨by decide, rfl, rfl, by decide, .retBad 0 _ (.unaligned (by decide)), .retBad 1 _ (.header (by decide) (by decide)),
    .ret 2 ⟨by decide, by decide, 0xFFFFFFFF, by rfl, by decide, fun h => by cases h⟩⟩

theorem test_leave_trap_met : let s := lone fun x => x.setLoop 2 { count := 1, stop := 0x10002 }
    TrapRule s (.leave 2) { cause := 0x0A, taddr := 0x10002 } ∧ StrandRule s (.leave 1) 0 (.inr (landed (s.g.strand 0) (seqNext (s.g.strand 0).pc 1))) :=
  ⟨.leave 2 0 _ (by decide) (by decide) (.unaligned (by decide)), .leaveNone 0 1 (by decide)⟩

/-- R124: the level that reaches zero hands on to the next lower one, which goes round, and the lowest is left alone. -/
theorem test_loop_end : let x : Strand := { pc := 0x40, loops := [(0, ⟨5, 4, 0x40⟩), (1, ⟨3, 8, 0x40⟩), (2, ⟨1, 12, 0x40⟩)] }
    let y := x.arrive [2, 1, 0]
    y.pc = 8 ∧ (y.loop 2).count = 0 ∧ (y.loop 1).count = 2 ∧ (y.loop 0).count = 5 := by decide

theorem test_part_met : MoveRule base .nop (fun _ x => landed x (seqNext x.pc 1)) ∧ base.bus = [] ∧ base.g.trav = none ∧ base.cur.jset < base.nextKey :=
  ⟨.nop, rfl, rfl, by decide⟩

theorem test_exit_met : base.bus = [] ∧ base.g.trav = none ∧ (∀ k ∈ base.ks, (base.g.strand k).arrived = false) ∧ base.ks.length = 8 := by decide

theorem test_regang_paths_met : let s := onStrands fun x => { x with stack := [{ mask := 3, pc := 0x10008 }], amask := 12 }
    s.bus = [] ∧ s.g.trav = none ∧ s.ks ≠ [] ∧ ∀ k ∈ s.ks, (s.g.strand k).arrived = false ∧ (s.g.strand k).stack ≠ [] ∧
      ((s.g.strand k).parked = 0 ∨ (s.g.strand k).parkPc = (s.g.strand k).pc) := by decide

/-- The second of two strands stands in another joined set, arrived at the REGANG or not. -/
def two (arrived : Bool) : State := onGroup fun g => { g with strands := [{ pc := 0x10004 }, { pc := 0x10004, jset := 9, arrived }] }

theorem test_regang_waits_met : let s := two false
    s.bus = [] ∧ s.ks = [0] ∧ (∀ k ∈ s.ks, (s.g.strand k).pc = s.pc ∧ (s.g.strand k).stack = [] ∧ (s.g.strand k).parked = 0) ∧
    (∃ k, k < s.g.strands.length ∧ k ∉ s.ks ∧ (s.g.strand k).ended = false ∧ (s.g.strand k).arrived = false) :=
  ⟨rfl, by decide, by decide, 1, by decide⟩

theorem test_regang_gathers_met : let s := two true
    s.bus = [] ∧ s.g.trav = none ∧ s.ks = [0] ∧ (s.g.strand 1).arrived = true ∧ (s.g.strand 1).pc = s.pc ∧ s.g.strands.length = 2 ∧
    (s.g.strand 1).mode = s.mode ∧ (s.g.strand 1).prec.toNat = s.prec := by decide

theorem test_regang_differs_met : let s := ((two true).onLaunch 1 fun l => { l with lrec := { l.lrec with handler := 0x20004 } }).onG (·.onStrand 1 fun x => { x with prec := 8 })
    s.bus = [] ∧ s.ks = [0] ∧ s.lau.lrec.handler ≠ 0 ∧ (s.g.strand 0).stack = [] ∧ (s.g.strand 0).parked = 0 ∧
    (∀ k, k < s.g.strands.length → (s.g.strand k).handler = false ∧ (k ∉ s.ks → (s.g.strand k).arrived = true ∧ (s.g.strand k).pc = s.pc)) ∧
    (s.g.strand 0).prec ≠ (s.g.strand 1).prec := by decide

/-! ## Hypotheses met: teams, palette, system registers -/

theorem released {s : State} (h : mRelease s.mode = false) : ReleaseDone s := .inl h

theorem test_bar_met : BarRule base (.bar 15) 15 false true ∧ base.lau.travel = false ∧ base.bus = [] ∧ base.g.trav = none ∧
    Sorted base.groups ∧ (tfind base.groups base.gk).isSome = true :=
  ⟨.bar 15 (by decide) (released (by decide)) (by unfold OthersArrived InTeam; decide) (by decide), by decide, rfl, rfl, by decide, by decide⟩

/-- A second group of the team. -/
def pair : State := base.setGrp 2 { launch := 1, index := 1, strands := [{ pc := 0x10004 }] }

theorem test_bara_met : BarRule pair (.bara 0) 0 true false ∧ Sorted pair.groups :=
  ⟨.bara 0 (by decide) (released (by decide)) (by unfold OthersArrived InTeam; decide) (by decide), by decide⟩

theorem not_arrived {s : State} (n : Nat) (h : ∃ e ∈ s.groups, InTeam s e.2 ∧ ∃ k, k < e.2.strands.length ∧ ¬ (e.1 = s.gk ∧ k ∈ s.ks) ∧
    (e.2.strand k).ended = false ∧ (e.2.strand k).barPend.getLsbD n = false) : ¬ OthersArrived s n := by
  obtain ⟨e, he, ht, k, hk, h1, h2, h3⟩ := h
  intro H
  rcases H e he ht k hk with h | h | h
  · exact h1 h
  · rw [h2] at h; cases h
  · rw [h3] at h; cases h

theorem test_bar_waits_met : pair.lau.travel = false ∧ pair.bus = [] ∧ ReleaseDone pair ∧ pair.ks ≠ [] ∧ pair.g.trav = none ∧
    (∀ k ∈ pair.ks, (pair.g.strand k).barMark = none ∧ (pair.g.strand k).barPend.getLsbD 15 = false ∧ (pair.g.strand k).wait = none) ∧
    ¬ OthersArrived pair 15 ∧ Sorted pair.groups :=
  ⟨by decide, rfl, released (by decide), by decide, rfl, by decide,
    not_arrived 15 ⟨(2, { launch := 1, index := 1, strands := [{ pc := 0x10004 }] }), by decide, ⟨rfl, rfl⟩, 0, by decide, by decide, by decide, by decide⟩,
    by decide⟩

theorem test_pending_met : let s := onStrands fun x => { x with barPend := 1 }
    s.ks ≠ [] ∧ (∀ k ∈ s.ks, (s.g.strand k).barPend.getLsbD 0 = true ∧ (s.g.strand k).wait = none ∧ (s.g.strand k).barMark = none) ∧
    Sorted s.groups ∧ (tfind s.groups s.gk).isSome = true := by decide

/-- The group holds one block less than its ceiling. -/
def room : State := onGroup fun g => { g with held := 160 }

theorem test_palette_met : let s := room
    s.bus = [] ∧ s.lead.issued = false ∧ s.g.held + 16 * 1 ≤ s.lau.lrec.ceil ∧ GrantedAtOnce s (1 * (s.g.width / 16)) ∧
    GrantedAtOnce s 0 ∧ Stays s 1 :=
  ⟨rfl, by decide, by decide, ⟨by decide, by decide, by decide⟩, ⟨by decide, by decide, by decide⟩, stays_of rfl⟩

theorem test_palgive_met : let s := (onLaunch fun l => { l with lrec := { l.lrec with base := 160 } })
    s.lau.lrec.base + 16 * 1 ≤ s.g.held ∧ GrantedAtOnce s 0 := ⟨by decide, by decide, by decide, by decide⟩

/-- A group gives up a block for which a set of another group waits. -/
def claimed : State :=
  ((onLaunch fun l => { l with lrec := { l.lrec with base := 160 } }).setGrp 2 { launch := 1, index := 1, held := 16, width := 32, strands := [{}] }).onCore 0
    fun c => { c with claims := [{ part := 0, group := 2, jset := 0, units := 108 }] }

theorem test_palgive_serves_met : let s := claimed
    s.lau.lrec.base + 16 * 1 ≤ s.g.held ∧ s.g.trav = none ∧ s.g.restoring = false ∧ s.g.held % 16 = 0 ∧ s.g.width ∈ [16, 32, 64] ∧
    PaletteSound s s.g.core s.g.part ∧ Sorted s.groups ∧ (tfind s.groups s.gk).isSome = true ∧
    (∀ e ∈ s.groups, e.2.core = s.g.core → e.2.part = s.g.part → e.2.restoring = false) ∧ Sorted s.cores ∧ (s.core s.g.core).claims.Nodup :=
  ⟨by decide, rfl, rfl, by decide, by decide, ⟨by decide, fun c hc _ => by
    have hs : (claimed.core claimed.g.core).claims = [{ part := 0, group := 2, jset := 0, units := 108 }] := by decide
    rw [hs, List.mem_singleton] at hc
    subst hc
    exact ⟨{ launch := 1, index := 1, held := 16, width := 32, strands := [{}] }, 54, by decide⟩⟩, by decide, by decide, by decide, by decide, by decide⟩

theorem test_above_zero_met : AboveZero base.g ∧ base.g.width ≤ 64 := ⟨fun r l _ _ => rfl, by decide⟩

theorem test_palette_waits_met : let s := room.onCore 0 fun c => { c with claims := [{ part := 0, group := 5, jset := 0, units := 200 }] }
    s.bus = [] ∧ s.lead.issued = false ∧ s.g.held + 16 * 1 ≤ s.lau.lrec.ceil ∧ ¬ GrantedAtOnce s (1 * (s.g.width / 16)) ∧
    (∀ k ∈ s.ks, (s.g.strand k).wait = none) ∧ s.ks ≠ [] :=
  ⟨rfl, by decide, by decide, fun h => absurd h.1 (by decide), by decide, by decide⟩

theorem test_palette_issued_met : (onStrands fun x => { x with issued := true }).lead.issued = true := by decide

theorem test_system_read_met : SysValue base 0x021 ((base.stack (base.g.core / 16)).bias % 16).toNat ∧ SysValue base 0x01F (base.g.token 7).row.toNat ∧
    base.foreignS 63 = false ∧ base.bus = [] ∧ Stays base 1 :=
  ⟨.govbias, .tokrow 7 (by decide), by decide, rfl, stays_of rfl⟩

theorem test_system_write_met : let s := onLaunch fun l => { l with lrec := { l.lrec with flags := 8 } }
    s.foreignS 0 = false ∧ s.bus = [] ∧ (s.g.sr 0).toNat % 16 < 9 ∧ s.lau.capable = true ∧ Stays s 1 ∧ Resident s :=
  ⟨by decide, rfl, by decide, by decide, stays_of rfl, resident_of rfl⟩

theorem test_system_traps_met : SystemTrap base (.sysw (.s 0) 0x001) { cause := 0x11 } ∧ SystemTrap base (.paltake 11) { cause := 0x31, detail := 1 } ∧
    SystemTrap base (.sysw (.s 0) 0x021) { cause := 0x11, detail := 6 } ∧ SystemTrap base (.sysr (.v 0) 0x000) { cause := 0x03 } :=
  ⟨.syswReadOnly 0 _ _ .coreid (by decide) (by decide) (by decide), .paltake _ (by decide) (by decide),
    .syswBias 0 (by decide) (by decide), .sysrClass _ _ _ .cycle fun _ h => by cases h⟩

theorem unheld {s : State} {u : Uses}
    (h : ((u.srcs ++ u.dsts).all fun x => match x.1 with | .v r => decide (r.val + x.2 ≤ s.g.held) | _ => true) = true) : ¬ HoldBroken s u := by
  rintro ⟨x, hx, r, hr, hh⟩
  have := List.all_eq_true.1 h x hx
  rw [hr] at this
  exact absurd hh (Nat.not_lt.2 (of_decide_eq_true this))

theorem test_lane_class_met : (∃ u, LaneForm base (.vadd (.s 1) (.v 2) (.v 3)) u) ∧
    ClassBroken base (uses base (.s 1) [.v 2, .v 3] false true) :=
  ⟨⟨_, .int _ _ _ _ (.vadd ..)⟩, .inr (.inr ⟨(.s 1, 1), by decide, .scalar 1 1⟩)⟩

theorem test_lane_hold_met : let s := onGroup fun g => { g with held := 16 }
    let u := uses s (.v 175) [.v 2] false true
    LaneForm s (.vmov (.v 175) (.v 2)) u ∧ ¬ ClassBroken s u ∧ HoldBroken s u := by
  intro s u
  refine ⟨.int _ _ _ _ (.vmov ..), ?_, ⟨(.v 175, 1), by decide, 175, rfl, by decide⟩⟩
  have h1 : ∀ x ∈ u.srcs, x = (.v 2, 1) := by decide
  have h2 : ∀ x ∈ u.dsts, x = (.v 175, 1) := by decide
  rintro (h | ⟨x, hx, hb⟩ | ⟨x, hx, hb⟩)
  · exact absurd h (by decide)
  · obtain rfl := h1 x hx; cases hb; rename_i h; exact absurd h (by decide)
  · obtain rfl := h2 x hx; cases hb; rename_i h; exact absurd h (by decide)

theorem test_lane_queue_met : let u := uses base (.v 1) [.q 5] false true
    LaneForm base (.vmov (.v 1) (.q 5)) u ∧ ¬ ClassBroken base u ∧ ¬ HoldBroken base u ∧
    u.pops ++ u.pushes = [(5, 1)] ∧ 0 ∈ base.lanes ∧ QueueTrap base 5 0 { cause := 0x32, detail := 2 } ∧ base.bus = [] := by
  intro u
  refine ⟨.int _ _ _ _ (.vmov ..), ?_, unheld (by decide), by decide, by decide, .result rfl rfl rfl, rfl⟩
  have h1 : ∀ x ∈ u.srcs, x = (.q 5, 1) := by decide
  have h2 : ∀ x ∈ u.dsts, x = (.v 1, 1) := by decide
  rintro (h | ⟨x, hx, hb⟩ | ⟨x, hx, hb⟩)
  · exact absurd h (by decide)
  · obtain rfl := h1 x hx; cases hb <;> rename_i h <;> exact absurd h (by decide)
  · obtain rfl := h2 x hx; cases hb; rename_i h; exact absurd h (by decide)

theorem test_lane_type_met : let s := inMode 0x100
    ∃ P, IntRule s (.vadd (.v 1) (.v 2) (.v 3)) (uses s (.v 1) [.v 2, .v 3] false false) (.v 1) P := ⟨_, .vadd ..⟩

/-- Every lane's special-function unit is at work. -/
def computing : State := onGroup fun g => { g with sfu := (List.range 32).map fun l => (l, [default]) }

theorem test_lane_wait_met : let u := uses computing (.v 1) [.q 5] false true
    LaneForm computing (.vmov (.v 1) (.q 5)) u ∧ ¬ HoldBroken computing u ∧
    computing.queueTraps computing.g computing.lanes (u.pops ++ u.pushes) = [] ∧
    computing.queuesReady computing.g computing.lanes (u.pops ++ u.pushes) = false ∧
    ∀ k ∈ computing.ks, (computing.g.strand k).wait = none :=
  ⟨.int _ _ _ _ (.vmov ..), unheld (by decide), by decide, by decide, by decide⟩

theorem test_push_met : let base := inMode 0x100
    let u : Uses := { dsts := [(.q 4, 1)] }
    (.q 4, 1) ∈ u.dsts ∧ OperandsReady base u ∧ ([(0, [1]), (31, [2])].map fun e : Nat × List Word => e.1).Sublist base.lanes ∧
    base.bus = [] ∧ Stays base 1 ∧ Sorted base.groups :=
  ⟨by decide, ⟨by decide, by decide, by decide⟩, by decide, rfl, stays_of rfl, by decide⟩

/-! ## Hypotheses met: memory -/

/-- One strand whose s5 holds an address of its page, in a MODE. -/
def access (m : BitVec 24) (a : DWord) : State := (lone fun x => { x with mode := m }).onG fun g => { g with s := [(5, a)] }

theorem outstanding {s : State} (h : s.lead.begun = none ∧ (∀ r ∈ s.g.resp, r.jset ≠ s.cur.jset) ∧
    (∀ r ∈ s.loads, (s.grp r.group).core ≠ s.g.core) ∧ (∀ r ∈ s.remotes, r.group = s.gk → r.jset ≠ s.cur.jset) ∧
    ∀ x ∈ s.lags.take 2, x = false) : NoneOutstanding s := h

theorem noFlights {s : State} {k : Nat} {ks : List Nat} (h : ∀ r ∈ s.loads, r.group ≠ k) : NoFlights s k ks :=
  fun r hr hg _ => absurd hg (h r hr)

theorem roomy {s : State} (h : ∀ e ∈ s.stackTab, e.2.queue = []) : QueuesHaveRoom s := by
  have hs : ∀ (t : Table Stack), (∀ e ∈ t, e.2.queue = []) → ∀ n, (tget {} t n).queue = [] := by
    intro t
    induction t with
    | nil => intro _ n; rfl
    | cons e t ih =>
      intro ht n
      by_cases hn : e.1 = n
      · simpa [tget, tfind, hn] using ht e (by simp)
      · simpa [tget, tfind, hn] using ih (fun y hy => ht y (by simp [hy])) n
  intro n k
  have : (s.stack n).queue = [] := hs s.stackTab h n
  rw [this]; exact (by decide : (0 : Nat) < 32)

theorem test_load_met : let s := access 0 0x10100
    (∃ f, LoadForm s (.ldg64 (.v 2) (.v 0) (.s 5)) (.v 2) (.v 0) (.s 5) 8 f) ∧ OperandsReady s (loadUses s (.v 2) (.v 0) (.s 5) 2) ∧
    (∀ l ∈ s.lanes, Allowed s (vaOf s (loadUses s (.v 2) (.v 0) (.s 5) 2) (.s 5) l) 8 .read ∧
      GoodLine s (vaOf s (loadUses s (.v 2) (.v 0) (.s 5) 2) (.s 5) l)) ∧
    ReleaseDone s ∧ NoneOutstanding s ∧ s.bus = [] ∧ Resident s ∧ s.lanes = [0, 1, 2, 3] :=
  ⟨⟨_, .ldg64 ..⟩, ⟨by decide, by decide, by decide⟩, by simp only [Allowed, GoodLine, KeyAgrees]; decide, released (by decide),
    outstanding (by decide), rfl, resident_of rfl, by decide⟩

theorem test_load_push_met : let s := access 0x100 0x1017C
    (∃ f, LoadForm s (.ldg32 (.q 4) (.v 0) (.s 5)) (.q 4) (.v 0) (.s 5) 4 f) ∧ OperandsReady s (loadUses s (.q 4) (.v 0) (.s 5) 1) ∧
    (∀ l ∈ s.lanes, Allowed s (vaOf s (loadUses s (.q 4) (.v 0) (.s 5) 1) (.s 5) l) 4 .read ∧
      GoodLine s (vaOf s (loadUses s (.q 4) (.v 0) (.s 5) 1) (.s 5) l)) ∧ Sorted s.groups :=
  ⟨⟨_, .ldg32 ..⟩, ⟨by decide, by decide, by decide⟩, by simp only [Allowed, GoodLine, KeyAgrees]; decide, by decide⟩

theorem test_store_met : let s := access 0 0x10100
    StoreForm (.stg128 (.v 4) (.v 0) (.s 5)) (.v 4) (.v 0) (.s 5) 16 ∧ OperandsReady s (storeUses s (.v 4) (.v 0) (.s 5) 4) ∧
    (∀ l ∈ s.lanes, Allowed s (vaOf s (storeUses s (.v 4) (.v 0) (.s 5) 4) (.s 5) l) 16 .write ∧
      cacheable (s.pa (vaOf s (storeUses s (.v 4) (.v 0) (.s 5) 4) (.s 5) l)) = true) :=
  ⟨.stg128 .., ⟨by decide, by decide, by decide⟩, by simp only [Allowed]; decide⟩

theorem test_scalar_access_met : let s := access 0 0x10100
    Allowed s 0x10900 8 .write ∧ Allowed s 0x10108 8 .read ∧ GoodLine s 0x10108 ∧ cacheable (s.pa 0x10900) = true ∧ s.foreignS 5 = false :=
  ⟨by simp only [Allowed]; decide, by simp only [Allowed]; decide, by simp only [GoodLine, KeyAgrees]; decide, by decide, by decide⟩

theorem test_access_trap_met : let s := access 0 0x10102
    (∃ f, LoadForm s (.ldg32 (.v 2) (.v 0) (.s 5)) (.v 2) (.v 0) (.s 5) 4 f) ∧ OperandsReady s (loadUses s (.v 2) (.v 0) (.s 5) 1) ∧
    0 ∈ s.lanes ∧ Denied s (vaOf s (loadUses s (.v 2) (.v 0) (.s 5) 1) (.s 5) 0) 4 .read { cause := 0x0A, taddr := 0x10102 } ∧
    (∀ m ∈ s.lanes, m < 0 → Allowed s (vaOf s (loadUses s (.v 2) (.v 0) (.s 5) 1) (.s 5) m) 4 .read) ∧ s.bus = [] :=
  ⟨⟨_, .ldg32 ..⟩, ⟨by decide, by decide, by decide⟩, by decide, .unaligned (by decide), by simp, rfl⟩

theorem test_page_met : (∃ leaf, base.xlate base.g.core (base.asidOf base.g) 0x10000 = .ok leaf ∧ leaf.wr = true ∧ leaf.enc = false ∧
    leaf.tensor = false ∧ cacheable (leaf.base + 0x10000 % leaf.size) = true) :=
  ⟨{ wr := true, x := true, base := 0x10000, size := 65536 }, by rfl, rfl, rfl, rfl, by decide⟩

/-- The same page read only, encrypted under a key that is not loaded, or of a tensor. -/
def paged (f : Leaf → Leaf) : State :=
  base.onCore 0 fun c => { c with tlb := c.tlb.map fun e => { e with leaf := f e.leaf } }

theorem test_page_denied_met :
    (∃ leaf, (paged fun x => { x with wr := false }).xlate 0 1 0x1FFFF = .ok leaf ∧ leaf.wr = false) ∧
    (∃ leaf, (paged fun x => { x with enc := true, key := 63 }).xlate 0 1 0x10000 = .ok leaf ∧ leaf.enc = true) ∧
    (∃ leaf, (paged fun x => { x with tensor := true }).xlate 0 1 0x10000 = .ok leaf ∧ leaf.tensor = true) :=
  ⟨⟨_, by rfl, rfl⟩, ⟨_, by rfl, rfl⟩, ⟨_, by rfl, rfl⟩⟩

theorem test_atomic_met : let s := access 0 0x1017C
    AtomicForm (.acas (.v 2) (.v 0) (.s 5)) .cas (.v 2) (.v 0) (.s 5) [8, 0, 1, 6, 7] ∧
    OperandsReady s (atomicUses s .cas (.v 2) (.v 0) (.s 5) [8, 0, 1, 6, 7]) ∧
    (∀ l ∈ s.lanes, Allowed s (vaOf s (atomicUses s .cas (.v 2) (.v 0) (.s 5) [8, 0, 1, 6, 7]) (.s 5) l) (4 * atomicWords s) (.atomic true) ∧
      GoodLine s (vaOf s (atomicUses s .cas (.v 2) (.v 0) (.s 5) [8, 0, 1, 6, 7]) (.s 5) l)) :=
  ⟨.acas .., ⟨by decide, by decide, by decide⟩, by simp only [Allowed, GoodLine, KeyAgrees]; decide⟩

theorem test_scalar_atomic_met : let s := access 0 0x10178
    Allowed s (s.g.sr 5).toNat 8 (.atomic true) ∧ GoodLine s (s.g.sr 5).toNat ∧ s.foreignS 62 = false :=
  ⟨by simp only [Allowed]; decide, by simp only [GoodLine, KeyAgrees]; decide, by decide⟩

/-- A team that holds 64 bytes of scratchpad. -/
def padded (m : BitVec 24) : State :=
  let s := lone fun x => { x with mode := m }
  { s with teams := s.teams.map fun e => (e.1, { e.2 with size := 64 }) }

theorem test_scratchpad_met : let s := padded 0
    let lu : Uses := { srcs := [(.v 0, 1)], dsts := [(.v 4, 4)], typeOk := true }
    let su : Uses := { srcs := [(.v 0, 1), (.v 4, 4)], typeOk := true }
    OperandsReady s lu ∧ OperandsReady s su ∧ OffsetsOk s lu 12 16 ∧ OffsetsOk s su 12 16 ∧
    (∀ l ∈ s.lanes, s.locPoison (s.alloc s.g).1 ((s.alloc s.g).2.1 + offsetOf s lu 12 l) 16 = false) ∧
    ReleaseDone s ∧ s.bus = [] ∧ Resident s :=
  ⟨⟨by decide, by decide, by decide⟩, ⟨by decide, by decide, by decide⟩, by unfold OffsetsOk; decide, by unfold OffsetsOk; decide,
    by decide, released (by decide), rfl, resident_of rfl⟩

theorem test_scratchpad_push_met : let s := padded 0x100
    let lu : Uses := { srcs := [(.v 0, 1)], dsts := [(.q 4, 1)], typeOk := true }
    OperandsReady s lu ∧ OffsetsOk s lu 15 4 ∧ Sorted s.groups :=
  ⟨⟨by decide, by decide, by decide⟩, by unfold OffsetsOk; decide, by decide⟩

theorem test_scratchpad_trap_met : let s := padded 0
    let u : Uses := { srcs := [(.v 0, 1)], dsts := [(.v 4, 1)], typeOk := true }
    OperandsReady s u ∧ 0 ∈ s.lanes ∧ (s.alloc s.g).2.2 < offsetOf s u 16 0 + 4 ∧ s.bus = [] :=
  ⟨⟨by decide, by decide, by decide⟩, by decide, by decide, rfl⟩

theorem test_fence_met : let s := lone fun x => { x with mode := 0x44000 }
    s.bus = [] ∧ mRelease s.mode = true ∧ mAcquire s.mode = false ∧ mScope s.mode ∈ [1, 2, 3] ∧ s.lead.released = false ∧
    s.lags.headD false = false ∧ s.unacked = false ∧ s.ks ≠ [] ∧ s.sealed = [] ∧ (s.core s.g.core).wcbKey = [] ∧
    (∀ e ∈ s.stackTab, ∀ q ∈ e.2.queue, ∀ r ∈ q.2, r.key = none) ∧ (∀ q ∈ s.edge, ∀ r ∈ q.2, r.key = none) := by decide

theorem test_fence_acquire_met : let s := lone fun x => { x with mode := 0x24000 }
    ReleaseDone s ∧ ¬ NoAcquire s ∧ Resident s := ⟨.inl (by decide), by unfold NoAcquire; decide, resident_of rfl⟩

theorem test_hint_met : let s := access 0 0x10100
    let u : Uses := { srcs := [memUse (.v 0) (.s 5)], typeOk := true }
    OperandsReady s u ∧ (∀ l ∈ s.lanes.filter fun l => decide (s.pcheck (vaOf s u (.s 5) l) .read = none), GoodLine s (vaOf s u (.s 5) l)) ∧
    (s.lanes.filter fun l => decide (s.pcheck (vaOf s u (.s 5) l) .read = none)).getLast? = some 3 :=
  ⟨⟨by decide, by decide, by decide⟩, by simp only [GoodLine, KeyAgrees]; decide, by decide⟩

theorem test_elastic_load_met : let s := access 0x160 0x10100
    let u : Uses := { srcs := [memUse (.v 0) (.s 5)], typeOk := true }
    WindowsReady s [] (some (.v 10)) u ∧ WindowsReady s [.v 10] none u ∧ regIdx (.v 0) + (memUse (.v 0) (.s 5)).2 ≤ regIdx (.v 10) ∧
    s.lanes ≠ [] ∧ (∀ l ∈ s.lanes, Allowed s ((vaOf s u (.s 5) l + 4 * 0) % 2 ^ 64) 4 .read ∧ GoodLine s ((vaOf s u (.s 5) l + 4 * 0) % 2 ^ 64)) ∧
    (∀ l ∈ s.lanes, Allowed s ((vaOf s u (.s 5) l + 4 * 0) % 2 ^ 64) 4 .write) :=
  ⟨⟨by decide, by decide, by decide, by decide⟩, ⟨by decide, by decide, by decide, by decide⟩, by decide, by decide,
    by simp only [Allowed, GoodLine, KeyAgrees]; decide, by simp only [Allowed]; decide⟩

theorem test_elastic_overlap_met : let s := access 0x160 0x10100
    WindowsReady s [] (some (.v 0)) { srcs := [memUse (.v 0) (.s 5)], typeOk := true } ∧ s.lanes ≠ [] ∧
    ¬ (regIdx (.v 0) + (s.prec - 13 + 31) / 32 < regIdx (.v 0) ∨ regIdx (.v 0) + (memUse (.v 0) (.s 5)).2 ≤ regIdx (.v 0)) :=
  ⟨⟨by decide, by decide, by decide, by decide⟩, by decide, by decide⟩


/-! Accesses that leave the package, and poison. -/

/-- One strand whose s5 holds an address of its page, which lies elsewhere. -/
def sent (a : DWord) (pa : Nat) : State :=
  (access 0 a).onCore 0 fun c => { c with tlb := c.tlb.map fun e => { e with leaf := { e.leaf with base := pa } } }

/-- The same with window 0 valid, writable and wide, behind port 3. -/
def windowed (a : DWord) (pa : Nat) : State :=
  let s := sent a pa
  { s with ctl := { s.ctl with portup := 8, outw := [(0, { base := 0x40000, cfg := 0x3000014, ports := 8 })] } }

theorem leaves_host {s : State} {op : RemoteOp} {size : Nat} (es : List (Nat × Nat × BitVec 128)) (id : Nat)
    (h : ∀ e ∈ es, nodeOf (s.pa e.2.1) = .host) : ∃ rs, AllLeave s op size id es rs := by
  induction es generalizing id with
  | nil => exact ⟨_, .none _⟩
  | cons e es ih =>
    obtain ⟨rs, hr⟩ := ih (id + 1) fun x hx => h x (by simp [hx])
    exact ⟨_, .next _ _ _ _ _ (.host (h e (by simp))) hr⟩

theorem test_leaves_host_met : let s := sent 0x10100 (2 ^ 48)
    (∃ rs, AllLeave s .load 4 s.nextKey (s.lanes.map fun l => (l, vaOf s (loadUses s (.v 2) (.v 0) (.s 5) 1) (.s 5) l, 0)) rs) ∧
    (∀ l ∈ s.lanes, Allowed s (vaOf s (loadUses s (.v 2) (.v 0) (.s 5) 1) (.s 5) l) 4 .read) ∧ s.lanes ≠ [] ∧ s.lead.wait = none ∧
    OperandsReady s (loadUses s (.v 2) (.v 0) (.s 5) 1) ∧ NoneOutstanding s := by
  exact ⟨leaves_host _ _ (by decide), by simp only [Allowed]; decide, by decide, by decide, ⟨by decide, by decide, by decide⟩,
    outstanding (by decide)⟩

theorem test_leaves_fabric_met : let s := windowed 0x10100 (2 ^ 51)
    (∃ r, Leaves s s.nextKey 0 .store (vaOf s (storeUses s (.v 4) (.v 0) (.s 5) 1) (.s 5) 0) 4 7 r) ∧
    (∀ l ∈ s.lanes, Allowed s (vaOf s (storeUses s (.v 4) (.v 0) (.s 5) 1) (.s 5) l) 4 .write) ∧
    OperandsReady s (storeUses s (.v 4) (.v 0) (.s 5) 1) ∧ NotBegun s :=
  ⟨⟨_, .fabric 0 3 [3] (by decide) (by decide) (by decide)⟩, by simp only [Allowed]; decide, ⟨by decide, by decide, by decide⟩,
    ⟨by decide, by decide⟩⟩

/-- One strand whose load of its one active lane has its answer. -/
def answered (fail : Option (Byte × Byte)) : State :=
  (lone fun x => { x with amask := 1, begun := some { held := 16, accs := [{ lane := 0, va := 0x10100, pa := 2 ^ 48 }] } }).onG
    fun g => { g with resp := [{ jset := 0, lane := 0, pa := 2 ^ 48, data := 9, fail }] }

theorem answered_met (f : Option (Byte × Byte)) : AllAnswered (answered f) { held := 16, accs := [{ lane := 0, va := 0x10100, pa := 2 ^ 48 }] } :=
  ⟨rfl, by decide, fun e he => by
    have h := List.mem_singleton.1 he
    subst h
    exact ⟨by decide, _, List.mem_singleton.2 rfl, rfl, rfl, rfl⟩⟩

theorem test_answered_met : let s := answered none
    (∃ f, LoadForm s (.ldg32 (.v 2) (.v 0) (.s 5)) (.v 2) (.v 0) (.s 5) 4 f) ∧ (∀ r ∈ s.g.resp, r.fail = none) ∧
    AllAnswered s { held := 16, accs := [{ lane := 0, va := 0x10100, pa := 2 ^ 48 }] } ∧ ReleaseDone s ∧ s.bus = [] ∧ Resident s :=
  ⟨⟨_, .ldg32 ..⟩, by decide, answered_met _, released (by decide), rfl, resident_of rfl⟩

theorem fails_in (s : State) (c : Begun) (l : Nat) (f : Byte × Byte) (h : ∃ e ∈ c.accs, e.lane = l ∧ (answerOf s e).bind (·.fail) = some f) :
    ∃ x, FailsIn s c l x := by
  obtain ⟨e, he, hl, hf⟩ := h
  cases ha : answerOf s e with
  | none => rw [ha] at hf; cases hf
  | some r => rw [ha] at hf; exact ⟨_, e, he, r, f, hl, ha, hf, rfl⟩

/-- The trap of a failed answer enters a handler here, and stops the launch without one. -/
theorem test_answer_handled_met : let s := (answered (some (0x10, 3))).onLaunch 1 fun l => { l with lrec := { l.lrec with handler := 0x20004 } }
    let c : Begun := { held := 16, accs := [{ lane := 0, va := 0x10100, pa := 2 ^ 48 }] }
    (∃ x, FailsIn s c 0 x) ∧ c.accs.map (·.lane) = s.lanes ∧ ¬ TrapStopsIn s [0] { cause := 0x10, detail := 3 } :=
  ⟨fails_in _ _ 0 (0x10, 3) (by decide), by decide, by simp only [TrapStopsIn]; decide⟩

theorem test_answer_failed_met : let s := answered (some (0x10, 3))
    (answerOf s { lane := 0, va := 0x10100, pa := 2 ^ 48 }).bind (·.fail) = some (0x10, 3) ∧
    AllAnswered s { held := 16, accs := [{ lane := 0, va := 0x10100, pa := 2 ^ 48 }] } ∧ TrapStopsIn s [0] { cause := 0x10, detail := 3 } :=
  ⟨by decide, answered_met _, by simp only [TrapStopsIn]; decide⟩

/-- One lane whose address is in a poisoned line of its page. -/
def poisonedLine : State :=
  let s := (lone fun x => { x with mode := 0, amask := 1 }).onG fun g => { g with s := [(5, 0x10100)] }
  { s with poison := [0x202] }

theorem test_poison_load_met : let s := poisonedLine
    (∃ f, LoadForm s (.ldg32 (.v 2) (.v 0) (.s 5)) (.v 2) (.v 0) (.s 5) 4 f) ∧ OperandsReady s (loadUses s (.v 2) (.v 0) (.s 5) 1) ∧
    s.lanes = [0] ∧ Allowed s 0x10100 4 .read ∧ vaOf s (loadUses s (.v 2) (.v 0) (.s 5) 1) (.s 5) 0 = 0x10100 ∧
    cacheable (s.pa 0x10100) = true ∧ KeyAgrees s (s.pa 0x10100 / 128) (s.vkey 0x10100) ∧ s.poisoned (s.pa 0x10100 / 128) = true ∧
    tfind (s.core s.g.core).l1 (s.pa 0x10100 / 128) = none ∧ (∀ c ∈ (s.core s.g.core).wcb, c.pa / 128 ≠ s.pa 0x10100 / 128) ∧
    NoneOutstanding s ∧ ReleaseDone s :=
  ⟨⟨_, .ldg32 ..⟩, ⟨by decide, by decide, by decide⟩, by decide, by simp only [Allowed]; decide, by decide, by decide,
    by simp only [KeyAgrees]; decide, by decide, by decide, by decide, outstanding (by decide), released (by decide)⟩

theorem test_poison_atomic_met : let s := poisonedLine
    AtomicForm (.aadd (.v 2) (.v 0) (.s 5)) .add (.v 2) (.v 0) (.s 5) [0, 1, 6, 7] ∧
    OperandsReady s (atomicUses s .add (.v 2) (.v 0) (.s 5) [0, 1, 6, 7]) ∧ s.lanes.head? = some 0 ∧
    vaOf s (atomicUses s .add (.v 2) (.v 0) (.s 5) [0, 1, 6, 7]) (.s 5) 0 = 0x10100 ∧ Allowed s 0x10100 4 (.atomic true) :=
  ⟨.aadd .., ⟨by decide, by decide, by decide⟩, by decide, by decide, by simp only [Allowed]; decide⟩

theorem test_poison_scratchpad_met : let s := (padded 0).onCore 0 fun c => { c with memPoison := [0] }
    let u := ldsUses (.v 4) (.v 0) 4
    OperandsReady s u ∧ OffsetsOk s u 0 4 ∧ 0 ∈ s.lanes ∧ s.locPoison (s.alloc s.g).1 ((s.alloc s.g).2.1 + offsetOf s u 0 0) 4 = true ∧
    (∀ m ∈ s.lanes, m < 0 → s.locPoison (s.alloc s.g).1 ((s.alloc s.g).2.1 + offsetOf s u 0 m) 4 = false) :=
  ⟨⟨by decide, by decide, by decide⟩, by unfold OffsetsOk; decide, by decide, by decide, by simp⟩

/-- Accesses that the tape of lags leaves outstanding. -/
def flying (m : BitVec 24) (a : DWord) : State := { access m a with lags := [true] }

theorem mayFly {s : State} (h : mAcquire s.mode = false ∧ s.lags.headD false = true ∧ s.lead.begun = none ∧ (∀ r ∈ s.g.resp, r.jset ≠ s.cur.jset) ∧
    (∀ r ∈ s.loads, r.group = s.gk → r.jset = s.cur.jset → r.fly ≠ none) ∧ ∀ r ∈ s.remotes, r.group = s.gk → r.jset ≠ s.cur.jset) : MayFly s := h

theorem test_flies_met : let s := flying 0 0x10100
    MayFly s ∧ ¬ NoneOutstanding s ∧ ReleaseDone s ∧ s.lanes ≠ [] ∧
    (∃ f, LoadForm s (.ldg64 (.v 14) (.v 0) (.s 5)) (.v 14) (.v 0) (.s 5) 8 f) ∧ OperandsReady s (loadUses s (.v 14) (.v 0) (.s 5) 2) ∧
    (∀ l ∈ s.lanes, Allowed s (vaOf s (loadUses s (.v 14) (.v 0) (.s 5) 2) (.s 5) l) 8 .read) ∧
    OperandsReady s (atomicUses s .cas (.v 2) (.v 0) (.s 5) [8, 0, 1, 6, 7]) ∧
    (∀ l ∈ s.lanes, Allowed s (vaOf s (atomicUses s .cas (.v 2) (.v 0) (.s 5) [8, 0, 1, 6, 7]) (.s 5) l) 4 (.atomic true) ∧
      cacheable (s.pa (vaOf s (atomicUses s .cas (.v 2) (.v 0) (.s 5) [8, 0, 1, 6, 7]) (.s 5) l)) = true) ∧
    Allowed s (s.g.sr 5).toNat 8 (.atomic true) ∧ Allowed s (((s.g.sr 5).toNat + 8 * 255) % 2 ^ 64) 8 .read :=
  ⟨mayFly (by decide), fun h => absurd h.2.2.2.2 (by decide), released (by decide), by decide, ⟨_, .ldg64 ..⟩, ⟨by decide, by decide, by decide⟩,
    by simp only [Allowed]; decide, ⟨by decide, by decide, by decide⟩, by simp only [Allowed]; decide, by simp only [Allowed]; decide,
    by simp only [Allowed]; decide⟩

/-- An acquire while a flight of the group is under way. -/
theorem test_fence_waits_met : let s := { lone (fun x => { x with mode := 0x24000 }) with
      loads := [{ group := 1, lane := scalarLane, pa := 0x10100, size := 8, fly := some { dst := .s 5 } }] }
    ReleaseDone s ∧ mAcquire s.mode = true ∧ ¬ NoFlights s s.gk s.ks ∧ s.ks ≠ [] ∧ ∀ k ∈ s.ks, (s.g.strand k).wait = none := by
  refine ⟨released (by decide), by decide, fun h => ?_, by decide, by decide⟩
  exact absurd (h _ (List.mem_singleton.2 rfl) rfl (by simp)).2 (by decide)

theorem test_rooms_met : QueuesHaveRoom (access 0 0x10100) ∧ (access 0 0x10100).loads = [] := ⟨roomy (by decide), by decide⟩

theorem test_scalar_traps_met :
    Denied (access 0 0x10100) 0x10104 8 .read { cause := 0x0A, taddr := 0x10104 } ∧
    Denied (access 0 0x30000) 0x30000 8 (.atomic true) { cause := 0x10, taddr := 0x30000, detail := 0 } ∧
    regIdx (.s 3) % 2 = 1 ∧ (access 0 0x10100).lead.begun = none ∧ (access 0 0x10100).foreignS 5 = false :=
  ⟨.unaligned (by decide), .page 0x10 0 (by decide) (by decide), by decide, by decide, by decide⟩

theorem test_window_traps_met : let s := access 0x160 0x30000
    let u : Uses := { srcs := [memUse (.v 0) (.s 5)], typeOk := !s.badMem (.v 0) (.s 5) }
    WindowsReady s [] (some (.v 10)) u ∧ WindowsReady s [.v 10] none u ∧ s.lanes ≠ [] ∧ s.lead.begun = none ∧
    (∀ l ∈ s.lanes, ¬ Allowed s (vaOf s u (.s 5) l) 4 .read) ∧ ¬ Allowed s ((vaOf s u (.s 5) 0 + 4 * 0) % 2 ^ 64) 4 .write :=
  ⟨⟨by decide, by decide, by decide, by decide⟩, ⟨by decide, by decide, by decide, by decide⟩, by decide, by decide,
    by simp only [Allowed]; decide, by simp only [Allowed]; decide⟩

theorem test_untranslated_met : let s : State := { base with asids := [] }
    (∀ e ∈ (s.core s.g.core).tlb, e.asid = s.asidOf s.g → 0x20000 < e.va ∨ e.va + e.leaf.size ≤ 0x20000) ∧
    (tget ({} : Asid) s.asids (s.asidOf s.g)).flags % 2 = 0 := by decide

theorem test_root_absent_met : base.physFail ((tget ({} : Asid) base.asids (base.asidOf base.g)).root + 8 * (0x30000 / 2 ^ 47 % 1024)) = none ∧
    base.homeN ((tget ({} : Asid) base.asids (base.asidOf base.g)).root + 8 * (0x30000 / 2 ^ 47 % 1024)) 8 % 2 = 0 := by decide

theorem test_window_pages_met :
    (∃ leaf, (sent 0x10100 (2 ^ 51)).xlate 0 1 0x10000 = .ok leaf ∧ nodeOf (leaf.base + 0x10000 % leaf.size) = .fabric 0 ∧
      ((sent 0x10100 (2 ^ 51)).window 0).cfg.getLsbD 24 = false) ∧
    (∃ leaf, (windowed 0x10100 (2 ^ 51)).xlate 0 1 0x10000 = .ok leaf ∧ leaf.wr = true ∧
      ((windowed 0x10100 (2 ^ 51)).window 0).cfg.toNat % 64 = 20 ∧ (leaf.base + 0x10000 % leaf.size) % 2 ^ 46 < 2 ^ 20) ∧
    ∃ leaf, (sent 0x10100 (2 ^ 48)).xlate 0 1 0x10000 = .ok leaf ∧ leaf.wr = true ∧ nodeOf (leaf.base + 0x10000 % leaf.size) = .host :=
  ⟨⟨_, by rfl, by decide, by decide⟩, ⟨_, by rfl, rfl, by decide, by decide⟩, ⟨_, by rfl, rfl, by decide⟩⟩

theorem test_fence_owed_met : let s := lone fun x => { x with mode := 0x44000 }
    NothingOwed s ∧ NoKeys s ∧ s.lead.released = false ∧
    ¬ NothingOwed { s with loads := [{ group := 1, jset := 0, lane := scalarLane, pa := 0x10100, size := 8, fly := some {
      op := .load, dst := .s 5, strand := 0, pc := 0x10004, va := 0x10100 } }] } := by
  refine ⟨⟨noFlights (by decide), by decide⟩, ⟨by decide, by decide, by decide, by decide⟩, by decide, ?_⟩
  intro h
  exact absurd (h.1 _ (List.mem_singleton.2 rfl) rfl (by simp)).2 (by decide)

/-! ## Hypotheses met: copies and matrix operations -/

/-- A team with scratchpad and 16 accumulator rows; its scratchpad holds a descriptor of two rows of four bytes. -/
def engines : State :=
  let s : State := { base with teams := base.teams.map fun e => (e.1, { e.2 with size := 64, accRows := 16 }) }
  s.onCore 0 fun c => { c with mem := [(0x10, 4), (0x14, 2)] }

theorem descriptor_met : DescriptorOk engines 0 := ⟨by decide, by decide, by decide⟩

theorem test_copy_met : engines.foreignS 0 = false ∧ (engines.g.token 7).state ≠ 1 ∧ ReleaseDone engines ∧ engines.bus = [] ∧ Resident engines ∧
    CopyOk engines false false false 0 0 ∧ field engines 0x14 4 = 2 ∧ field engines 0x10 4 = 4 :=
  ⟨by decide, by decide, .inl (by decide), rfl, resident_of rfl, ⟨descriptor_met, by decide, (fun _ => by decide), (fun h => by cases h), by decide,
    by decide, by decide, by decide, by decide, (fun h => by cases h), (fun h => by cases h)⟩, by decide, by decide⟩

/-- A handle of one tile of 128 bytes on a tensor page. -/
def tensorHandle : Handle := { front := 0x10000, n0 := 1, n1 := 1, n2 := 1, shape0 := 32, shape1 := 1, ebytes := 4, flags := 1 }
def tensor : State :=
  let s : State := { base with teams := base.teams.map fun e => (e.1, { e.2 with size := 64 }) }
  s.onCore 0 fun c => { c with
    handles := [(4096, tensorHandle)], tlb := c.tlb.map fun e => { e with leaf := { e.leaf with tensor := true } } }

theorem test_tile_copy_met : let e := (tensor.handleEntry 0 1 0).1
    DescriptorOk tensor 0 ∧ recBase (field tensor 0 8) % 4 = 0 ∧ tensor.handleValid 0 1 e = true ∧ field tensor 8 4 + field tensor 0x14 4 ≤ e.n0 ∧
    field tensor 0x0C 4 + field tensor 0x18 4 ≤ e.n1 ∧ field tensor 0x10 4 + field tensor 0x1C 4 ≤ e.n2 ∧ e.b = 128 ∧
    RecordFits tensor (field tensor 0 8) false tensor.ownTarget (fun x n => (0 : Nat) ≠ 0 ∧ x = 0 ∧ n = 0 * e.b) :=
  ⟨⟨by decide, by decide, by decide⟩, by decide, by decide, by decide, by decide, by decide, by decide,
    ⟨by decide, by decide, by decide, by decide, fun _ _ h => absurd rfl h.1⟩⟩

/-- A copy between two places of the scratchpad, and one from an address without a page. -/
def copying (src : Side) : State := engines.onCore 0 fun c => { c with
  copies := [{ group := 1, launch := 1, src, dsts := [.loc 0 0 0 64 32], rowbytes := 4, rows := 2 }] }

theorem test_copy_row_met : let s := copying (.loc 0 0 0 64 0)
    let c := (s.core 0).copies.headD {}
    (s.core 0).copies[0]? = some c ∧ s.bus = [] ∧ c.sent = false ∧ c.gone = 0 ∧ s.rowOut c = false ∧
    s.sideFault 0 1 (c.rowSides 0).1 4 .read false = none ∧ s.outState 0 1 c (c.rowSides 0).1 4 = ([], none) ∧
    s.readFault 0 1 (c.rowSides 0).1 4 none = none ∧ ((c.rowSides 0).2.1.findSome? fun d => s.sideFault 0 1 d 4 .write false) = none ∧
    SideGood s 0 1 (c.rowSides 0).1 4 ∧ (∀ d ∈ (c.rowSides 0).2.1, SideGood s 0 1 d 4) ∧ (c.rowSides 0).2.1.length = 1 :=
  ⟨by decide, rfl, by decide, by decide, by decide, by decide, by decide, by decide, by decide, trivial,
    by simp [copying, Copy.rowSides, SideGood], by decide⟩

/-- A copy whose source page lies in the host's memory: its row's reads leave the package. -/
theorem test_copy_asked_met :
    let s : State := (copying (.glob 0x10000)).onCore 0 fun c => { c with tlb := c.tlb.map fun e => { e with leaf := { e.leaf with base := 2 ^ 48 } } }
    let c := (s.core 0).copies.headD {}
    c.sent = false ∧ s.rowOut c = false ∧ s.sideFault 0 1 (c.rowSides 0).1 4 .read false = none ∧ (s.outState 0 1 c (c.rowSides 0).1 4).1 ≠ [] ∧
    s.loads = [] := by decide

/-- The key tag that a block of local memory has goes with what a copy reads there. -/
theorem test_copy_tags : let s := (copying (.loc 0 0 0 64 0)).onCore 0 fun c => { c with memKey := [(0, 5)] }
    s.sideKey 0 1 (.loc 0 0 0 64 0) 3 = some 5 ∧ s.sideKey 0 1 (.loc 0 0 0 256 128) 0 = none := by decide

theorem test_copy_sent_met : let s := (copying (.loc 0 0 0 64 0)).onCore 0 fun x => { x with copies := x.copies.map fun c => { c with sent := true, signs := [0x202] } }
    let c := (s.core 0).copies.headD {}
    (s.core 0).copies[0]? = some c ∧ c.sent = true ∧ c.signs = [0x202] ∧ s.rowOut c = false ∧
    ({ s with remotes := [{ group := 1, jset := copySet c.tok, op := .store }] } : State).rowOut c = true ∧ c.row + 1 < c.rows := by decide

theorem test_copy_poison_met : let s := (copying (.loc 0 0 0 64 0)).onCore 0 fun x => { x with memPoison := [0] }
    s.sidePoison 0 1 (.loc 0 0 0 64 0) 4 = some 0 ∧ s.readFault 0 1 (.loc 0 0 0 64 0) 4 none = some (0x3F, 0) ∧
    s.readFault 0 1 (.loc 0 0 0 64 0) 4 (some (0x10, 2)) = some (0x3F, 0) ∧
    (copying (.loc 0 0 0 64 0)).readFault 0 1 (.loc 0 0 0 64 0) 4 (some (0x10, 2)) = some (0x10, 2) := by decide

theorem test_copy_fault_met : ((copying (.glob 0x20000)).sideFault 0 1 (.glob 0x20000) 4 .read false).isSome = true ∧
    ((copying (.glob 0x20000)).sideFault 0 1 (.glob 0x20000) 4 .write false).isSome = true := by decide

theorem test_matrix_met : MatRule engines (.accz (.s 0)) [0] 1 ((opStrands engines 0).map (regionOp engines .zero 0)) ∧
    (∀ r ∈ [0], engines.foreignS r = false) ∧ engines.bus = [] ∧ Stays engines 1 :=
  ⟨.accz 0 ⟨by decide, by decide, by decide, by decide, (fun h => by cases h), (fun h => absurd h (by decide)), by decide, by decide⟩
    (by unfold Room; decide), by decide, rfl, stays_of rfl⟩

theorem test_matrix_registers_met : TileRegs engines 168 ∧ RegionOk engines 0 true true ∧ NoMatrixWork engines ∧
    (engines.core engines.g.core).mats.length + 1 ≤ 64 ∧ engines.foreignS 63 = false :=
  ⟨⟨by decide, by decide, by decide⟩, ⟨by decide, by decide, by decide, by decide, (fun _ => by decide), (fun h => absurd h (by decide)),
    by decide, by decide⟩, by unfold NoMatrixWork; decide, by decide, by decide⟩

/-- A matrix operation of the group stands in the engine. -/
def working (m : MatOp) : State := engines.onCore 0 fun c => { c with mats := [m] }

theorem test_matrix_wait_met : let s := working { group := 1, strands := [0] }
    ¬ NoMatrixWork s ∧ s.lead.wait = none := ⟨by unfold NoMatrixWork; decide, by decide⟩

theorem test_matrix_complete_met : let m : MatOp := { kind := .mma, group := 1, strands := [0], bRows := some (List.replicate 16 []), col := 240 }
    Completes (working m) 0 0 m ∧ m.col + m.cols ≤ 256 ∧ m.rows = 16 ∧ (working m).bus = [] :=
  ⟨⟨by decide, by simp [working], fun _ => ⟨_, rfl, by decide⟩, by decide⟩, by decide, by decide, rfl⟩

theorem test_matrix_write_met : let m : MatOp := { kind := .write, group := 1, strands := [0], words := [(0, 1), (255, 2)] }
    Completes (working m) 0 0 m ∧ (m.words.map (·.1)).Nodup ∧ ∀ e ∈ m.words, e.1 < 256 :=
  ⟨⟨by decide, by simp [working], by decide, by decide⟩, by decide, by decide⟩

theorem test_merge_met : let m : MatOp := { kind := .drain, group := 1, strands := [0], merge := some 0x10100, drained := true }
    let s := working m
    (s.core 0).mats[0]? = some m ∧ MergeMay s m ∧ (s.grp m.group).core = 0 ∧ QueuesHaveRoom s ∧ cacheable 0x10100 = true ∧
    KeyAgrees s (0x10100 / 128) m.mergeKey ∧ s.poisoned (0x10100 / 128) = false ∧ 0x10100 / 128 ∉ (s.core 0).wcbPoison ∧
    (∀ c ∈ (s.core 0).wcb, c.pa / 128 ≠ 0x10100 / 128) ∧ s.bus = [] :=
  ⟨by decide, .inl (by decide), by decide, roomy (by decide), by decide, by simp only [KeyAgrees]; decide, by decide, by decide,
    by decide, rfl⟩

theorem test_merge_release_met : let m : MatOp := { kind := .drain, group := 1, strands := [0], merge := some 0x10100, drained := true, mode := 0x40000 }
    mRelease m.mode = true ∧ MergeMay (working m) m ∧ MergeMay (working m) { m with mode := 0x44000, released := true } := by
  refine ⟨by decide, .inr (.inl ⟨by decide, .inr ⟨noFlights (by decide), by decide⟩⟩), .inr (.inr ⟨rfl, ?_, fun h => absurd h (by decide)⟩)⟩
  intro p hp; cases hp

theorem test_pass_met : let m : MatOp := { kind := .mma, group := 1, strands := [0], id := 3 }
    let s := working m
    (s.core 0).mats = [] ++ m :: [] ∧ ((s.core 0).mats.map (·.id)).Nodup ∧ CanStart [] m ∧ s.bus = [] :=
  ⟨by decide, by decide, ⟨rfl, rfl, fun _ h => by cases h⟩, rfl⟩

theorem test_pass_held_met : let m : MatOp := { kind := .mma, group := 1, strands := [0], id := 4 }
    ¬ CanStart [{ kind := .store, group := 1, strands := [0], id := 3 }] m ∧ CanStart [{ kind := .store, group := 1, strands := [1], id := 3 }] m :=
  ⟨fun h => h.2.2 _ (List.mem_singleton.2 rfl) (.inl rfl) rfl 0 (by decide) (by decide),
    rfl, rfl, fun x hx _ _ k hk => by obtain rfl := List.mem_singleton.1 hx; simp at hk; subst hk; decide⟩

/-! ## Hypotheses met: glaze and tier -/

/-- A glaze launch of a chain of 4 ranks whose group is at a rank, or not. -/
def glazed (z : GlzRank) : State :=
  (base.onLaunch 1 fun l => { l with lrec := { l.lrec with flags := 4, chainLen := 4 } }).onG fun g => { g with glz := z }

theorem test_glaze_traps_met : GlazeTrap base .glzend { cause := 0x30, detail := 1 } ∧ GlazeTrap (glazed {}) .glzend { cause := 0x30, detail := 3 } ∧
    (let s := glazed { joined := true }
     let s := s.onG fun g => { g with s := [(0, 6)] }
     GlazeTrap s (.glzcfg (.s 0) (.s 1)) { cause := 0x30, detail := 2 }) :=
  ⟨.noGlaze _ 0 0 (by decide) (by decide) (by decide) (by decide) (by decide), .noRank _ 0 0 (by decide) (by decide) (by decide) (by decide) (by decide) (by decide),
    .reserved 0 1 (by decide) (by decide) (by decide) (by decide) (by decide)⟩

theorem test_glaze_config_met : let s := glazed { joined := true }
    s.bus = [] ∧ Resident s ∧ s.lau.glaze = true ∧ s.g.glz.joined = true ∧ (s.g.sr 0).toNat % 8 < 6 ∧ (s.g.sr 0).toNat / 8 % 2 = 0 ∧
    (s.g.sr 0).toNat / 2 ^ 7 % 2 ^ 9 = 0 ∧ (s.g.sr 0).toNat < 2 ^ 32 ∧ s.g.glz.tile = none :=
  ⟨rfl, resident_of rfl, by decide, by decide, by decide, by decide, by decide, by decide, rfl⟩

theorem test_glaze_join_met : let s := (glazed {}).onG fun g => { g with s := [(0, 3)] }
    (s.g.sr 0).toNat < s.lau.lrec.chainLen ∧ s.lau.chain.at_ 3 = .never ∧ s.g.glz.joined = false ∧ (s.core s.g.core).glz = none ∧
    (∀ e ∈ s.groups, e.1 ≠ s.gk → e.2.launch = s.g.launch → e.2.glz.joined = true → e.2.glz.rank ≠ 3) ∧ Sorted s.groups ∧
    (tfind s.groups s.gk).isSome = true := by decide

theorem test_glaze_end_met : let s := glazed { joined := true, tile := some { cfg := { count := 2 }, elems := [{ a := 1, b := 1, lane := 0 }] } }
    s.lau.glaze = true ∧ s.g.glz.joined = true ∧ s.g.q0 = [] ∧ s.g.q1 = [] ∧ s.g.glz.tile.isSome = true ∧ s.lead.issued = false ∧
    ∀ k ∈ s.ks, (s.g.strand k).wait = none := by decide

theorem test_glaze_mixed_end_met : let s := (glazed { joined := true, tile := some { cfg := { count := 2 } } }).onG fun g => { g with q1 := [(0, 1)] }
    s.g.q0 = [] ∧ s.g.q1 ≠ [] ∧ s.g.glz.room ≠ 0 := by decide

theorem test_glaze_carry_met : (glazed { joined := true, carry := some 5 }).g.glz.carry = some 5 ∧
    (glazed { joined := true }).g.glz.carry = none ∧ (glazed { joined := true }).lead.wait = none ∧ 175 + 1 ≤ (glazed {}).g.held := by decide

theorem test_glaze_accept_met : let s := (glazed { joined := true, tile := some { cfg := { count := 1 } } }).onG fun g => { g with q0 := [(0, 1)], q1 := [(0, 2)] }
    tfind s.groups 1 = some s.g ∧ s.bus = [] ∧ Sorted s.groups ∧ s.g.glz.joined = true ∧ (∃ x, s.g.glz.tile = some x ∧ x.closed = false ∧ x.moved ≤ x.elems.length) :=
  ⟨by decide, rfl, by decide, by decide, _, rfl, rfl, by decide⟩

/-- A carry waits for rank 0, whose unit is on core 0; or the rank is told of its round's end. -/
def chained (told : List Nat) : State :=
  (glazed { joined := true, tile := some {} }).onLaunch 1 fun l => { l with chain := { l.chain with slots := [(0, 7)], map := [(0, .core 0)], toldNot := told } }

theorem test_glaze_carry_arrive_met : let s := chained []
    let l := s.launch 1
    s.g.glz.joined = true ∧ l.chain.at_ 0 = .core 0 ∧ 0 ∉ l.chain.toldNot ∧ tfind l.chain.slots 0 = some 7 ∧ s.g.glz.sent = false ∧
    (tfind s.launches 1).isSome = true ∧ (∀ e ∈ s.groups, e.1 ≠ 1 → e.2.launch = 1 → e.2.glz.joined = true → e.2.glz.rank ≠ 0) := by decide

theorem test_glaze_round_met : let s := chained [0]
    s.g.glz.joined = true ∧ (s.launch 1).chain.at_ 0 = .core 0 ∧ (s.launch 1).chain.toldNot.head? = some 0 := by decide

theorem test_glaze_deliver_met : (base.g.queued 2 63).length ≤ 8 ∧ (base.g.queued 3 0).length ≤ 8 := by decide

/-- A launch that may manage the tier. -/
def capable : State := base.onLaunch 1 fun l => { l with lrec := { l.lrec with flags := 8 } }

theorem test_pin_met : let s := capable.onG fun g => { g with s := [(0, 0x10000), (1, 256)] }
    s.foreignS 0 = false ∧ s.lau.capable = true ∧ PinOk s 0x10000 256 ∧ s.bus = [] ∧ Resident s :=
  ⟨by decide, by decide, ⟨by decide, by
    intro x hx e he
    have : x = 0x10000 := by revert hx; simp [pageStarts]
    subst this; cases (show none = some e from he)⟩, rfl, resident_of rfl⟩

/-- A handle that has a second backing, or none. -/
def backed (flags : Nat) : State :=
  tensor.onCore 0 fun c => { c with handles := [(4096, { tensorHandle with flags, under := 0x10000 })] }

theorem test_tier_traps_met :
    TierTrap base (.pin (.s 0) (.s 1)) { cause := 0x11, detail := 6 } ∧ TierTrap base (.srcfg (.s 0) 4) { cause := 0x11, detail := 6 } ∧
    TierTrap (capable.onG fun g => { g with s := [(1, 0x1000001)] }) (.unpin (.s 0) (.s 1)) { cause := 0x11, detail := 7 } ∧
    TierTrap (capable.onG fun g => { g with s := [(0, 0x30000), (1, 128)] }) (.pin (.s 0) (.s 1)) { cause := 0x10, taddr := 0x30000, detail := 0 } ∧
    TierTrap (base.onG fun g => { g with s := [(0, 4096)] }) (.hswap (.s 0)) { cause := 0x11, detail := 3 } ∧
    TierTrap (backed 1) (.hswap (.s 0)) { cause := 0x11, detail := 8 } :=
  ⟨.notCapable _ 0 1 (by decide) (by decide) (by decide) (by decide), .srcfgNotCapable 0 4 (by decide) (by decide) (by decide),
    .tooLong _ 0 1 (by decide) (by decide) (by decide) (by decide) (by decide),
    .page _ 0 1 [] [] 0x30000 (0x10, 0) (by decide) (by decide) (by decide) (by decide) (by decide) (by decide) (fun _ h => by cases h) (by decide) (by decide),
    .noHandle 0 (by decide) (by decide) (.inl (by decide)), .noShadow 0 _ (by decide) (by decide) (by decide) rfl (by decide) (.inl (by decide))⟩

/-- No strand of one that has nothing issued holds an access. -/
theorem over_met (lo hi : Nat) : RepartOver capable 0 lo hi ∧ NoneBuffered capable 0 lo hi ∧ BlocksPlain capable 0 lo hi := by
  refine ⟨⟨fun p hp => by (cases hp), fun r hr => by (cases hr), ?_, ?_⟩, ?_, fun line _ => rfl, fun q hq => by (cases hq)⟩
  · intro e he x hx b hb
    have h : ∀ e ∈ capable.groups, ∀ x ∈ e.2.strands, x.begun = none := by decide
    rw [h e he x hx] at hb; cases hb
  · intro c hc m hm
    have h : ∀ c ∈ capable.cores, c.2.mats = [] := by decide
    rw [h c hc] at hm; cases hm
  · intro c hc b hb
    have h : ∀ c ∈ capable.cores, c.2.wcb = [] := by decide
    rw [h c hc] at hb; cases hb

theorem test_srcfg_met : (4 : BitVec 8) ∈ [(0 : BitVec 8), 4, 8, 12] ∧ (capable.stack 0).ways ∈ [0, 4, 8, 12] ∧ (capable.stack 0).ways ≠ 4 ∧
    capable.lead.issued = false ∧ capable.lau.capable = true ∧ (∀ e ∈ (capable.stack 0).waysOut, e.2 < 16 - 4 ∨ 16 - 0 ≤ e.2) ∧
    RepartTurn capable 0 ∧ capable.lags.headD false = false ∧ RepartOver capable 0 4 0 ∧ NoneBuffered capable 0 4 0 ∧
    BlocksPlain capable 0 4 0 ∧ (∀ q ∈ (capable.stack 0).queue, ∀ r ∈ q.2, inBlocks 0 0 4 (r.line * 128) = false) :=
  ⟨by decide, by decide, by decide, by decide, by decide, by decide, ⟨by decide, by decide⟩, by decide, (over_met 4 0).1, (over_met 4 0).2.1,
    (over_met 4 0).2.2, by decide⟩

/-- A way that is retired stands in the way of a change; and an SRCFG that issues behind one that waits, or while a change is under
way, has to wait its turn. -/
theorem test_srcfg_retired_met : let s := capable.onStack 0 fun k => { k with waysOut := [(0, 15)] }
    s.lead.issued = false ∧ s.lau.capable = true ∧ RepartTurn s 0 ∧ ∃ e ∈ (s.stack 0).waysOut, 16 - 4 ≤ e.2 ∧ e.2 < 16 - 0 :=
  ⟨by decide, by decide, ⟨by decide, by decide⟩, (0, 15), by decide, by decide⟩

theorem test_srcfg_turn_met :
    let behind := capable.onStack 0 fun k => { k with repartQueue := [(9, 0)] }
    let busy := capable.onStack 0 fun k => { k with repart := some { group := 9, lo := 0, hi := 4 }, repartQueue := [(1, 0)] }
    ¬ RepartTurn behind 0 ∧ (behind.stack 0).repartQueue.contains (behind.gk, behind.cur.jset) = false ∧ behind.lead.wait = none ∧
    ((queued behind 0).stack 0).repartQueue = [(9, 0), (1, 0)] ∧ ¬ RepartTurn busy 0 ∧ ((queued busy 0).stack 0).repartQueue = [(1, 0)] := by
  refine ⟨fun h => ?_, by decide, by decide, by decide, fun h => ?_, by decide⟩
  · exact absurd (h.2 (9, 0) (by decide)) (by decide)
  · exact absurd h.1 (by decide)

/-- A line of a discarded block that a core's L1 holds is one that its next acquire drops. -/
theorem test_discard_signed : let c : Core := { l1 := [((2 ^ 36 - 2 ^ 24) / 128, 0), (0x202, 0)] }
    sigMatch (c.signBlocks 0 0 4).psig ((2 ^ 36 - 2 ^ 24) / 128) = true ∧ sigMatch (c.signBlocks 0 0 4).psig 0x202 = false := by decide

/-- A stack whose ways change, asked for by the issuing set, with a core still to hear. -/
def changing (told : Bool) : State :=
  let s := (capable.onSet fun x => { x with issued := true }).onStack 0 fun k => { k with ways := 4, repart := some { group := 1, lo := 0, hi := 4, count := 2 } }
  if told then s else { s with msgs := [{ group := 1, jset := 0, msg := .ways 3 0 4 }] }

theorem test_srcfg_waits_met : (changing true).lead.issued = true ∧ ((changing true).stack 0).repart = some { group := 1, lo := 0, hi := 4, count := 2 } ∧
    ¬ RepartOver (changing false) 0 0 4 ∧ (changing false).lead.wait = none := by
  refine ⟨by decide, by decide, fun h => h.1 _ (List.mem_singleton.2 rfl) 3 4 rfl, by decide⟩

theorem test_srcfg_over_met : RepartOver (changing true) 0 0 4 := by
  refine ⟨fun p hp => by (cases hp), fun r hr => by (cases hr), ?_, fun c hc m hm => ?_⟩
  rotate_left
  · have h : ∀ c ∈ (changing true).cores, c.2.mats = [] := by decide
    rw [h c hc] at hm; cases hm
  intro e he x hx b hb
  have h : ∀ e ∈ (changing true).groups, ∀ x ∈ e.2.strands, x.begun = none := by decide
  rw [h e he x hx] at hb; cases hb

theorem test_hswap_met : let s := backed 3
    let e := (s.handleEntry s.g.core (s.asidOf s.g) 0).1
    s.foreignS 0 = false ∧ s.lead.issued = false ∧ s.handleValid s.g.core (s.asidOf s.g) e = true ∧ e.flags / 2 % 2 = 1 ∧ e.under ≠ 0 ∧
    (∀ c ∈ (s.core s.g.core).copies, c.group ≠ s.gk) ∧ (∀ m ∈ (s.core s.g.core).mats, m.group ≠ s.gk) ∧ ReleaseMade s ∧
    s.unacked = false ∧ s.lags.headD false = false ∧
    ∀ i, i < 16 → KeyAgrees s (((tget {} s.asids (s.asidOf s.g)).handles + 64 * 0 + i) / 128) none ∧
      s.physFail (((tget {} s.asids (s.asidOf s.g)).handles + 64 * 0 + i) / 128 * 128) true = none := by
  refine ⟨by decide, by decide, by decide, by decide, by decide, by decide, by decide, .inl ⟨by decide, .inr ⟨noFlights (by decide), by decide⟩⟩,
    by decide, by decide, ?_⟩
  simp only [KeyAgrees]; decide

theorem test_hswap_waits_met : let s := (backed 3).onCore 0 fun c => { c with mats := [{ group := 1, strands := [0] }] }
    (∃ m ∈ (s.core s.g.core).mats, m.group = s.gk) ∧ s.lead.wait = none ∧
    ({ s with msgs := [{ group := 1, jset := 0, msg := .ways 3 0 4 }] } : State).unacked = true := by decide

/-! ## Hypotheses met: the package -/

/-- The part after bring-up, nothing running. -/
def booted : State := { State.reset with ctl := { State.reset.ctl with boot := 1 } }

theorem test_driver_met : DriverRule booted (.qkick 1023 1) (booted.setQueue 1023 { booted.queue 1023 with kicked := 1 }) ∧
    DriverRule booted (.controlRegisterWrite 0x100 5) { booted with ctl := { booted.ctl with asidbase := cleared 5 22 } } ∧ booted.bus = [] :=
  ⟨.kick 1023 1 (by decide) (by decide) (by decide) (by decide), .asidbase 5, rfl⟩

theorem test_unload_met : let s : State := { booted with ctl := { booted.ctl with keys := [(63, 7)] } }
    tfind s.ctl.keys 63 ≠ none ∧ s.ctl.mbslot = none ∧ ¬ UnderKey s 63 := by
  refine ⟨by decide, by decide, ?_⟩
  rintro (⟨r, hr, _⟩ | ⟨e, he, _⟩ | ⟨c, hc, _⟩)
  · cases hr
  · cases he
  · cases hc

theorem test_unload_waits_met : let s : State := { booted with
      ctl := { booted.ctl with keys := [(0, 7)] }, loads := [{ (default : Load) with key := some 0 }] }
    tfind s.ctl.keys 0 ≠ none ∧ UnderKey s 0 := ⟨by decide, .inl ⟨_, List.mem_singleton.2 rfl, rfl⟩⟩

theorem test_unit_met : UnitRule base (.waitReread 0) base ∧ base.bus = [] := ⟨.launchWaits 0 (by decide), rfl⟩

theorem test_unit_sfu_met : let a : SfuArg := default
    let s := base.setGrp 1 { base.g with sfu := [(31, [a])] }
    ∃ t, UnitRule s (.sfuResult 1 31) t := ⟨_, .sfu 1 31 default [] (by decide) (by decide)⟩

theorem test_health_met : (∃ u, HealthRule booted (.eccError (.dram 0xFFFF) false) u 2 1 0 0xFFFF [] ∧ RingPlain u) ∧ booted.bus = [] :=
  ⟨⟨_, .memory 0xFFFF, by simp only [RingPlain, Reaches, KeyAgrees]; decide⟩, rfl⟩

theorem test_ring_met : RingPlain { booted with ctl := { booted.ctl with heven := true, hevsize := 4, hevbase := 0x1000 } } := by
  simp only [RingPlain, Reaches, KeyAgrees]; decide

/-- A self-test of a place stands out. -/
def doubted (p : EccPlace) : State := { booted with ctl := { booted.ctl with tests := [p] } }

theorem test_self_tests_met :
    (∃ u, HealthRule (doubted (.dram 0xFFFF)) (.selfTest (.dram 0xFFFF) true) u 3 1 0 0xFFFF []) ∧
    (∃ u, HealthRule (doubted (.dram 0xFFFF)) (.selfTest (.dram 0xFFFF) false) u 4 1 0 0xFFFF []) ∧
    (∃ u, HealthRule (doubted (.sram 7 15 0 64)) (.selfTest (.sram 7 15 0 64) false) u 4 2 0 (7 * 2 ^ 16 + 15 * 2 ^ 8 + 0) []) ∧
    (∃ u, HealthRule (doubted (.localMem 5 0)) (.selfTest (.localMem 5 0) false) u 4 3 0 (5 * 2 ^ 8 + 0 / 512) []) :=
  ⟨⟨_, .soft _ 1 0xFFFF (by decide) (by decide) (by decide) (by decide)⟩, ⟨_, .lastingFrame 0xFFFF false ⟨by decide, .inl rfl⟩⟩,
    ⟨_, .lastingWay 7 15 0 64 false ⟨by decide, .inl rfl⟩ (by decide) _ rfl⟩,
    ⟨_, .bankGone 5 0 _ false (.pad 0) ⟨by decide, .inl rfl⟩ (by decide) (by decide) (by simp only [BankFree]; decide) (by decide)⟩⟩

/-- A set that waits for its palette, with the break of its knot under way, in a launch that has a handler or none. -/
def knotted (handler : DWord) : State :=
  let s := ((lone fun x => { x with wait := some .palette, waitSeq := 9 }).onLaunch 1 fun l => { l with lrec := { l.lrec with handler } }).onCore 0
    fun c => { c with claims := [{ group := 1, jset := 0, units := 2 }] }
  { s with ctl := { s.ctl with breaks := [{ seq := 9, group := 1, jset := 0, members := [9, 12] }] } }

theorem test_knot_break_met : let s := knotted 0x20004
    let b : Break := { seq := 9, group := 1, jset := 0, members := [9, 12] }
    (s.ctl.breaks.find? (·.seq == b.seq)) = some b ∧ StillWaits s b .palette ∧ Sorted s.groups ∧ s.bus = [] ∧ RingPlain s ∧
    (s.launch (s.grp 1).launch).lrec.handler ≠ 0 ∧ (∀ k ∈ (s.grp 1).members 0, ((s.grp 1).strand k).handler = false) ∧
    StillWaits (knotted 0) b .palette ∧ ((knotted 0).launch ((knotted 0).grp 1).launch).lrec.handler = 0 :=
  ⟨by decide, ⟨by decide, by decide, by decide⟩, by decide, rfl, by simp only [RingPlain, Reaches, KeyAgrees]; decide, by decide, by decide,
    ⟨by decide, by decide, by decide⟩, by decide⟩

/-- A set of two that wait at the end of a round, this one in a GLZLEAVE, with its break under way. -/
def leavers (other : Bool) : State :=
  let s := onGroup fun g => { g with
    glz := { joined := true, leaving := true }
    strands := [{ wait := some (.glzRound 0 true), waitSeq := 9, jset := 0, pc := 0x10004 },
                { wait := some (.glzRound 0 other), waitSeq := 12, jset := 5, pc := 0x10004 }] }
  { s with ctl := { s.ctl with breaks := [{ seq := 9, group := 1, jset := 0, members := [9, 12] }] } }

theorem test_leavers_met : let b : Break := { seq := 9, group := 1, jset := 0, members := [9, 12] }
    StillWaits (leavers true) b (.glzRound 0 true) ∧ LeavesToo (leavers true) b ∧ ¬ LeavesToo (leavers false) b := by
  refine ⟨⟨by decide, by decide, by decide⟩, ⟨5, by decide, by decide, 0, by decide⟩, ?_⟩
  rintro ⟨j, hj, hn, r, hr⟩
  have h : ∀ j ∈ ((leavers false).grp 1).sets, j ≠ 0 → j = 5 := by decide
  obtain rfl := h j hj hn
  have h2 : ((((leavers false).grp 1).strand ((((leavers false).grp 1).members 5).headD 0)).wait) = some (.glzRound 0 false) := by decide
  rw [h2] at hr
  cases hr

theorem test_governor_met : 0 < 10 ∧ 10 ≤ 10 ∧ (booted.stack 7).gov ≤ 7 ∧ booted.bus = [] ∧ booted.ctl.boot = 1 := by decide

/-- R474: two days of periods after a prediction for day 700. -/
theorem test_wear_days :
    (booted.onStack 7 fun k => { k with wearEol := 700, wearDay := some 5, periods := 5 + 2 * 86400000 }).ctlRead 0x51F8 = 700 + 2 * 2 ^ 32 := by decide

theorem test_drain_met : cacheable (0x200 * 128) = true ∧ base.bus = [] := by decide

/-- One write waits at a slice. -/
def queued : State :=
  let r : SliceReq := { line := 0x202, cells := [(0x10100, 5)] }
  base.onStack 0 fun k => { k with queue := tset k.queue (sliceOf 0x10100) [r] }

theorem test_slice_met : ∃ r, pickReq (tget [] (queued.stack 0).queue (sliceOf 0x10100)) 0 = some r ∧ nodeOf (r.line * 128) = .stack 0 ∧
    sliceOf (r.line * 128) = sliceOf 0x10100 ∧ tfind queued.sealed r.line = r.key := ⟨{ line := 0x202, cells := [(0x10100, 5)] }, by decide⟩

theorem test_edge_met : let r : SliceReq := { line := 2 ^ 39 / 128, cells := [] }
    let s : State := { booted with edge := [(0, [r])] }
    nodeOf (r.line * 128) = .edge 0 ∧ pickReq (tget [] s.edge 0) 0 = some r ∧ tfind s.sealed r.line = r.key := by decide

theorem test_rooms_of_units_met : QueuesHaveRoom base ∧ (base.core 0).cells = [] := ⟨roomy (by decide), by decide⟩

theorem nextLoad {r : Load} (hg : r.group = 1) (h : cacheable r.pa = true ∧ r.size ≤ 16 ∧ r.pa % 128 + r.size ≤ 128)
    (hk : KeyAgrees { base with loads := [r] } (r.pa / 128) r.key) : NextLoad { base with loads := [r] } 1 0 r := by
  refine ⟨by simp [hg], by simp, h.1, h.2.1, h.2.2, hk, fun x hx => ?_⟩
  simp at hx

theorem test_response_met : let r : Load := { (default : Load) with group := 1, pa := 0x1017C, size := 4, key := none }
    let s : State := { base with loads := [r] }
    NextLoad s 1 0 r ∧ r.fly = none ∧ CleanFor s (s.grp 1).core (r.pa / 128) :=
  ⟨nextLoad rfl (by decide) (by simp only [KeyAgrees]; decide), rfl, by decide, by decide, by decide⟩

theorem test_flight_met : let f : Flight := { op := .add, dst := .s 5, y := 1 }
    let r : Load := { (default : Load) with group := 1, pa := 0x10178, size := 8, fly := some f }
    let s : State := { base with loads := [r] }
    NextLoad s 1 0 r ∧ r.fly = some f ∧ r.size = 8 ∧ CleanFor s (s.grp 1).core (r.pa / 128) ∧ f.op = .add ∧ QueuesHaveRoom s :=
  ⟨nextLoad rfl (by decide) (by simp only [KeyAgrees]; decide), rfl, rfl, ⟨by decide, by decide, by decide⟩, rfl, roomy (by decide)⟩

theorem test_host_met : booted.ctl.boot = 1 ∧ booted.reachable 0x1000 = true ∧ 0x1000 % 64 = 0 ∧ KeyAgrees booted (0x1000 / 128) none ∧
    booted.tagOf (0x1000 / 128) = none :=
  ⟨by decide, by decide, by decide, by simp only [KeyAgrees]; decide, by decide⟩

theorem test_host_sealed_met : let s : State := { booted with sealed := [(0x20, 3)] }
    s.ctl.boot = 1 ∧ s.reachable 0x1000 = true ∧ tfind s.sealed (0x1000 / 128) = some 3 ∧
    s.tagOf (0x1000 / 128) = none ∧ ∀ r ∈ s.queuedAt (0x1000 / 128 * 128), r.line ≠ 0x1000 / 128 := by decide

/-- The same line in the tier under its key, pinned by a launch or not. -/
def sealedTier (pin : Option Nat) : State :=
  ({ booted with sealed := [(0x20, 3)] } : State).onStack 0 fun k => { k with tier := [(0, { line := 0x20, pin, key := some 3 })] }

theorem test_host_pinned_met :
    (sealedTier (some 9)).tagOf (0x1000 / 128) = some 3 ∧ KeyedPinned (sealedTier (some 9)) (0x1000 / 128) true ∧
    (sealedTier none).tagOf (0x1000 / 128) = some 3 ∧ KeyedPinned (sealedTier none) (0x1000 / 128) false := by
  refine ⟨by decide, fun n hn e he _ _ => ?_, by decide, fun n hn e he _ _ => ?_⟩ <;>
  · obtain rfl : 0 = n := by simpa [nodeOf] using hn
    obtain rfl := List.mem_singleton.1 he
    rfl

theorem test_host_refused_met : State.reset.ctl.boot ≠ 1 ∧ State.reset.bus = [] := by decide

/-- An aperture that takes every request to the first 64 KiB. -/
def opened : State := { booted with ctl := { booted.ctl with inw := [(0, { base := 0, cfg := 0x1000010 })] } }
def request : Inbound := { src := 0, op := .load, addr := 0, size := 8, data := 0, mode := 0, draw := 0, lane := 0, pc := 0 }

theorem test_inbound_met : booted.accepts request = false ∧ opened.accepts request = true ∧ request.addr % request.size = 0 ∧
    KeyAgrees opened (request.addr / 128) (tfind opened.sealed (request.addr / 128)) ∧
    opened.tagOf (request.addr / 128) = tfind opened.sealed (request.addr / 128) ∧
    (let s : State := { opened with sealed := [(0, 3)] }
     s.accepts request = true ∧ tfind s.sealed (request.addr / 128) = some 3 ∧ s.tagOf (request.addr / 128) = none ∧
     ∀ q ∈ s.queuedAt (request.addr / 128 * 128), q.line ≠ request.addr / 128) :=
  ⟨by decide, by decide, by decide, by simp only [KeyAgrees]; decide, by decide, by decide⟩

/-- A queue whose ring holds nothing: the next record's number is not the one expected. -/
def pending (reread : Nat) : State := booted.setQueue 0 { enable := true, size := 4, kicked := 1, base := 0x1000, reread := reread }

theorem test_record_met : let x := (pending 0).queue 0
    x.enable = true ∧ x.stopped = none ∧ x.head = none ∧ x.cons.toNat < x.kicked.toNat ∧ (nextRecord (pending 0) 0).seq ≠ x.cons + 1 := by decide

theorem test_record_there_met : RecordThere (pending 0) 0 ∧ (pending 0).bus = [] := ⟨⟨by decide, by decide⟩, rfl⟩

/-- The next record is there, and is no launch. -/
def wrong : State := { pending 0 with mem := [(0x11D0, 1)] }

theorem test_record_fails_met : let s := wrong
    (nextRecord s 0).seq = (s.queue 0).cons + 1 ∧ (nextRecord s 0).fault = 0 ∧ RecordThere s 0 ∧
    ((withAsid s (nextRecord s 0).asid).recFails (nextRecord s 0)).isSome = true := ⟨by decide, by decide, ⟨by decide, by decide⟩, by decide⟩

theorem test_record_torn_met : ((pending 4).queue 0).reread = 4 ∧ (nextRecord (pending 4) 0).seq ≠ ((pending 4).queue 0).cons + 1 := by decide

/-- A head with every wait seen. -/
def headed : State := booted.setQueue 5 { enable := true, head := some { lrec := { fault := 0 }, seen := [0, 1, 2, 3] } }

theorem test_start_met : Sorted headed.queues ∧ Sorted headed.launches ∧ headed.bus = [] ∧
    (∃ h, (headed.queue 5).head = some h ∧ (headed.queue 5).enable = true ∧ (headed.queue 5).stopped = none ∧ (∀ i, i < 4 → i ∈ h.seen) ∧
      headed.launches.length < 256 ∧ h.lrec.flags.getLsbD 2 = false) :=
  ⟨by decide, by decide, rfl, _, rfl, by decide, by decide, by decide, by decide, by decide⟩

/-- A launch of one team that has not been handed out. -/
def launched : State := booted.setLaunch 1 { lrec := { teamsX := 1, teamsY := 1, groups := 1, base := 16, ceil := 16 } }

theorem test_handout_met : HandsOut launched 1 ∧ Sorted launched.launches ∧ (∃ k, k < 8 ∧ (launched.stack k).room = true) :=
  ⟨⟨⟨_, rfl, by decide, by decide, by decide, by decide⟩, .inr (by decide)⟩, by decide, 7, by decide⟩

theorem test_paused_met : let s : State := { launched with ctl := { launched.ctl with paused := some (1, 0) } }
    s.ctl.paused = some (1, 0) ∧ MayHandOut s 1 := ⟨rfl, _, rfl, by decide, by decide, by decide, by decide⟩

/-- Its team heads a stack's queue. -/
def offered : State := launched.onStack 0 fun k => { k with offers := [{ launch := 1, team := 0 }] }

theorem test_admit_met : let s := offered
    s.served 0 = some ({ launch := 1, team := 0 }, 0, false, ⟨0, 0, 0, 0, 0, [{ core := 0, part := 0, slot := 0, units := 1, ranked := false }]⟩) ∧
    (s.launch 1).travel = false ∧ (s.launch 1).lrec.widthCode ≤ 2 ∧ (s.core 0).wcb = [] ∧ launched.served 0 = none := by decide

/-- A team held for its save, with a save area on its page or none. -/
def holding (save : Nat) : State :=
  (onGroup fun g => { g with saving := true }).onLaunch 1 fun l => { l with lrec := { l.lrec with save := save } }

theorem test_save_met : let s := holding 0
    Sorted s.groups ∧ Sorted s.teams ∧ (∃ e ∈ s.groups, OfTeam e.2 1 0) ∧ (s.launch 1).stop = none ∧
    (∀ e ∈ s.groups, OfTeam e.2 1 0 → e.2.saving = true ∧ e.2.glz = {}) ∧ (∀ e ∈ s.groups, OfTeam e.2 1 0 → s.settled e.1 = true) ∧
    s.allocRead (s.team 1 0).core (s.team 1 0).base (s.team 1 0).size = false ∧ (s.launch 1).lrec.save = 0 :=
  ⟨by decide, by decide, ⟨_, List.mem_singleton.2 rfl, rfl, rfl, rfl⟩, by decide,
    fun e he _ => (by decide : ∀ e ∈ (holding 0).groups, e.2.saving = true ∧ e.2.glz = {}) e he,
    fun e he _ => (by decide : ∀ e ∈ (holding 0).groups, (holding 0).settled e.1 = true) e he, by decide, by decide⟩

/-- A launch with a save area that a core may swap, or whose turn has passed. -/
def swapping (swapped : List Nat) : State :=
  ((holding 0x20000).onStack 0 fun k => { k with offers := [{ launch := 1, team := 1 }] }).onCore 0 fun c => { c with idle := 2 ^ 20, swapped }

theorem test_swap_met : let s := swapping []
    SwapWaits s 0 1 ∧ patienceOf s 1 ≤ (s.core 0).idle ∧ KeysOnce s ∧ (∀ o ∈ (s.stack 0).offers, ¬ (o.launch = 1 ∧ o.team = 0)) ∧
    (∃ e ∈ s.groups, OfTeam e.2 1 0) ∧ ¬ SwapWaits (swapping [1]) 0 1 := by
  refine ⟨⟨⟨{ launch := 1, team := 1 }, ?_, rfl⟩, by decide, by decide, ⟨0, by simp only [TeamOn]; decide⟩, by decide⟩, by decide, ⟨by decide, by decide⟩, by decide,
    ⟨_, List.mem_singleton.2 rfl, rfl, rfl, rfl⟩, fun h => absurd h.2.2.2.2 (by decide)⟩
  decide

theorem test_save_area_met : let s := (holding 0x10000).onStack 0 fun k => { k with offers := [{ launch := 1, team := 1 }] }
    (s.launch 1).lrec.save ≠ 0 ∧ (s.launch 1).draining = false ∧
    s.rangeTrap 0 (s.launch 1).lrec.asid ((s.launch 1).lrec.save + 0 * (s.launch 1).saveSlot) (s.launch 1).saveSlot .write false = none ∧
    (s.launch 1).patience ≤ ((s.onCore 0 fun c => { c with idle := 2 ^ 20 }).core 0).idle := by decide

/-- The same team saved, and its place offered again. -/
def savedState : State :=
  let s := holding 0x10000
  let v : SavedTeam := { team := { launch := 1 }, groups := [(7, { s.g with saving := false })] }
  { (s.onStack 0 fun k => { k with offers := [{ launch := 1, saved := true }] }) with groups := [], teams := [], saved := [v] }

theorem test_restore_met : let s := savedState
    let v := s.saved.headD {}
    s.served 0 = some ({ launch := 1, saved := true }, 0, false, ⟨0, 0, 0, 0, 0, [{ core := 0, part := 0, slot := 0, units := 22, ranked := false }]⟩) ∧
    (s.saved.find? fun v => v.team.launch == 1 && v.team.index == 0) = some v ∧
    s.rangeTrap 0 1 (0x10000 + 0 * (s.launch 1).saveSlot) (s.launch 1).saveSlot .read false = none ∧ (v.groups.map (·.1)).Nodup ∧
    (∀ e ∈ v.groups, e.2.glz = {} ∧ e.2.trav = none ∧ tfind s.groups e.1 = none) ∧ (s.core 0).claims = [] ∧ Sorted v.bytes ∧
    v.team.size = (s.launch 1).bytes := by decide

theorem test_drain_limit_met : let s := ((holding 0).onLaunch 1 fun l => { l with draining := true }).onCore 0 fun c => { c with drains := [(1, 0)] }
    tfind (s.core 0).drains 1 = some 0 ∧ (s.launch 1).lrec.drainLimit = 0 ∧ (s.launch 1).draining = true ∧ (s.launch 1).stop = none ∧
    (∃ e ∈ s.teams, e.2.launch = 1 ∧ e.2.core = 0) ∧ (s.core 0).holder = none := by decide

theorem test_group_end_met : let s := onStrands fun x => { x with ended := true }
    tfind s.groups 1 = some s.g ∧ s.g.live = false ∧ s.enginesDone 1 = true ∧ s.loads = [] ∧ (s.launch 1).stop = none ∧ s.g.trav = none ∧
    s.g.glz.joined = false ∧ s.allocRead 0 0 0 = false ∧ Sorted s.groups := by decide

theorem test_complete_met : let s := base.onLaunch 1 fun l => { l with ended := 1 }
    (s.launch 1).stop = none ∧ (s.launch 1).finished = false ∧ (s.launch 1).travel = false ∧
    (s.launch 1).ended = (s.launch 1).lrec.teamsX * (s.launch 1).lrec.teamsY ∧ (∀ r ∈ s.remotes, r.launch ≠ 1) ∧ (s.launch 1).lrec.semAddr = 0 ∧
    NoKeys s ∧ (∀ c ∈ s.cores, c.2.holder = none ∧ c.2.wcb = []) ∧ (base.launch 1).ended ≠ (base.launch 1).lrec.teamsX * (base.launch 1).lrec.teamsY :=
  ⟨by decide, by decide, by decide, by decide, by decide, by decide, ⟨by decide, by decide, by decide, by decide⟩, by decide, by decide⟩

/-- A stopping launch whose engines are idle. -/
def stopping : State := base.onLaunch 1 fun l => { l with stop := some { kind := 4 } }

theorem test_stop_met : (stopping.launch 1).stop = some { kind := 4 } ∧ (1 : Nat) ≠ 0 ∧ Sorted stopping.cores ∧ stopping.ctl.resetting = false ∧
    (stopping.launch 1).lrec.fault = 0 ∧ RunOut stopping 1 ∧ NoKeys stopping ∧ NoReparts stopping 1 ∧ (∀ c ∈ stopping.cores, c.2.wcb = []) :=
  ⟨by decide, by decide, by decide, by decide, by decide,
    ⟨by simp only [AtBoundary]; decide, ⟨by decide, by decide⟩, fun k hk r hr => by
      have h : ∀ k ∈ stopping.stackTab, k.2.repart = none := by decide
      rw [h k hk] at hr; cases hr⟩,
    ⟨by decide, by decide, by decide, by decide⟩, fun k hk r hr => by
      have h : ∀ k ∈ stopping.stackTab, k.2.repart = none := by decide
      (rw [h k hk] at hr; cases hr), by decide⟩

theorem test_stop_waits_met : ¬ RunOut { stopping with remotes := [{ launch := 1 }] } 1 ∧
    ¬ RunOut { stopping with loads := [{ (default : Load) with group := 1 }] } 1 :=
  ⟨fun h => h.2.1.2 _ (List.mem_singleton.2 rfl) rfl,
    fun h => (h.1 (1, base.g) (by decide) rfl).2 _ (List.mem_singleton.2 rfl) rfl⟩

theorem test_completion_met : let s := booted.setQueue 3 { cbase := 0x2000, csize := 4, endings := [{ status := 0, launch := 9, seq := 1 }] }
    (s.queue 3).endings = [{ status := 0, launch := 9, seq := 1 }] ∧ (s.queue 3).ctail - (s.queue 3).chead ≠ BitVec.ofNat 64 (2 ^ (s.queue 3).csize) ∧
    Reaches s 0x2080 128 none := by
  refine ⟨by decide, by decide, ?_⟩
  simp only [Reaches, KeyAgrees]; decide

theorem test_reset_event_met : Sorted base.launches ∧ base.bus = [] ∧ (∀ e ∈ base.launches, e.2.stop = none ∧ e.2.finished = false ∧ e.1 = 1) ∧
    RunOut base 1 ∧ ¬ EnginesIdle (base.onCore 0 fun c => { c with mats := [{ group := 1, launch := 1, strands := [0] }] }) 1 := by
  refine ⟨by decide, rfl, by decide, ⟨by simp only [AtBoundary]; decide, ⟨by decide, by decide⟩, fun k hk r hr => ?_⟩,
    by simp only [EnginesIdle]; decide⟩
  have h : ∀ k ∈ base.stackTab, k.2.repart = none := by decide
  rw [h k hk] at hr; cases hr

theorem test_drain_command_met : Commanded base 1 (base.launch 1) ∧ (base.launch 1).draining = false ∧ (base.launch 1).stop = none ∧ Sorted base.stackTab ∧
    (1 : Nat) < 2 ^ 32 := ⟨⟨by decide, by decide⟩, by decide, by decide, by decide, by decide⟩

theorem test_resume_command_met : let s := base.onLaunch 1 fun l => { l with lst := 2, draining := true }
    Commanded s 1 (s.launch 1) ∧ (s.launch 1).lst = 2 ∧ (s.launch 1).travel = false := ⟨⟨by decide, by decide⟩, by decide, by decide⟩

/-- No loads, requests or copies of an ASID are under way. -/
def dropping : State := { booted with ctl := { booted.ctl with inv := some (3, true, true, true) } }

theorem test_invalidation_met : base.ctl.inv = none ∧ base.bus = [] ∧ dropping.ctl.inv = some (3, true, true, true) ∧ ¬ StillUses dropping 3 true ∧
    NoKeys dropping ∧ StillUses { dropping with remotes := [{ asid := 3 }] } 3 true := by
  refine ⟨rfl, rfl, rfl, ?_, ⟨by decide, by decide, by decide, by decide⟩, .inr (.inl ⟨_, List.mem_singleton.2 rfl, rfl⟩)⟩
  rintro (⟨r, hr, _⟩ | ⟨r, hr, _⟩ | ⟨e, he, _⟩ | ⟨c, hc, _⟩)
  · cases hr
  · cases hr
  · cases he
  · cases hc

/-! ## Hypotheses met: travel -/

theorem test_tloc_met : base.foreignS 63 = false ∧ Stays base 1 ∧ base.g.core < 128 ∧ base.g.part < 4 ∧ base.leadK < 32 ∧ base.g.trav = none :=
  ⟨by decide, stays_of rfl, by decide, by decide, by decide, rfl⟩

theorem test_allocate_met : let s := base.onLaunch 1 fun l => { l with spawns := [{ launch := 1, packets := [{ launch := 1 }] }] }
    (s.launch 1).spawns = [{ launch := 1, packets := [{ launch := 1 }] }] ∧ (s.launch 1).stop = none := by decide

/-- A core that holds a segment of a travel launch. -/
def holder (arrivals : List (Bool × Packet)) : State :=
  (base.onLaunch 1 fun l => { l with lrec := { l.lrec with flags := 1 } }).onCore 3 fun c => { c with
    holder := some { launch := 1, loaded := true, admitting := true, arrivals := arrivals } }

theorem test_arrival_met : let s : State := { holder [] with packets := [{ launch := 1, core := 3 }] }
    s.packets[0]? = some { launch := 1, core := 3 } ∧ (∃ h, (s.core 3).holder = some h ∧ h.launch = 1 ∧ h.segment = 0 ∧ h.loaded = true) ∧ Sorted s.groups :=
  ⟨by decide, ⟨_, rfl, rfl, rfl, rfl⟩, by decide⟩

theorem test_forward_met : let s : State := { holder [] with packets := [{ launch := 1, core := 3, segment := 2 }] }
    ∃ h, (s.core 3).holder = some h ∧ h.launch = 1 ∧ h.segment ≠ 2 := ⟨_, rfl, rfl, by decide⟩

theorem test_admission_met : let p : Packet := { launch := 1, core := 3, scalars := List.replicate 16 0 }
    let s := holder [(false, p)]
    PacketForm p ∧ (∃ part slot, part < 4 ∧ slot < 32 ∧ ¬ SlotTaken s 3 part slot) ∧ (s.launch 1).stop = none ∧ (∃ h, (s.core 3).holder = some h ∧ h.arrivals = [(false, p)] ∧ h.segment = p.segment) :=
  ⟨⟨by decide, by decide, by decide, by decide, by decide, by decide⟩, ⟨3, 31, by decide, by decide, by decide⟩, by decide, _, rfl, rfl, rfl⟩

/-- One traveller stands in partition 0: the others tie, and the lowest of them takes the next. -/
theorem test_slot_chosen : let s := (holder []).setGrp 2 { core := 3, launch := 1, width := 4, strands := [{}], trav := some {} }
    SlotChosen s 3 1 0 ∧ SlotTaken s 3 0 0 ∧ ¬ SlotTaken s 3 0 31 := ⟨⟨by decide, by decide, by decide, by simp, by decide⟩, by decide, by decide⟩

/-- A traveller on its way out. -/
def outbound : Group :=
  { core := 3, launch := 1, width := 4, strands := [{ wait := some .departure }], trav := some { leaving := some 0x10004 } }
def leaving : State := (holder []).setGrp 2 outbound

theorem test_departure_met : tfind leaving.groups 2 = some outbound ∧ outbound.trav = some { leaving := some 0x10004 } ∧
    (leaving.launch outbound.launch).stop = none ∧ (leaving.core outbound.core).wcb = [] ∧ leaving.enginesDone 2 = true ∧ leaving.bus = [] ∧
    leaving.loads = [] ∧ leaving.remotes = [] ∧ ¬ CarriesBad outbound (outbound.strand 0).live ∧
    CarriesBad { outbound with bad := [2 ^ 14 + 3] } (outbound.strand 0).live := by
  refine ⟨by decide, by decide, by decide, by decide, by decide, by decide, by decide, by decide, fun ⟨e, he, _⟩ => ?_,
    ⟨_, List.mem_singleton.2 rfl, .inr (.inl ⟨by decide, by decide⟩)⟩⟩
  cases he

/-- A travel launch whose map, at 0x10200 of an identity page of 2 MiB, gives segment 0 to core 3 and segment 1 to cores 4 and 5. -/
def mapped : State :=
  let s := base.onLaunch 1 fun l => { l with lrec := { l.lrec with flags := 1, segmap := 0x10200, base := 16, budget := 100 } }
  { s with
    asids := [(1, { root := 0x20000, flags := 1 })], teams := [], groups := []
    mem := [(0x10000, 0xFF), (0x10202, 1), (0x10208, 2), (0x10240, 0x83), (0x10248, 0x84), (0x10249, 0x85), (0x20000, 1), (0x20002, 3),
      (0x30000, 1), (0x30002, 4), (0x40000, 0xF)] }

/-- The next record of a queue is no launch, and has a place for its fault record. -/
def faulted : State := { mapped.setQueue 0 { enable := true, size := 4, kicked := 1, base := 0x10400 } with
  mem := mapped.mem.filter (·.1 < 0x10300) ++ [(0x10558, 1), (0x105D0, 1), (0x105E9, 8), (0x105EA, 1)] ++ mapped.mem.filter (0x10300 ≤ ·.1) }

theorem test_record_fault_met : let s := faulted
    let r := nextRecord s 0
    let u := withAsid s r.asid
    r.seq = (s.queue 0).cons + 1 ∧ (u.recFails r).isSome = true ∧ r.fault ≠ 0 ∧ r.fault % 64 = 0 ∧ (tget ({} : Asid) u.asids r.asid).flags % 2 = 1 ∧
    u.devCheck r.asid r.fault .write = none ∧ Reaches u (u.devPa r.asid r.fault) 64 ((u.devXlate r.asid r.fault).key r.fault) ∧ RecordThere s 0 :=
  ⟨by decide, by decide, by decide, by decide, by decide, by decide, by simp only [Reaches, KeyAgrees]; decide, by decide, by decide⟩

theorem test_segment_load_met : let s := mapped
    s.launches = [(1, s.launch 1)] ∧ (s.launch 1).travel = true ∧ (s.launch 1).stop = none ∧ (s.launch 1).finished = false ∧
    (s.launch 1).draining = false ∧ (s.core 3).holder = none ∧ (s.core 3).shutBanks = [] ∧
    (s.core 3).shutParts = [] ∧ (s.core 3).claims = [] ∧ (s.launch 1).bytes ≤ 458752 ∧ (s.launch 1).rows ≤ 256 ∧ (s.launch 1).lrec.base ≤ 64 ∧
    (s.launch 1).savedHolders = [] ∧ s.teams = [] ∧ s.groups = [] ∧ (s.core 3).wcb = [] ∧ s.readVa 3 1 (0x10200 + 0x10) 8 = 0 := by decide

/-- Core 3 is named for segment 0, and core 4 for segment 1, as is core 5. -/
theorem test_named_met : NamedFor mapped 3 (mapped.launch 1) 0 ∧ NamedFor mapped 5 (mapped.launch 1) 1 := by
  refine ⟨⟨⟨by decide, 0, by decide⟩, by simp⟩, ⟨by decide, 1, by decide⟩, ?_⟩
  rintro j hj ⟨_, f, hf⟩
  obtain rfl : j = 0 := by omega
  have h : holdersOf (mapped.segEntry 5 (mapped.launch 1) 0) = [(0, 3)] := by decide
  rw [h] at hf
  simp at hf

theorem may_give {s : State} {l : Launch} {c g f : Nat} (h : s.devN l.lrec.asid (l.lrec.segmap + 8) 4 = 2)
    (h1 : holdersOf (s.devN l.lrec.asid (l.lrec.segmap + 0x40 + 8 * 1) 8) = [(0, 4), (1, 5)]) (hm : MayGive s l 0 c g f) :
    g = 1 ∧ ((f = 0 ∧ c = 4) ∨ (f = 1 ∧ c = 5)) := by
  obtain ⟨h2, h3, _, h4, _⟩ := hm
  rw [h] at h3
  obtain rfl : g = 1 := by omega
  rw [h1] at h4
  simpa using h4

theorem test_replication_met :
    let s := (mapped.onCore 3 fun c => { c with holder := some { launch := 1, hot := 100 } }).onCore 4 fun c => { c with holder := some { launch := 1, segment := 1 } }
    let l := s.launch 1
    let e := s.entryFor none l 0
    (tfind s.launches 1).isSome = true ∧ l.stop = none ∧ l.lst ≠ 2 ∧ e / 2 ^ 32 % 2 = 0 ∧ (∃ x ∈ holdersOf e, ∃ h, (s.core x.2).holder = some h ∧ h.launch = 1 ∧ h.segment = 0 ∧ 100 ≤ h.hot) ∧ FieldFree e 1 ∧
    DonorIs s l 0 4 1 0 ∧ NamedOnce s l 0 ∧ (s.core 4).holder = some { launch := 1, segment := 1 } ∧ (∀ x ∈ s.groups, x.2.core = 4 → s.settled x.1 = true ∧ x.2.bad = []) ∧
    s.allocRead 4 0 0 = false := by
  refine ⟨by decide, by decide, by decide, by decide, ⟨(0, 3), by decide, _, rfl, rfl, rfl, by decide⟩, ⟨by decide, by decide, by decide⟩,
    ⟨⟨by decide, by decide, by decide, by decide, by decide⟩, fun c g f h => ?_⟩, fun c g f g' f' h h' => ?_, by decide, by decide, by decide⟩
  · obtain ⟨_, ⟨_, rfl⟩ | ⟨_, rfl⟩⟩ := may_give (by decide) (by decide) h
    · exact .inr ⟨rfl, Nat.le_refl 4⟩
    · exact .inr ⟨by decide, by decide⟩
  · obtain ⟨rfl, h⟩ := may_give (by decide) (by decide) h
    obtain ⟨rfl, h'⟩ := may_give (by decide) (by decide) h'
    omega

/-- A traveller with operands for a SPAWN: an entry address in s0 and a payload word in s1. -/
def spawner (t : DWord) (n : Nat) : State :=
  mapped.setGrp 1 { held := 16, launch := 1, width := 4, s := [(0, t), (1, BitVec.ofNat 64 n)], strands := [{ pc := 0x10004 }], trav := some {} }

theorem spawn_args {t : DWord} {n : Nat} (h : (spawner t n).lau.travel = true ∧ (spawner t n).foreignS 0 = false ∧ (spawner t n).foreignS 1 = false) :
    SpawnArgs (spawner t n) (.v 0) (.s 0) (.s 1) 0 ((spawner t n).g.sr 0) ((spawner t n).g.sr 1).toNat := .mk 0 0 1 h.1 h.2.1 h.2.2

theorem spawn_target : TargetOk (spawner 0x10004 16) 0x10004 true := ⟨by decide, by decide, 0xFF, by rfl, by decide, fun _ => by decide⟩

theorem test_spawn_met : SpawnArgs (spawner 0x10004 16) (.v 0) (.s 0) (.s 1) 0 0x10004 16 ∧ SpawnOk (spawner 0x10004 16) 0 0x10004 16 0 ∧
    (spawner 0x10004 16).ks = [0] :=
  ⟨spawn_args (by decide), ⟨⟨by decide, by decide, by decide⟩, spawn_target, by decide, by decide, by decide⟩, by decide⟩

theorem test_spawn_traps_met : SpawnTrap base (.v 0) (.s 0) (.s 1) { cause := 0x03 } ∧
    SpawnTrap (spawner 0x10004 0) (.s 0) (.s 0) (.s 1) { cause := 0x03 } ∧ SpawnTrap (spawner 0x10004 0) (.v 0) (.s 0) (.s 16) { cause := 0x03 } ∧
    SpawnTrap (spawner 0x10004 65) (.v 0) (.s 0) (.s 1) { cause := 0x22, detail := 6 } ∧
    SpawnTrap (spawner 0x10004 2) (.v 175) (.s 0) (.s 1) { cause := 0x03 } ∧
    SpawnTrap (spawner 0x10004 17) (.v 0) (.s 0) (.s 1) { cause := 0x04 } ∧
    SpawnTrap (spawner 0x10000 16) (.v 0) (.s 0) (.s 1) { cause := 0x09, taddr := 0x10000 } ∧
    (let s := (spawner 0x10004 16).onLaunch 1 fun l => { l with alive := List.range 100 }
     SpawnTrap s (.v 0) (.s 0) (.s 1) { cause := 0x21 }) :=
  ⟨.noTravel (by decide), .notV (fun _ h => by cases h), .notS (.inr fun k h => by (cases h; decide)), .payload _ _ _ (spawn_args (by decide)) (by decide),
    .past 175 2 _ (.mk 175 0 1 rfl rfl rfl) (by decide) (by decide), .notHeld _ _ _ (spawn_args (by decide)) (by decide) (by decide) (by decide),
    .target _ _ _ _ (spawn_args (by decide)) ⟨by decide, by decide, by decide⟩ (.header (by decide) (by decide)),
    .full 0 16 0 0x10004 (.mk 0 0 1 rfl rfl rfl) ⟨by decide, by decide, by decide⟩
      ⟨by decide, by decide, 0xFF, by rfl, by decide, fun _ => by decide⟩ (by decide) (by decide) (by decide) (by decide)⟩

/-- An entry in the line below the image, and one in a segment whose map entry names no core. -/
theorem test_spawn_elsewhere_met :
    (let s := { spawner 0xFF84 16 with mem := (0xFF80, 3) :: mapped.mem }
     SpawnTrap s (.v 0) (.s 0) (.s 1) { cause := 0x20, taddr := 0xFF84, detail := 1 }) ∧
    (let s := { spawner 0x10004 16 with mem := mapped.mem.filter (·.1 ≠ 0x10240) }
     SpawnTrap s (.v 0) (.s 0) (.s 1) { cause := 0x20, taddr := 0x10004, detail := 2 }) :=
  ⟨.outside 0 16 0xFF84 (.mk 0 0 1 rfl rfl rfl) ⟨by decide, by decide, by decide⟩
      ⟨by decide, by decide, 3, by rfl, by decide, fun _ => by decide⟩ (by decide),
    .unheld 0 16 0 0x10004 (.mk 0 0 1 rfl rfl rfl) ⟨by decide, by decide, by decide⟩
      ⟨by decide, by decide, 0xFF, by rfl, by decide, fun _ => by decide⟩ (by decide) (by decide)⟩

theorem test_tloc_trap_met : NotScalar (spawner 0 0) (.q 7) ∧ NotScalar (spawner 0 0) (.s 16) ∧ ¬ NotScalar (spawner 0 0) (.s 15) :=
  ⟨fun _ h => by (cases h), fun k h => by (cases h; decide), fun h => absurd (h 15 rfl) (by decide)⟩

/-- Every strand slot of core 3 is a traveller's, and an arrival waits. -/
def traveller (p k : Nat) : Group := { core := 3, part := p, slot := k, launch := 1, width := 4, strands := [{}], trav := some { id := 32 * p + k, slot := k } }
def crowded : State := { (mapped.onCore 3 fun c => { c with cycle := 2 ^ 20, holder := some { launch := 1, arrivals := [(false, { launch := 1 })] } }) with
  groups := (List.range 4).flatMap fun p => (List.range 32).map fun k => (100 + 32 * p + k, traveller p k) }

theorem test_crowded_met : ∀ part slot, part < 4 → slot < 32 → SlotTaken crowded 3 part slot := by
  intro p k hp hk
  exact ⟨(100 + 32 * p + k, traveller p k), by simp [crowded]; exact ⟨p, hp, k, hk, rfl, rfl⟩, rfl, rfl, rfl, rfl⟩

theorem tfind_mem {α : Type} {t : Table α} {k : Nat} {x : α} (h : tfind t k = some x) : (k, x) ∈ t := by
  induction t with
  | nil => cases h
  | cons e t ih =>
    by_cases he : e.1 = k
    · simp [tfind, he] at h; subst he; simp [← h]
    · simp [tfind, he] at h; simp [ih h]

theorem first_resident : ResidentHere crowded 3 100 0 0 := ⟨traveller 0 0, { id := 0, slot := 0 }, by decide, rfl, rfl, rfl, rfl, rfl, rfl⟩

theorem idlest_settled (k : Nat) (h : IdlestIs crowded 3 k) : crowded.settled k = true := by
  obtain ⟨id, last, ⟨g, tr, hf, _, _, ht, _, hi, _⟩, hl⟩ := h
  have h0 : id = 0 := by rcases hl _ _ _ first_resident with h | h <;> omega
  have hm := tfind_mem hf
  simp only [crowded, List.mem_flatMap, List.mem_map, List.mem_range] at hm
  obtain ⟨p, _, j, _, hp⟩ := hm
  obtain ⟨rfl, rfl⟩ := Prod.mk.inj hp
  obtain rfl := Option.some.inj ht
  simp at hi
  obtain ⟨rfl, rfl⟩ : p = 0 ∧ j = 0 := by omega
  decide

theorem test_travel_swap_met : let s := crowded
    (∃ h, (s.core 3).holder = some h ∧ h.arrivals ≠ [] ∧ h.admitting = true ∧ (s.launch h.launch).patience ≤ (s.core 3).cycle.toNat - h.lastBusy) ∧
    (∀ h, (s.core 3).holder = some h → h.swapped = false) ∧
    IdlestIs s 3 100 ∧ (∀ k, IdlestIs s 3 k → s.settled k = true) ∧ tfind s.groups 100 = some (traveller 0 0) ∧
    (∃ h, ((s.onCore 3 fun c => { c with holder := c.holder.map fun h => { h with swapped := true } }).core 3).holder = some h ∧ h.swapped = true) :=
  ⟨⟨_, rfl, by decide, rfl, by decide⟩, by decide,
    ⟨0, 0, first_resident, fun _ _ _ _ => by omega⟩, idlest_settled, by decide, ⟨_, rfl, rfl⟩⟩

/-- A traveller of segment 0, on core 3, whose next words lie in the image of another segment, or outside. -/
def roaming (f : Strand → Strand) : State :=
  let s := mapped.onCore 3 fun c => { c with holder := some { launch := 1, loaded := true }, tlb := [⟨1, 0, { wr := true, x := true, base := 0, size := 2 ^ 21 }⟩] }
  s.setGrp 1 { core := 3, launch := 1, held := 16, width := 4, strands := [f { pc := 0x10004 }], trav := some {} }

theorem test_departs_met : let s := roaming fun x => { x with pc := 0x2FFFC }
    MoveRule s .nop (fun _ x => landed x (seqNext x.pc 1)) ∧ s.bus = [] ∧ s.g.trav = some {} ∧ s.ks = [0] ∧ s.g.strands.length = 1 ∧
    (landed (s.g.strand 0) (seqNext (s.g.strand 0).pc 1)).handler = false ∧
    s.segmentOf s.g.core s.lau 0x30004 ≠ some (ownSegment s) ∧
    DepartBad s (landed (s.g.strand 0) (seqNext (s.g.strand 0).pc 1)) { cause := 0x20, taddr := 0x30004, detail := 1 } :=
  ⟨.nop, rfl, rfl, by decide, by decide, by decide, by decide, .outside (by simp only [InImage]; decide)⟩

theorem test_departs_well_met : let s := roaming fun x => { x with pc := 0x1FFFC, live := 3 }
    let y := landed (s.g.strand 0) (seqNext (s.g.strand 0).pc 1)
    s.segmentOf s.g.core s.lau y.pc = some 1 ∧ s.segmentOf s.g.core s.lau y.pc ≠ some (ownSegment s) ∧
    holdersOf (s.segEntry s.g.core s.lau 1) ≠ [] ∧ y.amask = 0xF ∧ y.stack = [] ∧ s.departCheck s.g y y.pc = none ∧ s.g.bad = [] ∧
    CarriesBad { s.g with bad := [64 * 1 + 2] } y.live ∧ ¬ CarriesBad { s.g with bad := [64 * 2 + 2] } y.live := by
  refine ⟨by decide, by decide, by decide, by decide, by decide, by decide, by decide,
    ⟨_, List.mem_singleton.2 rfl, .inl ⟨by decide, by decide⟩⟩, fun ⟨e, he, h⟩ => ?_⟩
  obtain rfl := List.mem_singleton.1 he
  revert h
  decide

theorem test_departs_diverged_met : let s := roaming fun x => { x with pc := 0x1FFFC, amask := 3 }
    DepartBad s (landed (s.g.strand 0) (seqNext (s.g.strand 0).pc 1)) { cause := 0x22, taddr := 0x20004, detail := 1 } :=
  .diverged 1 (by decide) (by decide) (.inl (by decide))

theorem test_segment_none_met : (holder []).bus = [] ∧ ((holder []).core 3).holder.isSome = true ∧ ((holder []).core 4).holder = none := by decide

/-! ## Hypotheses met: steps and invariants -/

theorem test_inv_met : Inv base ∧ TablesSorted base ∧ (∃ t, Steps base t) := by
  refine ⟨⟨by decide, rfl⟩, ⟨by decide, by decide, by decide, by decide, by decide, by decide, by decide, by decide⟩, ?_⟩
  exact ⟨_, by unfold Steps; rfl⟩

theorem test_choice_met : (base.readySets 0 0).length = 1 ∧ base.agenda = [] ∧ Ready.choose (base.readySets 0 0) ≠ none ∧
    (base.core 0).throt ≤ 7 ∧ (base.core 0).cycle.toNat + base.stalls.headD 0 + 64 < 2 ^ 64 := by decide

theorem test_wait_ends_met : let s := onStrands fun x => { x with wait := some .glzCarry }
    Sorted s.groups ∧ s.g.part < 4 ∧ MayIssue s s.g (s.g.strand 0) ∧ ¬ MayIssue s { s.g with saving := true } (s.g.strand 0) ∧
    MayIssue s { s.g with saving := true } { s.g.strand 0 with begun := some {} } ∧ 7 < s.g.strands.length ∧ (s.g.strand 7).ended = false ∧ (s.g.strand ((s.g.members (s.g.strand 7).jset).headD 0)).wait = some .glzCarry ∧
    ¬ WaitEnded s 1 s.g 0 (s.g.strand 0) .glzCarry ∧
    WaitEnded s 1 { s.g with glz := { carry := some 3 } } 0 (s.g.strand 0) .glzCarry :=
  ⟨by decide, by decide, ⟨by decide, .inr ⟨by decide, by decide⟩⟩, fun h => by rcases h.2 with h | h <;> exact absurd h (by decide),
    ⟨by decide, .inl (by decide)⟩, by decide, by decide, by decide, fun h => h rfl, by simp [WaitEnded]⟩

/-- A pop of q2 by strands of which only the second, whose lanes are 4 to 7, finds its words. -/
def popping : State :=
  ((lone id).onLaunch 1 fun l => { l with lrec := { l.lrec with handler := 0x20004, flags := 4 } }).onG fun g => { g with
    strands := g.strands ++ g.strands, glz := { joined := true }
    fifo := (List.range 4).map fun l => (64 * 2 + 4 + l, [5]) }

/-- R118, R210: the strand that can never have its words takes 0x32, and the other completes the instruction in the same issue. -/
theorem test_rest_completes : let i : Instr := .vmov (.v 1) (.q 2)
    (∃ t, exec i popping = .next t ∧ LeftOver popping t) ∧ let u := match popping.runSet i 16 with | .next u => u | _ => popping
    (u.g.strand 0).handler = true ∧ (u.g.strand 0).tcause = 0x32 ∧ (u.g.strand 1).pc = 0x10008 ∧ u.g.vr 1 4 = 5 ∧ u.g.vr 1 0 = 0 := by
  refine ⟨⟨_, by rfl, ⟨by decide, by decide, by decide, 0, by decide, by decide, .inl ⟨by decide, by decide, .inr (by decide)⟩⟩⟩, by decide⟩

theorem test_held_back_met : let s : State := { base with loads := [{ group := 1, lane := scalarLane, pa := 0x10100, size := 8, fly := some { dst := .s 5 } }] }
    s.heldBack .fence = false ∧ s.heldBack (.cpy 0 0 (.s 1)) = true ∧ s.heldBack (.sadd (.s 5) (.s 0) (.s 1)) = true ∧
    s.heldBack (.sadd (.s 1) (.s 0) (.s 1)) = false ∧
    (onGroup fun g => { g with bad := [64 * 2 + 1] }).readsBad (.vadd (.v 1) (.v 2) (.v 3)) = true := by decide

theorem pins_none {s : State} {va : DWord} (h : s.g.trav = none) : ∀ p o, ¬ Pins s va p o := by
  intro p o hp
  cases hp with | held tr _ h1 => rw [h] at h1; cases h1

theorem test_fetched_met : Fetched base 0x10004 0 ∧ decode 0 0 = .ok .nop ∧ base.readsBad .nop = false :=
  ⟨⟨fun p o h => absurd h (pins_none rfl p o), fun _ => by decide⟩, by decide, by decide⟩

theorem test_fetch_fails_met : FetchFails base 0x20004 0x10 0 := .inr ⟨pins_none rfl, .inl (by decide)⟩

/-- A PC in the last two bits of a word, and one at a header; and a set that only waits for its queues. -/
theorem test_step_edges_met : (onStrands fun x => { x with pc := 0x10007 }).pc.toNat % 4 ≠ 0 ∧
    (onStrands fun x => { x with pc := 0x10080 }).pc.toNat % 128 = 0 ∧ QueuesOnly (onStrands fun x => { x with wait := some (.queue [(5, 1)]) }) ∧
    ¬ QueuesOnly base := by
  refine ⟨by decide, by decide, ⟨by decide, [(5, 1)], .inl (by decide)⟩, fun ⟨_, n, h⟩ => ?_⟩
  have hw : base.lead.wait = none := by decide
  rw [hw] at h
  rcases h with h | h <;> cases h

theorem test_event_met : let s : State := { booted with agenda := [.teamHandout] }
    encode .teamHandout = none ∧ WellFormed .teamHandout = true ∧ s.agenda = [.teamHandout] := ⟨rfl, by decide, rfl⟩

/-! ## Hypotheses met: numbers -/

theorem test_stands_met : Stands { neg := true, m := 3, e := 1 } (-6) ∧ Fine { neg := true, m := 3, e := 1 } := by
  refine ⟨⟨?_, ?_, ?_⟩, ?_⟩ <;> norm_num [Fine, abs_of_neg]

theorem test_formats_met : f32 ∈ formats ∧ f32.maxCode + 1 < 2 ^ 31 ∧ f32.hasInf = true := by decide

theorem test_functions_met : (0x800000 : Nat) < 2 ^ 24 ∧ (-149 : ℤ) ≤ -23 ∧ (-23 : ℤ) ≤ 104 ∧ (2 : ℝ) ^ (-28 : ℤ) ≤ |realOf (.num true 0x800000 (-23))| := by
  refine ⟨by decide, by decide, by decide, ?_⟩
  norm_num [realOf]

theorem test_sums_met : ¬ BlockNan [(.num false 1 0, .num true 1 0)] [.num true 1 0] ∧ BlockNan [(.inf false, .num false 0 0)] [] ∧
    (∀ v ∈ [FVal.num true 1 0], v.isInf = false) := by
  refine ⟨?_, .inr (.inr (.inl ⟨_, List.mem_singleton.2 rfl, .inl ⟨rfl, rfl⟩⟩)), by decide⟩
  simp [BlockNan, FVal.isNan, FVal.isInf, FVal.isZero]

theorem test_rows_met : storeKind 0x000 = true ∧ slotKind 0x000 ≤ 9 ∧ (List.replicate 16 (0 : Word)).length % 16 = 0 := by decide

/-! ## Hypotheses met: checks that fail, and the edges of ranges -/

/-- The engines' team with other bytes of its descriptor. -/
def described (mem : Table Byte) : State := engines.onCore 0 fun c => { c with mem }

theorem test_copy_traps_met :
    FirstFails (copyChecks engines false false false 1 0) { cause := 0x0A, taddr := 1 } ∧
    FirstFails (copyChecks engines false false false 64 0) { cause := 0x12, taddr := 64, detail := 1 } ∧
    FirstFails (copyChecks (described [(0x10, 4), (0x14, 2), (0x17, 0x10)]) false false false 0 0) { cause := 0x12, taddr := 0, detail := 2 } ∧
    FirstFails (copyChecks (described [(0x10, 2), (0x14, 2)]) false false false 0 0) { cause := 0x0A, taddr := 0 } ∧
    FirstFails (copyChecks (described [(0x02, 8), (0x10, 4), (0x14, 2)]) true false false 0 0) { cause := 0x12, taddr := 0x80000, detail := 1 } := by
  refine ⟨.here _ _ _ ⟨by decide, rfl⟩, .later _ _ _ (fun _ h => absurd h.1 (by decide)) (.here _ _ _ ⟨by decide, rfl⟩), ?_, ?_, ?_⟩
  · exact .later _ _ _ (fun _ h => absurd h.1 (by decide)) <| .later _ _ _ (fun _ h => absurd h.1 (by decide)) <|
      .later _ _ _ (fun _ h => absurd h.1 (by decide)) (.here _ _ _ ⟨by decide, rfl⟩)
  · exact .later _ _ _ (fun _ h => absurd h.1 (by decide)) <| .later _ _ _ (fun _ h => absurd h.1 (by decide)) <|
      .later _ _ _ (fun _ h => absurd h.1 (by decide)) <| .later _ _ _ (fun _ h => absurd h.1 (by decide)) (.here _ _ _ ⟨by decide, rfl⟩)
  · refine .later _ _ _ (fun _ h => absurd h.1 (by decide)) <| .later _ _ _ (fun _ h => absurd h.1 (by decide)) <|
      .later _ _ _ (fun _ h => absurd h.1 (by decide)) <| .later _ _ _ (fun _ h => absurd h.1 (by decide)) <|
      .later _ _ _ (fun _ h => absurd h.1 (by decide)) <| .here _ _ _ ⟨rfl, ?_, by decide⟩
    rintro ⟨t, h, _⟩
    exact absurd h (by decide)

theorem test_tile_traps_met :
    FirstFails (tileChecks tensor 0 4096) { cause := 0x11, taddr := 0, detail := 3 } ∧
    (let s := tensor.onCore 0 fun c => { c with mem := [(0x14, 2)] }
     FirstFails (tileChecks s 0 0) { cause := 0x11, taddr := 0, detail := 4 }) := by
  refine ⟨?_, ?_⟩
  · exact .later _ _ _ (fun _ h => absurd h.1 (by decide)) <| .later _ _ _ (fun _ h => absurd h.1 (by decide)) <|
      .later _ _ _ (fun _ h => absurd h.1 (by decide)) <| .later _ _ _ (fun _ h => absurd h.1 (by decide)) (.here _ _ _ ⟨by decide, rfl⟩)
  · exact .later _ _ _ (fun _ h => absurd h.1 (by decide)) <| .later _ _ _ (fun _ h => absurd h.1 (by decide)) <|
      .later _ _ _ (fun _ h => absurd h.1 (by decide)) <| .later _ _ _ (fun _ h => absurd h.1 (by decide)) <|
      .later _ _ _ (fun _ h => absurd h.1 (by decide)) (.here _ _ _ ⟨by decide, rfl⟩)

theorem test_copy_waits_met : let s := engines.onG fun g => g.setToken 7 { state := 1 }
    ¬ NotScalar s (.s 63) ∧ NotScalar s (.v 0) ∧ (s.g.token 7).state = 1 ∧ s.lead.wait = none :=
  ⟨fun h => absurd (h 63 rfl) (by decide), fun _ h => by (cases h), by decide, by decide⟩

/-- A core whose engine holds as many operations as it can. -/
def crammed : State := engines.onCore 0 fun c => { c with mats := List.replicate 64 { group := 1, strands := [0] } }

theorem test_matrix_room_met : MatChecks crammed (.accz (.s 0)) [.s 0] 1 [regionCheck crammed 0 false false] ∧ ¬ NotScalar crammed (.s 0) ∧
    64 < (crammed.core crammed.g.core).mats.length + 1 ∧ crammed.lead.wait = none ∧ crammed.ks ≠ [] :=
  ⟨.accz (.s 0) 0 (by decide), fun h => absurd (h 0 rfl) (by decide), by decide, by decide, by decide⟩

/-- Row 1 is no multiple of 16; and a record of a matrix whose stride is no multiple of 4. -/
theorem test_matrix_traps_met :
    (let s := engines.onG fun g => { g with s := [(0, 1)] }
     ∃ Ps, MatChecks s (.accz (.s 0)) [.s 0] 1 Ps ∧ FirstFails Ps { cause := 0x12, taddr := 1, detail := 4 }) ∧
    (let s := engines.onG fun g => { g with s := [(0, 1)] }
     ∃ Ps, MatChecks s (.mma 0 1 0 0 1) [.s 0, .s 1, .s 1] 1 Ps ∧ FirstFails Ps { cause := 0x0A, taddr := 1 }) ∧
    (∃ Ps, MatChecks engines (.accrd (.v 175) (.s 0)) [.s 0] 0 Ps ∧ FirstFails Ps { cause := 0x03 }) ∧
    ∃ Ps, MatChecks engines (.accdr (.s 0) (.s 0) (.s 0) 0) [.s 0, .s 0, .s 0] 1 Ps ∧ FirstFails Ps { cause := 0x12, taddr := 0, detail := 2 } := by
  refine ⟨⟨_, .accz (.s 0) 1 (by decide), .here _ _ _ ⟨fun h => absurd h.2.2.1 (by decide), rfl⟩⟩,
    ⟨_, .mma false 0 1 1 0 0 1 0 0 _ (by decide) (by decide) (by decide) rfl,
      .later _ _ _ (fun _ h => absurd h.1 (by decide)) (.here _ _ _ ⟨by simp only [recordAligned]; decide, rfl⟩)⟩,
    ⟨_, .accrd (.v 175) (.s 0) 0 (by decide), .here _ _ _ ⟨fun k h => by (cases h; decide), rfl⟩⟩,
    ⟨_, .accdr (.s 0) (.s 0) (.s 0) 0 0 0 0 (by decide) (by decide) (by decide), ?_⟩⟩
  exact .later _ _ _ (fun _ h => absurd h.1 (by decide)) <| .later _ _ _ (fun _ h => absurd h.1 (by decide)) <|
    .later _ _ _ (fun _ h => absurd h.1 (by decide)) <| .later _ _ _ (fun _ h => absurd h.1 (by decide)) (.here _ _ _ ⟨by decide, rfl⟩)

/-! Records: the first field that fails, at both ends and between; and fields at the ends of their ranges. -/

theorem test_record_asid_met : RecordFails booted { asid := 7 } 0x58 := .asid (by decide)

/-- A record that names the entry of the mapped image and nothing else that a launch needs. -/
theorem test_record_field_met : RecordFails mapped { asid := 1, entry := 0x10004 } 0x10 := by
  refine .field _ (by decide) (.teamsX (by decide)) fun p hp h => ?_
  have he : EntryLine mapped 1 0x10004 := ⟨by decide, by decide, by decide⟩
  cases h with
  | entry h => exact h he
  | reserved _ x h h1 =>
    simp only [List.mem_cons, Prod.mk.injEq, List.not_mem_nil, or_false] at h
    omega
  | _ => omega

theorem test_fields_met :
    FieldFails mapped { asid := 1, entry := 0x10000 } 0x00 ∧
    FieldFails mapped { teamsX := 2 ^ 24 + 1 } 0x10 ∧
    FieldFails mapped { teamsX := 2 ^ 16, teamsY := 2 ^ 16 } 0x14 ∧ FieldFails mapped { groups := 33 } 0x18 ∧
    FieldFails mapped { flags := 1, widthCode := 1 } 0x1A ∧ FieldFails mapped { flags := 16 } 0x1B ∧ FieldFails mapped { base := 8 } 0x1C ∧
    FieldFails mapped { base := 176, groups := 32, widthCode := 2 } 0x1C ∧ FieldFails mapped { slots := [0x5] } 0x30 ∧
    FieldFails mapped { waits := [(0, 0), (0, 0), (0, 0), (4, 0)] } 0x90 ∧ FieldFails mapped { flags := 4, chainLen := 129 } 0xCA ∧
    FieldFails mapped { resf0 := 1 } 0xF0 := by
  refine ⟨.entry fun h => absurd h.1 (by decide), .teamsX (by decide), .teamsY (by decide), .groups (by decide), .width (by decide),
    .flags (by decide), .base (by decide), .base (by decide), .slot 0 _ rfl (by simp only [SlotWordOk]; decide),
    .wait 3 _ rfl (.inl (by decide)), .chain (by decide) (by decide), .reserved 0xF0 1 (by simp) (by decide)⟩

/-! Writes at the ends of their ranges. -/

/-- A queue of sixteen records, enabled, of which one has been consumed. -/
def small : State := booted.setQueue 0 { enable := true, size := 4, kicked := 5, cons := 1 }

theorem test_kicks_met : (∃ t, DriverRule small (.qkick 0 17) t ∧ (t.queue 0).kicked = 17) ∧
    (∃ t, DriverRule small (.qkick 0 18) t ∧ (t.queue 0).stopped = some 4) ∧ DriverRule small (.qkick 0 5) small ∧
    DriverRule State.reset (.qkick 0 1) State.reset :=
  ⟨⟨_, .kick 0 17 (by decide) (by decide) (by decide) (by decide), by decide⟩, ⟨_, .kickFar 0 18 (by decide) (by decide) (by decide) (by decide), by decide⟩,
    .kickOld 0 5 (by decide) (by decide), .asleep _ 0 1 (by decide) (by simp)⟩

theorem test_configs_met :
    (∃ t, DriverRule booted (.qcfg 0 0x10010) t ∧ (t.queue 0).size = 16 ∧ (t.queue 0).enable = true) ∧ DriverRule booted (.qcfg 0 0x10003) booted ∧
    DriverRule booted (.qcfg 0 0x10011) booted ∧ (∃ t, DriverRule small (.qcfg 0 0x10011) t ∧ (t.queue 0).size = 4) ∧
    (∃ t, DriverRule booted (.controlRegisterWrite 0x10038 0x104) t ∧ (t.queue 0).csize = 4) ∧ DriverRule booted (.controlRegisterWrite 0x10038 3) booted ∧
    (∃ t, DriverRule small (.controlRegisterWrite 0x10038 0x104) t ∧ (t.queue 0).csize = 0) ∧
    (∃ t, DriverRule booted (.controlRegisterWrite 0x5008 0x210) t ∧ t.ctl.hevsize = 16 ∧ t.ctl.heven = true) ∧
    DriverRule booted (.controlRegisterWrite 0x5008 0x211) booted ∧
    (∃ t, DriverRule booted (.controlRegisterWrite (0x1008 + 32 * 31) (BitVec.allOnes 64)) t ∧ (t.window 31).cfg = 0x30FFF3F) := by
  refine ⟨⟨_, .config 0 _ (by decide) (.inr (by decide)), by decide, by decide⟩, .configVoid 0 _ (by decide) ?_, .configVoid 0 _ (by decide) ?_,
    ⟨_, .config 0 _ (by decide) (.inl (by decide)), by decide⟩, ⟨_, .ccfg 0 _ (by decide) (by decide) (by decide) (by decide), by decide⟩,
    .ccfgVoid 0 _ (by decide) (by decide) (by decide) (by decide), ⟨_, .ccfgKept 0 _ (by decide) (by decide) (by decide), by decide⟩,
    ⟨_, .hevcfg _ (by decide) (.inr (by decide)), by decide, by decide⟩, .hevcfgVoid _ (by decide) (.inr (by decide)),
    ⟨_, .outboundConfig 31 _ (by decide), by decide⟩⟩ <;>
  · rintro (h | h)
    · exact absurd h (by decide)
    · exact absurd h (by decide)

/-- A firmware image of a version, unsigned and empty. -/
def image (svn : BitVec 64) : FwImage := ⟨0, 0, svn, 0, 0, 0, 0, 0, 0, []⟩

/-- The mailbox with a key in slot 63 and a management image of version 2. -/
def mailed (n : Byte) : State :=
  { booted with ctl := { booted.ctl with keys := [(63, 7)], images := [image 2], mbdata := [(0, n)] } }

theorem test_mailbox_met : (∃ t, DriverRule (mailed 2) (.mbKeyLoad 63 false) t ∧ t.ctl.mbresult = 2) ∧
    (∃ t, DriverRule (mailed 2) (.mbKeyLoad 0 false) t ∧ t.ctl.mbresult = 0 ∧ tfind t.ctl.keys 0 = some 2) ∧
    (∃ t, DriverRule (mailed 2) (.mbKeyUnload 0) t ∧ t.ctl.mbresult = 3) ∧
    (∃ t, DriverRule (mailed 2) .mbRaiseSvn t ∧ t.ctl.mbresult = 0 ∧ t.ctl.fusedSvn = 3) ∧
    (∃ t, DriverRule (mailed 3) .mbRaiseSvn t ∧ t.ctl.mbresult = 5) ∧
    (let s : State := { mailed 2 with ctl := { (mailed 2).ctl with mbslot := some 5 } }
     DriverRule s .mbAttest s) := by
  refine ⟨⟨_, .keyTaken 63 false rfl (by decide), rfl⟩, ⟨_, .keyLoad 0 rfl (by decide), rfl, by decide⟩, ⟨_, .unloadEmpty 0 rfl (by decide), rfl⟩,
    ⟨_, .raise 2 3 _ [] rfl rfl (by decide) (by decide) (by decide) (by decide), rfl, rfl⟩,
    ⟨_, .raiseFar 3 _ [] rfl rfl (by decide) (.inl (by decide)), rfl⟩, .mailBusy _ (by decide) (.inl rfl)⟩

theorem test_aborts_met : (∃ t, DriverRule base (.lcmdAbort 1) t ∧ t.ctl.lstate = 4) ∧
    (∃ t, DriverRule base (.lcmdAbort (2 ^ 32 - 1)) t ∧ t.ctl.lstate = 5 ∧ t.ctl.lstateId = 0xFFFFFFFF) :=
  ⟨⟨_, .abort 1 (base.launch 1) (by decide) (by decide) (by decide) (by decide), rfl⟩,
    ⟨_, .abortEnded _ (fun l h => by
      have hn : tfind base.launches (2 ^ 32 - 1) = none := by decide
      rw [hn] at h; cases h), rfl, by decide⟩⟩

/-- Bring-up without an image, and with a first one of another magic. -/
theorem test_bring_up_met : (∃ t, UnitRule State.reset (.bringUp [] ⟨false, false, false⟩) t ∧ t.ctl.bootImage = 1 ∧ t.ctl.bootWhy = 1) ∧
    (∃ t, UnitRule State.reset (.bringUp [image 0, image 0] ⟨true, true, true⟩) t ∧ t.ctl.images = []) ∧
    UnitRule booted (.bringUp [] ⟨true, true, true⟩) booted :=
  ⟨⟨_, .bootFails _ _ 0 1 1 rfl (.management 1 rfl), rfl, rfl⟩, ⟨_, .bootFails _ _ 0 1 1 rfl (.management 1 (by decide)), rfl⟩, .bootTwice _ _ (by decide)⟩

/-! System registers with their fields at the ends. -/

theorem test_system_fields_met :
    SysValue (onGroup fun g => { g with glz := { joined := true, rank := 127, left := true, sent := true, cin := some 0, round := 2 ^ 32 - 1 } })
      0x100 0xFFFFFFFF000031FF ∧
    SysValue base 0x110 0 ∧
    (let s := roaming fun x => x
     let s := s.setGrp 1 { s.g with trav := some { id := 2 ^ 32 - 1, hop := 2 ^ 16 - 1, slot := 31 } }
     SysValue s 0x300 0xFFFF0000FFFFFFFF ∧ SysValue s 0x303 0x100 ∧ SysValue s 0x305 100) ∧
    SysValue base 0x304 0 :=
  ⟨.glzstat _ rfl, .aloneStat (.inl rfl), ⟨.trvstat { id := 2 ^ 32 - 1, hop := 2 ^ 16 - 1, slot := 31 } { launch := 1, loaded := true } rfl rfl,
    .trvq { launch := 1, loaded := true } rfl rfl, .trvbudg⟩, .noHolder _ (.inr rfl) (.inl rfl)⟩

/-! The end of a traveller, of a travel launch, and its resume. -/

theorem test_exit_traveller_met : let s := roaming fun x => x
    s.bus = [] ∧ (∀ k ∈ s.ks, (s.g.strand k).arrived = false) ∧ s.ks = [0] ∧ s.g.strands.length = 1 ∧
    (∀ y, Exits (s.g.strand 0) y → StaysAt s y) ∧ ∀ k, k < s.g.strands.length → k ∈ s.ks ∧ (s.g.strand k).stack = [] ∧ (s.g.strand k).parked = 0 := by
  refine ⟨rfl, by decide, by decide, by decide, fun y hy tr _ => ?_, by decide⟩
  cases hy with
  | path e st h => cases h
  | parked h h2 => exact absurd h2 (by decide)
  | ends h h2 => exact .inr (.inl rfl)

theorem test_travel_complete_met : let s := { holder [] with groups := [] }
    (s.launch 1).stop = none ∧ (s.launch 1).finished = false ∧ (s.launch 1).travel = true ∧ (s.launch 1).alive = [] ∧ (s.launch 1).spawns = [] ∧
    s.packets = [] ∧ s.remotes = [] ∧ NoKeys s ∧ (s.core 3).holder.map (·.launch) = some 1 :=
  ⟨by decide, by decide, by decide, by decide, by decide, by decide, by decide, ⟨by decide, by decide, by decide, by decide⟩, by decide⟩

theorem test_travel_resume_met :
    let s := ({ mapped with mem := applyBus mapped.mem [(0x13000, 2), (0x14000, 3)] } : State).onLaunch 1 fun l => { l with
      lst := 2, draining := true, lrec := { l.lrec with pool := 0x11000 }, spilled := [{ launch := 1, id := 3 }, { launch := 1, id := 2, segment := 1 }] }
    let l := s.launch 1
    Commanded s 1 l ∧ l.lst = 2 ∧ l.travel = true ∧ s.saved = [] ∧ (l.spilled.map (·.id)).Nodup ∧ (∀ p ∈ l.spilled, p.launch = 1) ∧
    (∀ p ∈ l.spilled, ∀ a ∈ pageStarts (l.lrec.pool + 4096 * p.id) (if p.whole = none then 1184 else 4096), s.devFail l.lrec.asid a .read = none) ∧
    (∀ p ∈ l.spilled, p.whole = none → s.devN l.lrec.asid (l.lrec.pool + 4096 * p.id) 4 = p.id) ∧
    HolderChosen (s.devN l.lrec.asid (l.lrec.segmap + 0x40 + 8 * 1) 8) (fun _ => 0) 2 4 :=
  ⟨⟨by decide, by decide⟩, by decide, by decide, by decide, by decide, by decide, by decide, by decide, [4, 5], by decide, by decide, by decide, by decide⟩

/-- The word that a traveller outside handler mode fetches is its holder's pinned one. -/
theorem test_pinned_met : let p : Pinned := { lines := [(0, BitVec.ofNat 1024 (0x20C1C2C3 * 2 ^ 32))] }
    let s := (roaming fun x => x).onCore 3 fun c => { c with holder := some { launch := 1, loaded := true, code := p } }
    Pins s 0x10004 p 4 ∧ Fetched s 0x10004 0x20C1C2C3 := by
  have hp : let p : Pinned := { lines := [(0, BitVec.ofNat 1024 (0x20C1C2C3 * 2 ^ 32))] }
      let s := (roaming fun x => x).onCore 3 fun c => { c with holder := some { launch := 1, loaded := true, code := p } }
      Pins s 0x10004 p 4 := .held {} { launch := 1, loaded := true, code := { lines := [(0, BitVec.ofNat 1024 (0x20C1C2C3 * 2 ^ 32))] } } rfl rfl rfl (by decide)
  refine ⟨hp, fun p o h => ?_, fun h => absurd hp (h _ _)⟩
  cases h with
  | held tr h h1 h2 h3 h4 =>
    obtain rfl := Option.some.inj h2
    decide

/-! Atomics from outside, and errors of storage. -/

theorem test_inbound_atomic_met : let r : Inbound := { request with op := .cas, addr := 0xFFF8, data := 2 ^ 64 + 0, mode := 6 }
    let s : State := { booted with ctl := { booted.ctl with inw := [(0, { base := 0, cfg := 0x3000010 })] } }
    s.accepts r = true ∧ opened.accepts r = false ∧ r.addr % r.size = 0 ∧ KeyAgrees s (r.addr / 128) (tfind s.sealed (r.addr / 128)) ∧
    s.tagOf (r.addr / 128) = tfind s.sealed (r.addr / 128) ∧ s.poisoned (r.addr / 128) = false :=
  ⟨by decide, by decide, by decide, by simp only [KeyAgrees]; decide, by decide, by decide⟩

theorem test_errors_met :
    (∃ u, HealthRule booted (.eccError (.sram 7 15 0 0x80) false) u 2 2 0 0x70F00 []) ∧
    (let s := booted.onCore 127 fun c => { c with l1 := [(5, 0)] }
     ∃ u, HealthRule s (.eccError (.l1Data 127 6 5) false) u 2 3 0 0x7F06 []) ∧
    (let s := booted.onCore 127 fun c => { c with wcb := [{ pa := 5 * 128 + 127, byte := 1 }] }
     ∃ u, HealthRule s (.eccError (.buffer 127 5) false) u 2 0 0 0x7F00 []) ∧
    (∃ u, HealthRule booted (.eccError (.buffer 0 5) false) u 2 0 0 0 []) ∧
    (∃ u, HealthRule booted (.eccError (.buffer 0 (2 ^ 39 / 128)) false) u 2 0 0 0 []) ∧
    (∃ u, HealthRule booted (.eccError (.accStore 127 255) false) u 2 5 0 0x7FFF []) := by
  refine ⟨⟨_, .sram 7 15 0 0x80⟩, ⟨_, .l1Held 127 6 5 (by decide)⟩, ⟨_, .buffered 127 5 (by decide)⟩, ⟨_, .queued 0 5 0 (by decide) (by decide)⟩,
    ⟨_, .queuedEdge 0 (2 ^ 39 / 128) 0 (by decide) (by decide)⟩, ⟨_, .accUnowned 127 255 (by decide)⟩⟩

theorem test_retirements_met :
    (∃ u, HealthRule (doubted (.regFile 127 3 0 0)) (.selfTest (.regFile 127 3 0 0) false) u 4 4 0 0x7F03 []) ∧
    (let s : State := { base with ctl := (doubted (.regFile 0 0 1 0)).ctl }
     ∃ u, HealthRule s (.selfTest (.regFile 0 0 1 0) false) u 4 4 0 0 []) ∧
    (let s : State := { base with
      ctl := (doubted (.l1Data 0 6 5)).ctl, teams := base.teams.map fun e => (e.1, { e.2 with base := 458751, size := 1 }) }
     ∃ u, HealthRule s (.selfTest (.l1Data 0 6 5) false) u 4 3 0 6 []) := by
  refine ⟨⟨_, .partGone 127 3 0 0 false ⟨by decide, .inl rfl⟩ (by decide) (by decide) ⟨by decide, by decide⟩ (by decide)⟩,
    ⟨_, .lastingPart 0 0 1 0 false ⟨by decide, .inl rfl⟩ (by decide) (by decide) (fun h => absurd h.2 (by decide)) (by decide)⟩,
    ⟨_, .lastingBank 0 6 _ false (.l1 6 5) ⟨by decide, .inl rfl⟩ (by decide) (by decide) (fun h => absurd h.1 (by decide)) (by decide)⟩⟩

/-- Two lanes of one atomic outstanding: the first may be performed, and registers wait for the second. -/
theorem test_lanes_fly_met : let f : Flight := { op := .add, dst := .v 4 1 16, y := 1, unit := 7 }
    let r : Load := { (default : Load) with group := 1, pa := 0x10178, size := 4, fly := some f }
    let r' : Load := { r with lane := 1, pa := 0x1017C }
    let s : State := { base with loads := [r, r'] }
    NextLoad s 1 0 r ∧ r.lane < 64 ∧ r.size ∈ [1, 2, 4, 8, 16] ∧ (∃ x ∈ s.loads.erase r, x.group = 1 ∧ ∃ g, x.fly = some g ∧ g.unit = f.unit) ∧
    CleanFor s (s.grp 1).core (r.pa / 128) ∧ QueuesHaveRoom s ∧
    ({ s with poison := [r.pa / 128] } : State).poisoned (r.pa / 128) = true ∧ (s.core (s.grp 1).core).wcb = [] := by
  refine ⟨⟨by decide, by decide, by decide, by decide, by decide, by simp only [KeyAgrees]; decide, fun x hx => ?_⟩, by decide, by decide,
    ⟨{ (default : Load) with group := 1, lane := 1, pa := 0x1017C, size := 4, fly := some { op := .add, dst := .v 4 1 16, y := 1, unit := 7 } },
      by decide, rfl, _, rfl, rfl⟩, ⟨by decide, by decide, by decide⟩, roomy (by decide), by decide, by decide⟩
  simp at hx

/-! ## Single instructions, against values worked by hand from their rules -/

/-- The state an instruction leaves. -/
def after (i : Instr) (s : State) : State := match exec i s with | .next t => t | _ => s

/-- R344's example: at T2 the cycles with residue 0, 6 and 13 are no issue cycles. -/
theorem test_throttle_example : (List.range 20).filter (fun c => !issueCycle 2 c) = [0, 6, 13] := by decide

/-- R132: an immediate of -1 is sign-extended and the sum wraps. -/
theorem test_saddi_wraps : ((after (.saddi (.s 1) (.s 0) 0xFF) base).g.sr 1) = 0xFFFFFFFFFFFFFFFF := by decide

/-- R130: a signed division by zero gives -1. -/
theorem test_sdiv_zero : ((after (.sdiv (.s 1) (.s 2) (.s 3)) base).g.sr 1) = 0xFFFFFFFFFFFFFFFF := by decide

/-- R141: a 16-bit immediate is sign-extended into every active lane, and into no other register. -/
theorem test_vmovi : let t := after (.vmovi (.v 3) 0x8000) base
    t.g.vr 3 31 = 0xFFFF8000 ∧ t.g.vr 3 32 = 0 ∧ t.g.vr 4 0 = 0 := by decide

/-- R131: SCMP writes its predicate in every lane of the set; a predicate it does not name keeps its bits. -/
theorem test_scmp_all : let t := after (.scmp 2 .le (.s 0) (.s 1)) base
    t.g.pr 2 0 = true ∧ t.g.pr 2 31 = true ∧ t.g.pr 3 0 = false ∧ t.g.pr 0 5 = true := by decide

/-- R127, R210: a software trap without a handler stops the launch with its cause. -/
theorem test_trap_stops : ((after (.trap 5) base).launch 1).stop.map (·.cause) = some 0x38 := by decide

/-- R210, R211: with a handler the set enters it, the address of the trap in TPC. -/
theorem test_trap_enters : let t := after (.trap 5) (onLaunch fun l => { l with lrec := { l.lrec with handler := 0x20004 } })
    (t.g.strand 0).pc = 0x20004 ∧ (t.g.strand 0).tpc = 0x10004 ∧ (t.g.strand 0).handler = true ∧ (t.g.strand 0).tcause = 0x38 := by decide

/-- R114: after the last slot of a bundle the PC skips the next header. -/
theorem test_pc_skips_header : seqNext 0x1007C 1 = 0x10084 ∧ seqNext 0x10078 1 = 0x1007C := by decide

end Sys2Proof.Tests
end

section
/-!
PROOFS. The decoder on words written out from the encoding tables (00_scope.md). A word decodes when its fields read as an
instruction within the limits of R91; every other word takes the reserved-field trap (R92).
-/
namespace Sys2Proof.Proofs.Decoder
open Sys2Proof

theorem decode_eq_ok_iff {w x : Word} {i : Instr} :
    decode w x = .ok i ↔ parse w x = some i ∧ WellFormed i = true := by
  unfold decode
  cases parse w x with
  | none => simp
  | some j =>
    cases hj : WellFormed j with
    | true => simpa [hj] using fun h : j = i => h ▸ hj
    | false => simpa [hj] using fun h : j = i => h ▸ hj

theorem decode_eq_reserved_iff {w x : Word} :
    decode w x = .reserved ↔ ∀ i, parse w x = some i → WellFormed i = false := by
  unfold decode
  cases parse w x with
  | none => simp
  | some j => simp

/-- For a word of a format without an extension word: its fields give i whatever word follows (R83). -/
theorem decode_ok_of_parse {w : Word} {i : Instr} (hparse : ∀ x, parse w x = some i) (hwf : WellFormed i = true) (x : Word) :
    decode w x = .ok i :=
  decode_eq_ok_iff.mpr ⟨hparse x, hwf⟩

/-- The fate of a zero field that is not zero, and of a reserved code (R92). -/
theorem decode_reserved_of_parse_eq_none {w x : Word} (hparse : parse w x = none) : decode w x = .reserved :=
  decode_eq_reserved_iff.mpr fun i hi => by simp [hparse] at hi

/-- The fate of an immediate beyond its limit (R91, R92). -/
theorem decode_reserved_of_not_wellFormed {w x : Word} {i : Instr} (hparse : parse w x = some i)
    (hwf : WellFormed i = false) : decode w x = .reserved :=
  decode_eq_reserved_iff.mpr fun j hj => by
    obtain rfl : i = j := Option.some.inj (hparse.symm.trans hj)
    exact hwf

/-- Settles O1. Each word is closed, so `parse` reads its fields by evaluation; where the pattern of R91 takes no extension
word, the word after it stays a variable and the reading does not meet it. The last four words name why each is refused. -/
theorem decodeKnownWords : Obligations.DecodeKnownWords := by
  unfold Obligations.DecodeKnownWords
  exact ⟨
    decode_ok_of_parse (fun _ => rfl) rfl,   -- NOP: N
    decode_ok_of_parse (fun _ => rfl) rfl,   -- BRA: JL
    decode_ok_of_parse (fun _ => rfl) rfl,   -- BRC: BC
    decode_ok_of_parse (fun _ => rfl) rfl,   -- LOOP: LP
    decode_ok_of_parse (fun _ => rfl) rfl,   -- SETM: M24
    decode_ok_of_parse (fun _ => rfl) rfl,   -- SYSR: SR
    decode_ok_of_parse (fun _ => rfl) rfl,   -- SADD: S3
    decode_ok_of_parse (fun _ => rfl) rfl,   -- SCMP: SC
    decode_eq_ok_iff.mpr ⟨rfl, rfl⟩,         -- SMOVX: SX
    decode_eq_ok_iff.mpr ⟨rfl, rfl⟩,         -- VSEL: VX
    decode_ok_of_parse (fun _ => rfl) rfl,   -- VADD: V3, with a queue register and a scalar one as operands
    decode_ok_of_parse (fun _ => rfl) rfl,   -- VCVT: VT
    decode_ok_of_parse (fun _ => rfl) rfl,   -- VSHFL: V3
    decode_ok_of_parse (fun _ => rfl) rfl,   -- EFADD: V3
    decode_ok_of_parse (fun _ => rfl) rfl,   -- LDG32: GL
    decode_ok_of_parse (fun _ => rfl) rfl,   -- AADD: GL
    decode_ok_of_parse (fun _ => rfl) rfl,   -- CPY: CP
    decode_ok_of_parse (fun _ => rfl) rfl,   -- MMA: MM
    decode_ok_of_parse (fun _ => rfl) rfl,   -- GLZCFG: SS
    decode_ok_of_parse (fun _ => rfl) rfl,   -- SPAWN: SPW
    decode_ok_of_parse (fun _ => rfl) rfl,   -- PIN: SS
    decode_ok_of_parse (fun _ => rfl) rfl,   -- opcode 0xFF, which R89 leaves undefined
    fun _ => decode_reserved_of_parse_eq_none rfl,          -- NOP's zero fields hold a 1
    fun _ => decode_reserved_of_not_wellFormed rfl rfl,     -- LOOP at level 3
    fun _ => decode_reserved_of_parse_eq_none rfl,          -- SCMP with condition code 6
    decode_reserved_of_parse_eq_none rfl⟩                   -- VSEL with extension bit 3 set

end Sys2Proof.Proofs.Decoder
end

section
/-!
PROOFS. Reductions of floats (R147, R165-R167). Where a single lane is active there is nothing to combine, and the model's
VRED still puts the lane's code through the selection of R147, which quiets a NaN (log 16).
-/
namespace Sys2Proof.Proofs.Reductions
open Sys2Proof Sys2Proof.Machine Sys2Proof.Safety

/-- One strand of type f32 with lane 0 alone active, whose v1 holds a signalling NaN. -/
def signallingLane : State :=
  Tests.base.onG fun g => { g.putV 1 0 0x7F800001 with strands := [{ mode := 0x100, amask := 1 }] }

/-- The state that VRED v2, v1, 7 leaves there. -/
def afterMin : State := match exec (.vred (.v 2) (.v 1) 7) signallingLane with | .next t => t | _ => signallingLane

theorem runs_min : Runs (.vred (.v 2) (.v 1) 7) signallingLane afterMin := rfl

theorem lanes_signallingLane : signallingLane.lanes = [0] := by decide

/-- The model writes the NaN with its quiet bit set. -/
theorem afterMin_quiets : afterMin.g.vr 2 0 = 0x7FC00001 := by decide

/-- A value of one word is its own element of 32 bits. -/
theorem elemNat_single (w : Word) : elemNat 32 [w] 0 = w.toNat := by
  simp [elemNat, joinWords, Nat.mod_eq_of_lt w.isLt]

/-- What the rule of VRED has the one active lane receive: its own code, to which nothing is added. -/
theorem combines_alone {y : Nat} (h : Combines signallingLane 7 0 0 [0x7F800001] y) : y = 0x7F800001 := by
  have hy : y = 0x7F800001 % 2 ^ 32 := h.2
  simpa using hy

/-- Refutes O10: VRED with code 7 over one active lane that holds the signalling NaN 0x7F800001 writes 0x7FC00001, where its rule
combines the list of that lane's code alone, which is the code itself. -/
theorem not_crossLaneResults : ¬ Obligations.CrossLaneResults := by
  unfold Obligations.CrossLaneResults
  rintro ⟨h, -⟩
  obtain ⟨t, out, k, hk, hrun, hrule, -, hv, -, -⟩ := h signallingLane _ _ _ _ _ _ (.vred (.v 2) (.v 1) 7)
    ⟨rfl, rfl, rfl⟩ rfl (Tests.stays_of rfl)
  obtain rfl : afterMin = t := Host.Outcome.next.inj (runs_min.symm.trans hrun)
  obtain rfl : (2 : Fin 176) = k := Reg.v.inj hk
  obtain ⟨ws, hws, hlen, hcomb⟩ := hrule 0 (by rw [lanes_signallingLane]; exact List.mem_singleton.mpr rfl)
  obtain ⟨w, rfl⟩ : ∃ w, ws = [w] := List.length_eq_one_iff.mp hlen
  have hw : w.toNat = 0x7F800001 := (elemNat_single w).symm.trans (combines_alone (hcomb 0 (by decide)))
  have hlane : afterMin.g.vr 2 0 = w := by simpa [lanes_signallingLane, hws] using hv 2 0 (by decide)
  rw [← hlane, afterMin_quiets] at hw
  exact absurd hw (by decide)

end Sys2Proof.Proofs.Reductions
end

section
/-!
PROOFS. EFST through a translation that does not keep alignment. The claim of EFST is made of every state whose addresses are
aligned and allowed, and speaks of the line of each word; a TLB may hold a page whose base is no multiple of 4, and a word stored
through it lies in two lines. The walk of R375 fills no such entry: the states it refutes are those that no boot reaches.
-/
namespace Sys2Proof.Proofs.WindowStores
open Sys2Proof Sys2Proof.Machine Sys2Proof.Safety

/-- One strand of the elastic type with lane 0 alone active, on a core whose TLB maps address 0 to 126. -/
def straddlingPage : State :=
  (Tests.base.onG fun g => { g with strands := [{ mode := 0x160, amask := 1 }] }).onCore 0 fun c =>
    { c with tlb := [{ asid := 1, leaf := { wr := true, base := 126 } }] }

/-- The state that EFST v0, [s0 + v2] leaves there. -/
def afterStore : State := match exec (.efst (.v 0) (.v 2) (.s 0)) straddlingPage with | .next t => t | _ => straddlingPage

theorem runs_store : Runs (.efst (.v 0) (.v 2) (.s 0)) straddlingPage afterStore := rfl

theorem lanes_straddlingPage : straddlingPage.lanes = [0] := by decide

/-- The window is one word, and its store is allowed, to bytes 126 to 129 of stack 0. -/
theorem store_allowed : Allowed straddlingPage 0 4 .write ∧ cacheable (straddlingPage.pa 0) = true ∧ straddlingPage.pa 0 = 126 :=
  ⟨⟨rfl, rfl⟩, rfl, rfl⟩

/-- The signature that the store leaves: two of its bytes lie in line 0, two in line 1. -/
theorem afterStore_signature : afterStore.g.wsig1 = (((({} : Group).sign 0).sign 0).sign 1 |>.sign 1).wsig1 := rfl

/-- Line 0 sets no bit 1, and line 1 does. -/
theorem sign_zero_bit_one {g : Group} (h : g.wsig1 = 0) : (g.sign 0).wsig1.getLsbD 1 = false := by
  simp [Group.sign, sigBit, sigH1, sigH2, h]

theorem sign_one_bit_one (g : Group) : (g.sign 1).wsig1.getLsbD 1 = true := by
  simp [Group.sign, sigBit, sigH1, sigH2]

theorem groupIs_wsig1 {s t : State} {act : Group → Group} (h : GroupIs s t act) : t.g.wsig1 = (act s.g).wsig1 := by
  unfold GroupIs at h
  have hfield := congrArg Group.wsig1 h
  exact hfield

/-- Refutes O29: EFST of a one-word window at an address that a TLB entry maps to byte 126 is aligned and allowed, and signs the lines
of all four bytes, where the claim has it sign the line of the first alone. -/
theorem not_elasticMemory : ¬ Obligations.ElasticMemory := by
  unfold Obligations.ElasticMemory
  intro h
  obtain ⟨-, -, hstore⟩ := h straddlingPage (.v 0) (.v 2) (.s 0) rfl (Tests.resident_of rfl) (.inl rfl)
  obtain ⟨hok, hcache, -⟩ := store_allowed
  obtain ⟨t, hrun, hstored⟩ := hstore ⟨rfl, rfl, rfl, rfl⟩ ⟨rfl, fun r hr => absurd hr List.not_mem_nil⟩ (by
    intro l hl i hi
    rw [lanes_straddlingPage, List.mem_singleton] at hl
    subst hl
    obtain rfl : i = 0 := Nat.lt_one_iff.mp hi
    exact ⟨hok, hcache⟩)
  obtain rfl : afterStore = t := Host.Outcome.next.inj (runs_store.symm.trans hrun)
  obtain ⟨-, ⟨hgroup, -⟩, -⟩ : Stored straddlingPage afterStore [(126, 0)] 4 id := hstored
  have hsig := groupIs_wsig1 hgroup
  simp only [List.foldl_cons, List.foldl_nil, id, Nat.reduceDiv, afterStore_signature] at hsig
  exact absurd ((sign_one_bit_one _).symm.trans ((congrArg (·.getLsbD 1) hsig).trans (sign_zero_bit_one rfl))) (by decide)

end Sys2Proof.Proofs.WindowStores
end
section
/-!
PROOFS. Exact numbers: the size of a natural number in bits, what a quotient to 400 bits stands for, and the rounding to the
nearest integer (R41-R51).
-/
namespace Sys2Proof.Proofs.ExactNumbers
open Sys2Proof.Machine Sys2Proof.Safety

/-! ## Sizes in bits -/

theorem bits_le_iff {n k : Nat} : bits n ≤ k ↔ n < 2 ^ k := by
  by_cases h : n = 0
  · simp [bits, h]
  · rw [bits, if_neg h, Nat.succ_le_iff, Nat.log2_lt h]

theorem lt_bits_iff {n k : Nat} : k < bits n ↔ 2 ^ k ≤ n := by
  simpa using (not_congr (bits_le_iff (n := n) (k := k)))

theorem lt_two_pow_bits (n : Nat) : n < 2 ^ bits n := bits_le_iff.1 le_rfl

theorem two_pow_bits_pred_le {n : Nat} (h : n ≠ 0) : 2 ^ (bits n - 1) ≤ n :=
  lt_bits_iff.1 (by have : 0 < bits n := lt_bits_iff.2 (by simpa using Nat.one_le_iff_ne_zero.2 h); omega)

/-! ## What magnitudes stand for -/

/-- A sign applied to a real. -/
theorem realOf_num (s : Bool) (m : Nat) (e : ℤ) : realOf (.num s m e) = (if s then -1 else 1) * (m * 2 ^ e) := by
  simp only [realOf]; ring

theorem abs_signed (s : Bool) {a : ℝ} (h : 0 ≤ a) : |(if s then (-1 : ℝ) else 1) * a| = a := by
  cases s <;> simp [abs_of_nonneg h]

theorem signed_neg_iff (s : Bool) {a : ℝ} (h : 0 < a) : (if s then (-1 : ℝ) else 1) * a < 0 ↔ s = true := by
  cases s <;> simp [h, h.le]

theorem stands_signed {x : Mag} {a : ℝ} (ha : 0 ≤ a) (he : x.sticky = false → a = x.m * 2 ^ x.e)
    (hs : x.sticky = true → x.m * 2 ^ x.e < a ∧ a < (x.m + 1) * (2 : ℝ) ^ x.e) :
    Stands x ((if x.neg then -1 else 1) * a) := by
  refine ⟨fun h => signed_neg_iff _ (lt_of_le_of_ne ha ?_), ?_, ?_⟩
  · rintro rfl; simp at h
  · rw [abs_signed _ ha]; exact he
  · rw [abs_signed _ ha]; exact hs

theorem magnitude_nonneg (m : Nat) (e : ℤ) : (0 : ℝ) ≤ m * 2 ^ e := by positivity

theorem stands_exact {x : Mag} (h : x.sticky = false) : Stands x (realOf (.num x.neg x.m x.e)) := by
  rw [realOf_num]
  exact stands_signed (magnitude_nonneg _ _) (fun _ => rfl) (by simp [h])

theorem fine_exact {x : Mag} (h : x.sticky = false) : Fine x := by simp [Fine, h]

theorem realOf_num_eq_zero {s : Bool} {m : Nat} {e : ℤ} : realOf (.num s m e) = 0 ↔ m = 0 := by
  have h2 : (2 : ℝ) ^ e ≠ 0 := by positivity
  cases s <;> simp [realOf, h2]

/-- An exact magnitude is the finite result it stands for; the sign is told only where it is zero. -/
theorem finiteIs_exact {x : Mag} {P : Prop} (h : x.sticky = false) (hz : x.m = 0 → (x.neg = true ↔ P)) :
    FiniteIs (.fin x) (realOf (.num x.neg x.m x.e)) P :=
  ⟨x, rfl, stands_exact h, fine_exact h, fun h0 => have hm := realOf_num_eq_zero.1 h0; ⟨hm, h, hz hm⟩⟩

/-- A signed integer in units of 2^q as a result. -/
theorem finiteIs_int (v q : ℤ) {s : Bool} {P : Prop} (hs : v ≠ 0 → (s = true ↔ v < 0)) (hz : v = 0 → (s = true ↔ P)) :
    FiniteIs (.fin { neg := s, m := v.natAbs, e := q }) (v * 2 ^ q) P := by
  have hv : realOf (.num s v.natAbs q) = (v : ℝ) * 2 ^ q := by
    by_cases h0 : v = 0
    · simp [h0, realOf]
    · have hsv := hs h0
      rw [realOf, Nat.cast_natAbs]
      rcases lt_or_ge v 0 with h | h
      · simp [hsv.2 h, abs_of_neg h]
      · have : s = false := by simpa [not_lt.2 h] using hsv
        simp [this, abs_of_nonneg h]
  rw [← hv]
  exact finiteIs_exact (x := { neg := s, m := v.natAbs, e := q }) rfl (fun h => hz (by simpa using h))

/-! ## Quotients to 400 bits -/

/-- The places by which a numerator is moved so that its quotient has 400 bits. -/
def ratioShift (num den : Nat) : Nat := 400 + bits den - min (bits num) (400 + bits den)

theorem ratio_eq (neg : Bool) (num den : Nat) (e : ℤ) : Mag.ratio neg num den e =
    { neg, m := num * 2 ^ ratioShift num den / den, e := e - (ratioShift num den : ℤ),
      sticky := decide (num * 2 ^ ratioShift num den % den ≠ 0) } := by
  simp only [Mag.ratio, ratioShift, Nat.shiftLeft_eq]; rfl

theorem lt_bits_ratio_quotient {num den : Nat} (hn : 0 < num) (hd : 0 < den) :
    399 < bits (num * 2 ^ ratioShift num den / den) := by
  rw [lt_bits_iff, Nat.le_div_iff_mul_le hd]
  have hb : 0 < bits num := lt_bits_iff.2 (by simpa using Nat.succ_le_of_lt hn)
  calc 2 ^ 399 * den ≤ 2 ^ 399 * 2 ^ bits den := Nat.mul_le_mul_left _ (lt_two_pow_bits den).le
    _ = 2 ^ (399 + bits den) := (pow_add ..).symm
    _ ≤ 2 ^ (bits num - 1 + ratioShift num den) := Nat.pow_le_pow_right (by norm_num) (by unfold ratioShift; omega)
    _ = 2 ^ (bits num - 1) * 2 ^ ratioShift num den := pow_add ..
    _ ≤ num * 2 ^ ratioShift num den := Nat.mul_le_mul_right _ (two_pow_bits_pred_le hn.ne')

theorem div_nat_bounds (n : Nat) {den : Nat} (hd : 0 < den) :
    (n % den = 0 → ((n / den : Nat) : ℝ) = n / den) ∧
    (n % den ≠ 0 → ((n / den : Nat) : ℝ) < n / den ∧ (n : ℝ) / den < (n / den : Nat) + 1) := by
  have hd' : (0 : ℝ) < den := by exact_mod_cast hd
  have hsplit : (n : ℝ) = den * (n / den : Nat) + (n % den : Nat) := by exact_mod_cast (Nat.div_add_mod n den).symm
  have hlt : ((n % den : Nat) : ℝ) < den := by exact_mod_cast Nat.mod_lt n hd
  refine ⟨fun h => ?_, fun h => ?_⟩
  · rw [h] at hsplit
    rw [eq_div_iff hd'.ne']
    simpa [mul_comm] using hsplit.symm
  · have hpos : (0 : ℝ) < (n % den : Nat) := by exact_mod_cast Nat.pos_of_ne_zero h
    rw [lt_div_iff₀ hd', div_lt_iff₀ hd']
    constructor <;> nlinarith

theorem stands_ratio (neg : Bool) (num : Nat) {den : Nat} (hd : 0 < den) (e : ℤ) :
    Stands (Mag.ratio neg num den e) ((if neg then -1 else 1) * (num / den * 2 ^ e)) := by
  rw [ratio_eq]
  obtain ⟨hexact, hsticky⟩ := div_nat_bounds (num * 2 ^ ratioShift num den) hd
  have hval : (num : ℝ) / den * 2 ^ e =
      ((num * 2 ^ ratioShift num den : Nat) : ℝ) / den * 2 ^ (e - (ratioShift num den : ℤ)) := by
    rw [zpow_sub₀ (by norm_num)]
    push_cast
    simp only [zpow_natCast]
    field_simp
  have hp : (0 : ℝ) < 2 ^ (e - (ratioShift num den : ℤ)) := by positivity
  refine stands_signed (x := ⟨neg, _, _, _⟩) (by positivity) (fun h => ?_) (fun h => ?_)
  · rw [hval, hexact (by simpa using h)]
  · obtain ⟨hlo, hhi⟩ := hsticky (by simpa using h)
    rw [hval]
    exact ⟨mul_lt_mul_of_pos_right hlo hp, mul_lt_mul_of_pos_right hhi hp⟩

theorem fine_ratio (neg : Bool) (num : Nat) {den : Nat} (hd : 0 < den) (e : ℤ) : Fine (Mag.ratio neg num den e) := by
  rw [ratio_eq]
  intro h
  have hn : 0 < num := Nat.pos_of_ne_zero (by rintro rfl; simp at h)
  exact (by norm_num : 290 ≤ 400).trans (lt_bits_ratio_quotient hn hd)

theorem finiteIs_ratio (neg : Bool) {num den : Nat} (hd : 0 < den) (e : ℤ) {P : Prop} (hz : num = 0 → (neg = true ↔ P)) :
    FiniteIs (.fin (Mag.ratio neg num den e)) ((if neg then -1 else 1) * (num / den * 2 ^ e)) P := by
  refine ⟨_, rfl, stands_ratio neg num hd e, fine_ratio neg num hd e, fun h => ?_⟩
  have hd' : (den : ℝ) ≠ 0 := by exact_mod_cast hd.ne'
  have h2 : (2 : ℝ) ^ e ≠ 0 := by positivity
  have hn : num = 0 := by
    rcases mul_eq_zero.1 h with h | h
    · cases neg <;> simp at h
    · simpa [hd', h2] using h
  simpa [ratio_eq, hn] using hz hn

/-! ## The nearest integer -/

theorem nearest_of_abs_lt {a : ℝ} {n : ℤ} (h : |a - n| < 1 / 2) : Nearest a n := ⟨h.le, fun he => absurd he h.ne⟩

theorem nearest_intCast (n : ℤ) : Nearest n n := nearest_of_abs_lt (by norm_num)

theorem nearest_neg {a : ℝ} {n : ℤ} (h : Nearest a n) : Nearest (-a) (-n) := by
  obtain ⟨hle, htie⟩ := h
  have : |-a - ((-n : ℤ) : ℝ)| = |a - n| := by push_cast; rw [← abs_neg]; congr 1; ring
  exact ⟨this ▸ hle, fun he => by have := htie (this ▸ he); omega⟩

/-- The nearest integer to t + z/(2H), z being at the integer r or, where sticky, strictly between it and r + 1. -/
theorem nearest_of_remainder {t r H : Nat} {sticky : Bool} {z : ℝ} (hH : 0 < H) (hr : r < 2 * H)
    (hz : sticky = false → z = r) (hs : sticky = true → r < z ∧ z < r + 1) :
    Nearest (t + z / (2 * H))
      (((if (decide (H < r) || (decide (r = H) && sticky)) || (decide (r = H) && t % 2 == 1) then t + 1 else t : Nat) : ℤ)) := by
  have hH' : (0 : ℝ) < 2 * H := by exact_mod_cast (by omega : 0 < 2 * H)
  have hge : (r : ℝ) ≤ z := by
    cases sticky
    · exact (hz rfl).ge
    · exact (hs rfl).1.le
  have hlt : ∀ k : Nat, r < k → z < k := by
    intro k hk
    have hk' : (r : ℝ) + 1 ≤ k := by exact_mod_cast hk
    cases sticky
    · rw [hz rfl]; linarith
    · linarith [(hs rfl).2]
  rcases lt_trichotomy r H with h | h | h
  · have hzH : z < H := hlt H h
    have hn1 : ¬ H < r := by omega
    have hn2 : r ≠ H := by omega
    simp only [hn1, hn2, decide_false, Bool.false_and, Bool.or_false, Bool.false_eq_true, if_false]
    refine nearest_of_abs_lt ?_
    have : z / (2 * H) < 1 / 2 := by rw [div_lt_iff₀ hH']; linarith
    have h0 : 0 ≤ z / (2 * H) := div_nonneg ((Nat.cast_nonneg r).trans hge) hH'.le
    rw [abs_lt]; push_cast; constructor <;> linarith
  · cases sticky with
    | true =>
      have hzH : (H : ℝ) < z := h ▸ (hs rfl).1
      have hz2 : z < (2 * H : Nat) := hlt _ hr
      simp only [h, decide_true, Bool.and_self, Bool.or_true, Bool.true_or, if_true]
      refine nearest_of_abs_lt ?_
      have h1 : 1 / 2 < z / (2 * H) := by rw [lt_div_iff₀ hH']; linarith
      have h2 : z / (2 * H) < 1 := by rw [div_lt_one hH']; push_cast at hz2; exact hz2
      rw [abs_lt]; push_cast; constructor <;> linarith
    | false =>
      have hhalf : z / (2 * H) = 1 / 2 := by rw [hz rfl, h, div_eq_iff hH'.ne']; ring
      rw [hhalf]
      by_cases ht : t % 2 = 1
      · simp only [h, ht, decide_true, beq_self_eq_true, Bool.and_self, Bool.or_true, if_true]
        refine ⟨by push_cast; rw [abs_le]; constructor <;> linarith, fun _ => by push_cast; omega⟩
      · have hb : (t % 2 == 1) = false := by simpa using ht
        simp only [h, hb, lt_irrefl, decide_false, Bool.and_false, Bool.or_false, Bool.false_eq_true, if_false]
        refine ⟨by push_cast; rw [abs_le]; constructor <;> linarith, fun _ => by omega⟩
  · have hzH : (H : ℝ) < z := lt_of_lt_of_le (by exact_mod_cast h) hge
    have hz2 : z < (2 * H : Nat) := hlt _ hr
    simp only [h, decide_true, Bool.true_or, if_true]
    refine nearest_of_abs_lt ?_
    have h1 : 1 / 2 < z / (2 * H) := by rw [lt_div_iff₀ hH']; linarith
    have h2 : z / (2 * H) < 1 := by rw [div_lt_one hH']; push_cast at hz2; exact hz2
    rw [abs_lt]; push_cast; constructor <;> linarith

/-- Rounding to a multiple of 1 under mode 0 gives the nearest integer. -/
theorem roundAt_nearest (draw : Nat) (x : Mag) (a : ℝ) (he : x.sticky = false → a = x.m * 2 ^ x.e)
    (hs : x.sticky = true → x.e < 0 ∧ x.m * 2 ^ x.e < a ∧ a < (x.m + 1) * (2 : ℝ) ^ x.e) :
    Nearest a (roundAt 0 draw 0 x) := by
  unfold roundAt
  by_cases h0 : 0 ≤ x.e
  · have hst : x.sticky = false := by
      by_contra h; exact absurd (hs (by simpa using h)).1 (by omega)
    obtain ⟨k, hk⟩ := Int.eq_ofNat_of_zero_le h0
    have ha : a = ((x.m <<< (x.e - 0).toNat : Nat) : ℤ) := by
      rw [he hst, hk]; simp [Nat.shiftLeft_eq]
    rw [if_pos h0, ha]
    exact nearest_intCast _
  · obtain ⟨k, hk⟩ : ∃ k : Nat, x.e = -((k : ℤ) + 1) := ⟨(-x.e - 1).toNat, by omega⟩
    have hsh : (0 - x.e).toNat = k + 1 := by omega
    rw [if_neg h0]
    simp only [hsh, Nat.add_sub_cancel, Nat.shiftRight_eq_div_pow]
    have h2 : (2 : ℝ) ^ x.e * 2 ^ (k + 1) = 1 := by
      rw [hk, zpow_neg, ← Nat.cast_succ, zpow_natCast]
      exact inv_mul_cancel₀ (by positivity)
    have hpos : (0 : ℝ) < 2 ^ (k + 1) := by positivity
    have hm : (x.m : ℝ) = 2 ^ (k + 1) * (x.m / 2 ^ (k + 1) : Nat) + (x.m % 2 ^ (k + 1) : Nat) := by
      exact_mod_cast (Nat.div_add_mod x.m (2 ^ (k + 1))).symm
    have ha : a = ((x.m / 2 ^ (k + 1) : Nat) : ℝ) +
        (a * 2 ^ (k + 1) - 2 ^ (k + 1) * (x.m / 2 ^ (k + 1) : Nat)) / (2 * ((2 ^ k : Nat) : ℝ)) := by
      push_cast
      rw [pow_succ]
      field_simp
      ring
    rw [ha]
    refine nearest_of_remainder (Nat.two_pow_pos k) (by rw [← pow_succ']; exact Nat.mod_lt _ (Nat.two_pow_pos _))
      (fun h => ?_) (fun h => ?_)
    · rw [he h, mul_assoc, h2]; linarith
    · obtain ⟨-, hlo, hhi⟩ := hs h
      have hlo' := mul_lt_mul_of_pos_right hlo hpos
      have hhi' := mul_lt_mul_of_pos_right hhi hpos
      rw [mul_assoc, h2] at hlo' hhi'
      constructor <;> linarith

/-- Rounding to an integer under mode 0 gives the nearest integer to what the magnitude stands for. -/
theorem roundInt_nearest {x : Mag} {r : ℝ} (draw : Nat) (hx : Stands x r) (hneg : x.sticky = true → x.e < 0) :
    Nearest r (roundInt 0 draw x) := by
  obtain ⟨hsign, hexact, hsticky⟩ := hx
  have habs := roundAt_nearest draw x |r| hexact (fun h => ⟨hneg h, hsticky h⟩)
  unfold roundInt
  by_cases h0 : r = 0
  · have hst : x.sticky = false := by
      by_contra h
      have h1 := (hsticky (by simpa using h)).1
      rw [h0, abs_zero] at h1
      exact absurd h1 (not_lt.2 (magnitude_nonneg _ _))
    subst h0
    rw [abs_zero] at habs
    cases x.neg
    · exact habs
    · simpa using nearest_neg habs
  · have hs := hsign h0
    cases hn : x.neg
    · have : 0 ≤ r := by simpa [hn] using hs
      rw [abs_of_nonneg this] at habs
      exact habs
    · have : r < 0 := hs.2 hn
      rw [abs_of_neg this] at habs
      simpa using nearest_neg habs

end Sys2Proof.Proofs.ExactNumbers
end
section
/-!
PROOFS. The special functions (R71-R78): the tables of R72, and for each function the value that its one rounding takes.
-/
namespace Sys2Proof.Proofs.SpecialFunctions
open Sys2Proof.Machine Sys2Proof.Safety Sys2Proof.Proofs.ExactNumbers

/-! ## The tables (R72) -/

theorem tabT_power_bounds : ∀ j < 64, (2 * (tabT.getD j 0).toNat - 1) ^ 64 < (2 ^ 63) ^ 64 * 2 ^ j ∧
    (2 ^ 63) ^ 64 * 2 ^ j < (2 * (tabT.getD j 0).toNat + 1) ^ 64 := by decide

theorem tabRC_quotient_bounds : ∀ j < 64, (2 * (tabRC.getD j 0).toNat - 1) * (64 + j) < 2 ^ 69 ∧
    2 ^ 69 < (2 * (tabRC.getD j 0).toNat + 1) * (64 + j) := by decide

theorem tabT_lower : ∀ j < 64, 2 ^ 62 ≤ tabT.getD j 0 ∧ (j ≠ 0 → 2 ^ 62 < tabT.getD j 0) := by decide

theorem tabRC_lower : ∀ j < 64, 1 ≤ tabRC.getD j 0 := by decide

/-- A real whose double lies strictly between two odd neighbours of 2n is nearest to n. -/
theorem nearest_of_double {r : ℝ} {n : ℤ} (hlo : 2 * (n : ℝ) - 1 < 2 * r) (hhi : 2 * r < 2 * n + 1) : Nearest r n :=
  nearest_of_abs_lt (by rw [abs_lt]; constructor <;> linarith)

theorem toNat_cast_real {n : ℤ} (h : 0 ≤ n) : ((n.toNat : Nat) : ℝ) = n := by
  exact_mod_cast Int.toNat_of_nonneg h

theorem double_pred_cast {n : Nat} (h : 1 ≤ 2 * n) : ((2 * n - 1 : Nat) : ℝ) = 2 * n - 1 := by
  rw [Nat.cast_sub h]; push_cast; rfl

theorem tabT_nearest {j : Nat} (hj : j < 64) : Nearest ((2 : ℝ) ^ ((j : ℝ) / 64) * 2 ^ 62) (tabT.getD j 0) := by
  have hn : (1 : ℤ) ≤ tabT.getD j 0 := le_trans (by norm_num) (tabT_lower j hj).1
  obtain ⟨hlo, hhi⟩ := tabT_power_bounds j hj
  have hr : ((2 : ℝ) * (2 ^ ((j : ℝ) / 64) * 2 ^ 62)) ^ 64 = (2 ^ 63) ^ 64 * 2 ^ j := by
    rw [show (2 : ℝ) * (2 ^ ((j : ℝ) / 64) * 2 ^ 62) = 2 ^ 63 * 2 ^ ((j : ℝ) / 64) by ring, mul_pow,
      ← Real.rpow_natCast ((2 : ℝ) ^ ((j : ℝ) / 64)), ← Real.rpow_mul (by norm_num)]
    norm_num
  have hcast := toNat_cast_real (by omega : 0 ≤ tabT.getD j 0)
  have h1 : 1 ≤ 2 * (tabT.getD j 0).toNat := by omega
  have hlo' : (2 * ((tabT.getD j 0 : ℤ) : ℝ) - 1) ^ 64 < (2 ^ 63) ^ 64 * 2 ^ j := by
    rw [← hcast, ← double_pred_cast h1]; exact_mod_cast hlo
  have hhi' : ((2 : ℝ) ^ 63) ^ 64 * 2 ^ j < (2 * ((tabT.getD j 0 : ℤ) : ℝ) + 1) ^ 64 := by
    rw [← hcast]; exact_mod_cast hhi
  rw [← hr] at hlo' hhi'
  have hn' : (1 : ℝ) ≤ (tabT.getD j 0 : ℤ) := by exact_mod_cast hn
  exact nearest_of_double (lt_of_pow_lt_pow_left₀ 64 (by positivity) hlo') (lt_of_pow_lt_pow_left₀ 64 (by linarith) hhi')

theorem tabRC_nearest {j : Nat} (hj : j < 64) : Nearest ((2 : ℝ) ^ 62 * 64 / (64 + j)) (tabRC.getD j 0) := by
  have hn := tabRC_lower j hj
  obtain ⟨hlo, hhi⟩ := tabRC_quotient_bounds j hj
  have hcast := toNat_cast_real (by omega : 0 ≤ tabRC.getD j 0)
  have h1 : 1 ≤ 2 * (tabRC.getD j 0).toNat := by omega
  have hlo' : (2 * ((tabRC.getD j 0 : ℤ) : ℝ) - 1) * (64 + j) < 2 ^ 69 := by
    rw [← hcast, ← double_pred_cast h1]; exact_mod_cast hlo
  have hhi' : (2 : ℝ) ^ 69 < (2 * ((tabRC.getD j 0 : ℤ) : ℝ) + 1) * (64 + j) := by rw [← hcast]; exact_mod_cast hhi
  have hd : (0 : ℝ) < 64 + j := by positivity
  have hr : (2 : ℝ) * (2 ^ 62 * 64 / (64 + j)) = 2 ^ 69 / (64 + j) := by ring
  exact nearest_of_double (by rw [hr, lt_div_iff₀ hd]; exact hlo') (by rw [hr, div_lt_iff₀ hd]; exact hhi')

/-! ## Scaling and clamping -/

theorem scaled_value {x : Mag} {q : ℤ} (h : q ≤ x.e) : (x.scaled q : ℝ) * 2 ^ q = realOf (.num x.neg x.m x.e) := by
  obtain ⟨k, hk⟩ := Int.eq_ofNat_of_zero_le (sub_nonneg.2 h)
  have he : (2 : ℝ) ^ x.e = 2 ^ k * 2 ^ q := by rw [← zpow_natCast, ← zpow_add₀ (by norm_num)]; congr 1; omega
  rw [realOf_num, he, Mag.scaled, hk]
  cases x.neg <;> simp [Nat.shiftLeft_eq] <;> ring

theorem cmpVal_num (s t : Bool) (m n : Nat) (e f : ℤ) :
    (0 < cmpVal (.num s m e) (.num t n f) ↔ realOf (.num t n f) < realOf (.num s m e)) ∧
    (cmpVal (.num s m e) (.num t n f) < 0 ↔ realOf (.num s m e) < realOf (.num t n f)) := by
  have hq : (0 : ℝ) < 2 ^ min e f := by positivity
  have hx := scaled_value (x := ⟨s, m, e, false⟩) (min_le_left e f)
  have hy := scaled_value (x := ⟨t, n, f, false⟩) (min_le_right e f)
  rw [show realOf (.num s m e) = _ from hx.symm, show realOf (.num t n f) = _ from hy.symm,
    mul_lt_mul_iff_left₀ hq, mul_lt_mul_iff_left₀ hq, Int.cast_lt, Int.cast_lt]
  simp only [cmpVal, FVal.mag, ne_eq, not_true_eq_false, if_false]
  split_ifs <;> omega

/-- The clamped magnitude of R74, R77 and R78. -/
theorem clamp200_magnitude (x : Mag) : (clamp200 x).neg = x.neg ∧ (x.sticky = false → (clamp200 x).sticky = false) ∧
    ((clamp200 x).m : ℝ) * 2 ^ (clamp200 x).e = min ((x.m : ℝ) * 2 ^ x.e) 200 := by
  have h := (cmpVal_num false false x.m 200 x.e 0).1
  simp only [realOf_num, Bool.false_eq_true, if_false, one_mul, zpow_zero, mul_one, Nat.cast_ofNat] at h
  unfold clamp200
  by_cases hc : 0 < cmpVal (.num false x.m x.e) (.num false 200 0)
  · rw [if_pos hc]
    exact ⟨rfl, fun _ => rfl, by rw [min_eq_right (h.1 hc).le]; norm_num⟩
  · rw [if_neg hc]
    exact ⟨rfl, id, (min_eq_left (not_lt.1 (mt h.2 hc))).symm⟩

theorem abs_realOf_num (s : Bool) (m : Nat) (e : ℤ) : |realOf (.num s m e)| = m * 2 ^ e := by
  rw [realOf_num, abs_signed _ (magnitude_nonneg _ _)]

theorem clamp200_value (s : Bool) (m : Nat) (e : ℤ) : realOf (.num s (clamp200 ⟨s, m, e, false⟩).m (clamp200 ⟨s, m, e, false⟩).e) =
    max (-200) (min 200 (realOf (.num s m e))) := by
  obtain ⟨-, -, hval⟩ := clamp200_magnitude ⟨s, m, e, false⟩
  have h0 := magnitude_nonneg m e
  rw [realOf_num, realOf_num, hval]
  cases s
  · have hm : (0 : ℝ) ≤ min 200 ((m : ℝ) * 2 ^ e) := le_min (by norm_num) h0
    simp only [Bool.false_eq_true, if_false, one_mul]
    rw [max_eq_right (by linarith), min_comm]
  · simp only [if_true, neg_one_mul]
    rw [min_eq_right (by linarith : -((m : ℝ) * 2 ^ e) ≤ 200), ← max_neg_neg, max_comm]

/-- An exact magnitude rounded to an integer (R44). -/
theorem roundInt_exact_nearest (x : Mag) (h : x.sticky = false) {r : ℝ} (hr : realOf (.num x.neg x.m x.e) = r) :
    Nearest r (roundInt 0 0 x) :=
  roundInt_nearest 0 (hr ▸ stands_exact h) (by simp [h])

/-! ## The exponential core (R73) -/

theorem expCore_eq (x : ℤ) : expCore x = expSteps x := rfl

/-- The polynomial of R73 times its argument. -/
def expFraction (tq : ℤ) : ℤ :=
  timesQ (3196577161300663915 + timesQ (1107849223398934356 +
    timesQ (255967521894832113 + timesQ 44355791529079737 tq) tq) tq) tq

theorem expSteps_eq (x : ℤ) : expSteps x = (tabT.getD (x / 2 ^ 34 % 64).toNat 0 +
    timesQ (tabT.getD (x / 2 ^ 34 % 64).toNat 0) (expFraction (x % 2 ^ 34 * 2 ^ 22)), x / 2 ^ 40) := rfl

theorem timesQ_nonneg {a b : ℤ} (ha : 0 ≤ a) (hb : 0 ≤ b) : 0 ≤ timesQ a b :=
  Int.ediv_nonneg (mul_nonneg ha hb) (by norm_num)

theorem timesQ_pos {a b : ℤ} (h : 2 ^ 62 ≤ a * b) : 0 < timesQ a b :=
  Int.lt_of_lt_of_le one_pos ((Int.le_ediv_iff_mul_le (by norm_num)).2 (by simpa using h))

theorem expFraction_factor_ge {tq : ℤ} (h : 0 ≤ tq) : 3196577161300663915 ≤
    3196577161300663915 + timesQ (1107849223398934356 + timesQ (255967521894832113 + timesQ 44355791529079737 tq) tq) tq := by
  have h4 := timesQ_nonneg (a := 44355791529079737) (by norm_num) h
  have h3 := timesQ_nonneg (a := 255967521894832113 + timesQ 44355791529079737 tq) (by omega) h
  have h2 := timesQ_nonneg (a := 1107849223398934356 + timesQ (255967521894832113 + timesQ 44355791529079737 tq) tq)
    (by omega) h
  omega

theorem expFraction_nonneg {tq : ℤ} (h : 0 ≤ tq) : 0 ≤ expFraction tq :=
  timesQ_nonneg (le_trans (by norm_num) (expFraction_factor_ge h)) h

theorem expFraction_pos {tq : ℤ} (h : 2 ^ 22 ≤ tq) : 0 < expFraction tq :=
  timesQ_pos (by nlinarith [expFraction_factor_ge (le_trans (by norm_num) h : 0 ≤ tq)])

theorem timesQ_ge {a b : ℤ} (ha : 2 ^ 62 ≤ a) (hb : 0 ≤ b) : b ≤ timesQ a b :=
  (Int.le_ediv_iff_mul_le (by norm_num)).2 (by rw [mul_comm]; exact mul_le_mul_of_nonneg_right ha hb)

theorem expSteps_index_lt (x : ℤ) : (x / 2 ^ 34 % 64).toNat < 64 := by omega

theorem expSteps_fst_ge (x : ℤ) : 2 ^ 62 ≤ (expSteps x).1 := by
  have hq := expFraction_nonneg (tq := x % 2 ^ 34 * 2 ^ 22) (by omega)
  have ht := (tabT_lower _ (expSteps_index_lt x)).1
  have := timesQ_ge ht hq
  rw [expSteps_eq]
  simp only
  omega

/-- E(X) is above 1 for every X at or above 1. -/
theorem expSteps_above_one {x : ℤ} (h : 1 ≤ x) : 0 ≤ (expSteps x).2 ∧ (2 ^ 62 < (expSteps x).1 ∨ 1 ≤ (expSteps x).2) := by
  obtain ⟨ht, htj⟩ := tabT_lower _ (expSteps_index_lt x)
  have hq := expFraction_nonneg (tq := x % 2 ^ 34 * 2 ^ 22) (by omega)
  have hge := timesQ_ge ht hq
  rw [expSteps_eq]
  simp only
  refine ⟨by omega, ?_⟩
  by_cases hr : x % 2 ^ 34 = 0
  · by_cases hj : (x / 2 ^ 34 % 64).toNat = 0
    · right; omega
    · left; have := htj hj; omega
  · left
    have := expFraction_pos (tq := x % 2 ^ 34 * 2 ^ 22) (by omega)
    omega

/-! ## Powers and logarithms (R74, R75) -/

theorem exp2X_value (s : Bool) (m : Nat) (e : ℤ) : ∃ X, Nearest (max (-200) (min 200 (realOf (.num s m e))) * 2 ^ 40) X ∧
    exp2X (.num s m e) = .fin { m := (expSteps X).1.toNat, e := (expSteps X).2 - 62 } := by
  obtain ⟨hneg, hst, -⟩ := clamp200_magnitude ⟨s, m, e, false⟩
  refine ⟨_, roundInt_exact_nearest { clamp200 ⟨s, m, e, false⟩ with e := (clamp200 ⟨s, m, e, false⟩).e + 40 } (hst rfl) ?_, rfl⟩
  have hc := clamp200_value s m e
  simp only [realOf_num, hneg] at hc ⊢
  rw [← hc, zpow_add₀ (by norm_num)]
  simp only [zpow_ofNat, mul_assoc]

/-- A positive real is M 2^k for one normalized significand only. -/
theorem normal_unique {M N k l : ℤ} (hM : 2 ^ 23 ≤ M) (hM' : M < 2 ^ 24) (hN : 2 ^ 23 ≤ N) (hN' : N < 2 ^ 24)
    (h : (M : ℝ) * 2 ^ k = N * 2 ^ l) : M = N ∧ k = l := by
  have hlt : ∀ {M N k l : ℤ}, M < 2 ^ 24 → 2 ^ 23 ≤ N → (M : ℝ) * 2 ^ k = N * 2 ^ l → ¬ k < l := by
    intro M N k l hM hN h hkl
    have hM' : (M : ℝ) < 2 ^ 24 := by exact_mod_cast hM
    have hN' : (2 : ℝ) ^ 23 ≤ N := by exact_mod_cast hN
    have hk : (0 : ℝ) < 2 ^ k := by positivity
    have hstep : (2 : ℝ) ^ k * 2 ≤ 2 ^ l := by
      rw [← zpow_add_one₀ (by norm_num)]
      exact zpow_le_zpow_right₀ (by norm_num) hkl
    nlinarith
  have hkl : k = l := le_antisymm (not_lt.1 (hlt hN' hM h.symm)) (not_lt.1 (hlt hM' hN h))
  subst hkl
  have h2 : (2 : ℝ) ^ k ≠ 0 := by positivity
  exact ⟨by exact_mod_cast mul_right_cancel₀ h2 h, rfl⟩

theorem log2X_value {m : Nat} (e : ℤ) (hm : m ≠ 0) (hm24 : m < 2 ^ 24) {M k : ℤ} (hM : 2 ^ 23 ≤ M) (hM' : M < 2 ^ 24)
    (h : realOf (.num false m e) = M * 2 ^ (k - 23)) :
    FiniteIs (log2X (.num false m e)) (logSteps M k * 2 ^ (-62 : ℤ)) False := by
  have hb : bits m ≤ 24 := bits_le_iff.2 hm24
  have hb0 : 0 < bits m := lt_bits_iff.2 (by simpa using Nat.one_le_iff_ne_zero.2 hm)
  have hlo : 2 ^ 23 ≤ m * 2 ^ (24 - bits m) :=
    calc 2 ^ 23 = 2 ^ (bits m - 1) * 2 ^ (24 - bits m) := by rw [← pow_add]; congr 1; omega
      _ ≤ m * 2 ^ (24 - bits m) := Nat.mul_le_mul_right _ (two_pow_bits_pred_le hm)
  have hhi : m * 2 ^ (24 - bits m) < 2 ^ 24 :=
    calc m * 2 ^ (24 - bits m) < 2 ^ bits m * 2 ^ (24 - bits m) := Nat.mul_lt_mul_of_pos_right (lt_two_pow_bits m) (by positivity)
      _ = 2 ^ 24 := by rw [← pow_add]; congr 1; omega
  have hval : (M : ℝ) * 2 ^ (k - 23) =
      ((m * 2 ^ (24 - bits m) : Nat) : ℤ) * 2 ^ (e - ((24 - bits m : Nat) : ℤ) + 23 - 23) := by
    rw [← h, realOf_num, add_sub_cancel_right, zpow_sub₀ (by norm_num)]
    push_cast
    simp only [zpow_natCast]
    field_simp
  obtain ⟨hMe, hke⟩ := normal_unique hM hM' (by exact_mod_cast hlo) (by exact_mod_cast hhi) hval
  have hke : k = e - ((24 - bits m : Nat) : ℤ) + 23 := by omega
  have hlog : log2X (.num false m e) = .fin { neg := decide (logSteps M k < 0), m := (logSteps M k).natAbs, e := -62 } := by
    rw [hMe, hke, ← Nat.shiftLeft_eq, log2X, if_neg hm]
    rfl
  rw [hlog]
  exact finiteIs_int _ _ (fun _ => by simp) (fun h => by simp [h])

/-! ## Sine and cosine (R76) -/

/-- The test of a finite magnitude against a power of two. -/
theorem below_iff (x : Mag) (k : ℤ) : below x k = true ↔ x.m ≠ 0 ∧ (x.m : ℝ) * 2 ^ x.e < 2 ^ (-k) := by
  simp only [below, Bool.and_eq_true, bne_iff_ne, decide_eq_true_eq]
  unfold Mag.top
  refine and_congr_right fun hm => ?_
  have hb0 : 0 < bits x.m := lt_bits_iff.2 (by simpa using Nat.one_le_iff_ne_zero.2 hm)
  have hp : (0 : ℝ) < 2 ^ x.e := by positivity
  rw [← lt_div_iff₀ hp, ← zpow_sub₀ (by norm_num)]
  rcases lt_or_ge (-k - x.e) 0 with h | h
  · have h1 : (1 : ℝ) ≤ x.m := by exact_mod_cast Nat.one_le_iff_ne_zero.2 hm
    have h2 : (2 : ℝ) ^ (-k - x.e) < 1 := zpow_lt_one_of_neg₀ (by norm_num) h
    exact iff_of_false (by omega) (by linarith)
  · obtain ⟨n, hn⟩ := Int.eq_ofNat_of_zero_le h
    rw [hn, zpow_natCast]
    have hcast : (x.m : ℝ) < 2 ^ n ↔ x.m < 2 ^ n := by exact_mod_cast Iff.rfl
    rw [hcast, ← bits_le_iff]
    omega

/-- R76 after the reduction of its argument. -/
theorem sinCos_eq {x : Mag} (h : 0 ≤ x.e + 52) : sinCos x = sinSteps (x.scaled (-52) % 2 ^ 53) := by
  unfold sinCos
  simp only [if_pos h]
  generalize hF : x.scaled (-52) % 2 ^ 53 = F
  obtain hq | hq | hq | hq : F / 2 ^ 51 = 0 ∨ F / 2 ^ 51 = 1 ∨ F / 2 ^ 51 = 2 ∨ F / 2 ^ 51 = 3 := by omega
  all_goals simp only [hq, sinSteps]; rfl

/-- The reduced argument of R76 is the one integer that x mod 2 is in units of 2^-52. -/
theorem scaled_mod_two {x : Mag} (h : -52 ≤ x.e) {F : ℤ}
    (hF : (F : ℝ) = (realOf (.num x.neg x.m x.e) - 2 * ⌊realOf (.num x.neg x.m x.e) / 2⌋) * 2 ^ 52) :
    x.scaled (-52) % 2 ^ 53 = F := by
  rw [← scaled_value h] at hF
  generalize hr : ((x.scaled (-52) : ℝ) * 2 ^ (-52 : ℤ)) = r at hF
  have hS : (x.scaled (-52) : ℝ) = r * 2 ^ 52 := by rw [← hr]; norm_num [zpow_neg, mul_assoc]
  have hlo := Int.floor_le (r / 2)
  have hhi := Int.lt_floor_add_one (r / 2)
  have h0 : (0 : ℝ) ≤ F := by rw [hF]; nlinarith
  have h1 : (F : ℝ) < 2 ^ 53 := by rw [hF]; nlinarith
  have hsum : (x.scaled (-52) : ℝ) = F + 2 ^ 53 * (⌊r / 2⌋ : ℤ) := by rw [hS, hF]; ring
  have h0' : 0 ≤ F := by exact_mod_cast h0
  have h1' : F < 2 ^ 53 := by exact_mod_cast h1
  have hsum' : x.scaled (-52) = F + 2 ^ 53 * ⌊r / 2⌋ := by exact_mod_cast hsum
  rw [hsum', Int.add_mul_emod_self_left, Int.emod_eq_of_lt h0' h1']

/-- A magnitude of 24 bits at or above 2^-28 is a multiple of 2^-52. -/
theorem exponent_of_not_below {m : Nat} {e : ℤ} (hm : m < 2 ^ 24) (h : (2 : ℝ) ^ (-28 : ℤ) ≤ m * 2 ^ e) : -52 ≤ e := by
  by_contra hlt
  have hm' : (m : ℝ) < 2 ^ 24 := by exact_mod_cast hm
  have he : (2 : ℝ) ^ e ≤ 2 ^ (-53 : ℤ) := zpow_le_zpow_right₀ (by norm_num) (by omega)
  have hp : (0 : ℝ) < 2 ^ e := by positivity
  have : (m : ℝ) * 2 ^ e < 2 ^ (-28 : ℤ) := by
    calc (m : ℝ) * 2 ^ e < 2 ^ 24 * 2 ^ e := mul_lt_mul_of_pos_right hm' hp
      _ ≤ 2 ^ 24 * 2 ^ (-53 : ℤ) := mul_le_mul_of_nonneg_left he (by norm_num)
      _ < 2 ^ (-28 : ℤ) := by norm_num
  linarith

theorem trig_zero (s : Bool) (e : ℤ) :
    sinpX (.num s 0 e) = .fin { neg := s } ∧ FiniteIs (cospX (.num s 0 e)) 1 False := by
  refine ⟨rfl, ?_⟩
  have h := finiteIs_int 1 0 (s := false) (P := False) (by norm_num) (by norm_num)
  rwa [Int.cast_one, zpow_zero, mul_one] at h

theorem trig_small {s : Bool} {m : Nat} {e : ℤ} (hm : m ≠ 0) (h : |realOf (.num s m e)| < 2 ^ (-28 : ℤ)) :
    FiniteIs (sinpX (.num s m e)) (realOf (.num s m e) * coefA.getD 0 0 * 2 ^ (-62 : ℤ)) False ∧
    FiniteIs (cospX (.num s m e)) (1 - 2 ^ (-60 : ℤ)) False := by
  have hb : below { m, e } 28 = true := (below_iff _ _).2 ⟨hm, by rwa [abs_realOf_num] at h⟩
  simp only [sinpX, cospX, if_neg hm, hb, if_true]
  refine ⟨?_, ?_⟩
  · have hval : realOf (.num s m e) * coefA.getD 0 0 * 2 ^ (-62 : ℤ) =
        realOf (.num s (m * (coefA.getD 0 0).toNat) (e - 62)) := by
      have hc : ((((coefA.getD 0 0).toNat : Nat)) : ℝ) = (coefA.getD 0 0 : ℤ) := toNat_cast_real (by decide)
      rw [realOf_num, realOf_num, Nat.cast_mul, hc, sub_eq_add_neg, zpow_add₀ (by norm_num)]
      ring
    rw [hval]
    exact finiteIs_exact (x := ⟨s, _, _, false⟩) rfl (fun h => absurd h (Nat.mul_ne_zero hm (by decide)))
  · have h := finiteIs_int (2 ^ 60 - 1) (-60) (s := false) (P := False) (by norm_num) (by norm_num)
    have hval : (((2 ^ 60 - 1 : ℤ)) : ℝ) * 2 ^ (-60 : ℤ) = 1 - 2 ^ (-60 : ℤ) := by norm_num
    rw [← hval]
    exact h

theorem trig_main {s : Bool} {m : Nat} {e : ℤ} (hm : m < 2 ^ 24) (h : (2 : ℝ) ^ (-28 : ℤ) ≤ |realOf (.num s m e)|) {F : ℤ}
    (hF : (F : ℝ) = (realOf (.num s m e) - 2 * ⌊realOf (.num s m e) / 2⌋) * 2 ^ 52) :
    FiniteIs (sinpX (.num s m e)) ((sinSteps F).1 * 2 ^ (-62 : ℤ)) (s = true) ∧
    FiniteIs (cospX (.num s m e)) ((sinSteps F).2 * 2 ^ (-62 : ℤ)) False := by
  rw [abs_realOf_num] at h
  have he := exponent_of_not_below hm h
  have hm0 : m ≠ 0 := by rintro rfl; rw [Nat.cast_zero, zero_mul] at h; exact absurd h (by norm_num)
  have hb : ¬ below { m, e } 28 = true := fun hb => not_lt.2 h ((below_iff _ _).1 hb).2
  have hsc : sinCos ⟨s, m, e, false⟩ = sinSteps F := by
    rw [sinCos_eq (by show 0 ≤ e + 52; omega), scaled_mod_two he hF]
  simp only [sinpX, cospX, if_neg hm0, if_neg hb, hsc]
  exact ⟨finiteIs_int _ _ (fun h => by simp [h]) (fun h => by simp [h]), finiteIs_int _ _ (fun _ => by simp) (fun h => by simp [h])⟩

/-! ## The logistic function and the hyperbolic tangent (R77, R78) -/

/-- E(X) as a real, m 2^(i - 62). -/
noncomputable def coreValue (X : ℤ) : ℝ := (expSteps X).1 * 2 ^ ((expSteps X).2 - 62)

/-- A power of two as a quotient of two natural ones. -/
theorem two_zpow_split (i : ℤ) : (2 : ℝ) ^ (i - 62) = 2 ^ (i - 62).toNat / 2 ^ (62 - i).toNat := by
  rw [eq_div_iff (by positivity), ← zpow_natCast, ← zpow_natCast, ← zpow_add₀ (by norm_num)]
  congr 1
  omega

theorem core_numerator_cast (X : ℤ) : (((expSteps X).1.toNat : Nat) : ℝ) = (expSteps X).1 :=
  toNat_cast_real (le_trans (by norm_num) (expSteps_fst_ge X))

theorem coreValue_eq (X : ℤ) : coreValue X =
    (((expSteps X).1.toNat * 2 ^ ((expSteps X).2 - 62).toNat : Nat) : ℝ) / ((2 ^ (62 - (expSteps X).2).toNat : Nat) : ℝ) := by
  rw [coreValue, two_zpow_split]
  push_cast
  rw [core_numerator_cast]
  ring

theorem coreValue_pos (X : ℤ) : 0 < coreValue X := by
  have h : (0 : ℝ) < (expSteps X).1 := by exact_mod_cast lt_of_lt_of_le (by norm_num) (expSteps_fst_ge X)
  unfold coreValue
  positivity

theorem one_lt_coreValue {X : ℤ} (h : 1 ≤ X) : 1 < coreValue X := by
  obtain ⟨hi, hv⟩ := expSteps_above_one h
  have hge : (2 : ℝ) ^ 62 ≤ (expSteps X).1 := by exact_mod_cast expSteps_fst_ge X
  have hmul : coreValue X = (expSteps X).1 / 2 ^ 62 * 2 ^ (expSteps X).2 := by
    rw [coreValue, zpow_sub₀ (by norm_num)]; norm_num; ring
  have h1 : (1 : ℝ) ≤ (expSteps X).1 / 2 ^ 62 := (one_le_div (by norm_num)).2 hge
  have h2 : (1 : ℝ) ≤ 2 ^ (expSteps X).2 := one_le_zpow₀ (by norm_num) hi
  rw [hmul]
  rcases hv with hv | hv
  · have hv' : (2 : ℝ) ^ 62 < (expSteps X).1 := by exact_mod_cast hv
    have : (1 : ℝ) < (expSteps X).1 / 2 ^ 62 := (one_lt_div (by norm_num)).2 hv'
    nlinarith
  · have : (1 : ℝ) < 2 ^ (expSteps X).2 := one_lt_zpow₀ (by norm_num) (by omega)
    nlinarith

/-- R77 for the clamped argument c, the exponential being taken of -c log2(e). -/
theorem sigm_clamped (c : Mag) {r : ℝ} (hr : realOf (.num c.neg c.m c.e) = r) :
    ∃ X, Nearest (-r * coefLE * 2 ^ (-22 : ℤ)) X ∧
      X = roundInt 0 0 { neg := !c.neg, m := c.m * coefLE.toNat, e := c.e - 22 } := by
  refine ⟨_, roundInt_exact_nearest _ rfl ?_, rfl⟩
  have hle : ((coefLE.toNat : Nat) : ℝ) = (coefLE : ℤ) := toNat_cast_real (by decide)
  rw [← hr, realOf_num, realOf_num, Nat.cast_mul, hle, sub_eq_add_neg, zpow_add₀ (by norm_num)]
  cases c.neg <;> simp <;> ring

/-- The denominator of R77 is the power of two plus the numerator of E(X). -/
theorem finiteIs_sigm (X : ℤ) : FiniteIs (.fin (Mag.ratio false (2 ^ (62 - (expSteps X).2).toNat)
    (if (expSteps X).2 ≤ 62 then 2 ^ (62 - (expSteps X).2).toNat + (expSteps X).1.toNat
      else 1 + (expSteps X).1.toNat * 2 ^ ((expSteps X).2 - 62).toNat) 0)) (1 / (1 + coreValue X)) False := by
  have hden : (if (expSteps X).2 ≤ 62 then 2 ^ (62 - (expSteps X).2).toNat + (expSteps X).1.toNat
      else 1 + (expSteps X).1.toNat * 2 ^ ((expSteps X).2 - 62).toNat) =
      2 ^ (62 - (expSteps X).2).toNat + (expSteps X).1.toNat * 2 ^ ((expSteps X).2 - 62).toNat := by
    split
    · rw [show ((expSteps X).2 - 62).toNat = 0 by omega, pow_zero, mul_one]
    · rw [show (62 - (expSteps X).2).toNat = 0 by omega, pow_zero]
  rw [hden, coreValue_eq]
  generalize (expSteps X).1.toNat * 2 ^ ((expSteps X).2 - 62).toNat = u
  have hk : 0 < 2 ^ (62 - (expSteps X).2).toNat := Nat.two_pow_pos _
  generalize 2 ^ (62 - (expSteps X).2).toNat = k at hk
  have hval : 1 / (1 + (u : ℝ) / k) = (if false then (-1 : ℝ) else 1) * ((k : ℝ) / ((k + u : Nat) : ℝ) * 2 ^ (0 : ℤ)) := by
    have hk' : (k : ℝ) ≠ 0 := by exact_mod_cast hk.ne'
    push_cast
    field_simp
  rw [hval]
  exact finiteIs_ratio false (by omega) 0 (fun h => absurd h hk.ne')

theorem sigmX_num (s : Bool) (m : Nat) (e : ℤ) :
    ∃ X, Nearest (-(max (-200) (min 200 (realOf (.num s m e)))) * coefLE * 2 ^ (-22 : ℤ)) X ∧
      FiniteIs (sigmX (.num s m e)) (1 / (1 + coreValue X)) False := by
  obtain ⟨hneg, -, -⟩ := clamp200_magnitude ⟨s, m, e, false⟩
  obtain ⟨X, hX, hdef⟩ := sigm_clamped (clamp200 ⟨s, m, e, false⟩)
    (r := max (-200) (min 200 (realOf (.num s m e)))) (by rw [hneg, clamp200_value])
  refine ⟨X, hX, ?_⟩
  have := finiteIs_sigm X
  rw [hdef] at this ⊢
  exact this

theorem sigmX_inf (b : Bool) :
    ∃ X, Nearest ((if b then 200 else -200) * coefLE * 2 ^ (-22 : ℤ)) X ∧
      FiniteIs (sigmX (.inf b)) (1 / (1 + coreValue X)) False := by
  have hr : realOf (.num b 200 0) = -(if b then 200 else -200) := by cases b <;> norm_num [realOf]
  obtain ⟨X, hX, hdef⟩ := sigm_clamped ⟨b, 200, 0, false⟩ hr
  refine ⟨X, neg_neg (if b then (200 : ℝ) else -200) ▸ hX, ?_⟩
  have := finiteIs_sigm X
  rw [hdef] at this ⊢
  exact this

/-- R78 on a magnitude. -/
def tanhMag (a : Mag) : Exact :=
  if a.m = 0 then .fin a
  else if below a 13 then .fin (Mag.ratio a.neg (3 * a.m * 2 ^ (-2 * a.e).toNat - a.m ^ 3) 3 (3 * a.e))
  else
    let X := roundInt 0 0 { m := 2 * (clamp200 a).m * coefLE.toNat, e := (clamp200 a).e - 22 }
    let u := (expSteps X).1.toNat * 2 ^ ((expSteps X).2 - 62).toNat
    let k := (62 - (expSteps X).2).toNat
    .fin (Mag.ratio a.neg (u - 2 ^ k) (u + 2 ^ k) 0)

theorem tanhX_num (s : Bool) (m : Nat) (e : ℤ) : tanhX (.num s m e) = tanhMag ⟨s, m, e, false⟩ := rfl

theorem tanhX_inf (b : Bool) : tanhX (.inf b) = tanhMag ⟨b, 200, 0, false⟩ := rfl

/-- The quotient of R78 for E(X) above 1. -/
theorem finiteIs_tanh (s : Bool) {X : ℤ} (hX : 1 ≤ X) : FiniteIs (.fin (Mag.ratio s
    ((expSteps X).1.toNat * 2 ^ ((expSteps X).2 - 62).toNat - 2 ^ (62 - (expSteps X).2).toNat)
    ((expSteps X).1.toNat * 2 ^ ((expSteps X).2 - 62).toNat + 2 ^ (62 - (expSteps X).2).toNat) 0))
    ((if s then -1 else 1) * ((coreValue X - 1) / (coreValue X + 1))) False := by
  have hlt := one_lt_coreValue hX
  rw [coreValue_eq] at hlt ⊢
  generalize (expSteps X).1.toNat * 2 ^ ((expSteps X).2 - 62).toNat = u at hlt
  have hk : 0 < 2 ^ (62 - (expSteps X).2).toNat := Nat.two_pow_pos _
  generalize 2 ^ (62 - (expSteps X).2).toNat = k at hk hlt
  have hk' : (0 : ℝ) < k := by exact_mod_cast hk
  have hku : k < u := by rw [one_lt_div hk'] at hlt; exact_mod_cast hlt
  have hval : ((u : ℝ) / k - 1) / (u / k + 1) = ((u - k : Nat) : ℝ) / ((u + k : Nat) : ℝ) * 2 ^ (0 : ℤ) := by
    push_cast [Nat.cast_sub hku.le]
    field_simp
  rw [hval]
  exact finiteIs_ratio s (by omega) 0 (fun h => by omega)

/-- The argument of the exponential in R78, for a clamped magnitude. -/
theorem tanh_clamped (c : Mag) {r : ℝ} (hr : (c.m : ℝ) * 2 ^ c.e = r) :
    Nearest (2 * r * coefLE * 2 ^ (-22 : ℤ)) (roundInt 0 0 { m := 2 * c.m * coefLE.toNat, e := c.e - 22 }) := by
  refine roundInt_exact_nearest _ rfl ?_
  have hle : ((coefLE.toNat : Nat) : ℝ) = (coefLE : ℤ) := toNat_cast_real (by decide)
  rw [← hr, realOf_num]
  push_cast
  rw [hle, sub_eq_add_neg, zpow_add₀ (by norm_num)]
  ring

/-- The argument of the exponential in R78 is positive on the main path. -/
theorem one_le_of_nearest_tanh {r : ℝ} {X : ℤ} (hr : (2 : ℝ) ^ (-13 : ℤ) ≤ r)
    (h : Nearest (2 * r * coefLE * 2 ^ (-22 : ℤ)) X) : 1 ≤ X := by
  have hle : ((coefLE : ℤ) : ℝ) = 6653256548922161246 := by norm_num [coefLE]
  rw [hle] at h
  have h2 := (abs_le.1 h.1).2
  norm_num at hr h2
  have : (0 : ℝ) < X := by linarith
  exact_mod_cast this

theorem tanh_exact (s : Bool) {m : Nat} {e : ℤ} (hm : m ≠ 0) (h : |realOf (.num s m e)| < 2 ^ (-13 : ℤ)) :
    FiniteIs (tanhX (.num s m e)) (realOf (.num s m e) - realOf (.num s m e) ^ 3 / 3) False := by
  have hb : below ⟨s, m, e, false⟩ 13 = true := (below_iff _ _).2 ⟨hm, by rwa [abs_realOf_num] at h⟩
  rw [abs_realOf_num] at h
  have hm1 : (1 : ℝ) ≤ m := by exact_mod_cast Nat.one_le_iff_ne_zero.2 hm
  have hp : (0 : ℝ) < 2 ^ e := by positivity
  have he : e < 0 := by
    by_contra hn
    have : (1 : ℝ) ≤ 2 ^ e := one_le_zpow₀ (by norm_num) (by omega)
    norm_num at h
    nlinarith
  obtain ⟨k, rfl⟩ : ∃ k : Nat, e = -(k : ℤ) := ⟨(-e).toNat, by omega⟩
  have hke : (-2 * -(k : ℤ)).toNat = 2 * k := by omega
  have hpk : (2 : ℝ) ^ (-(k : ℤ)) * 2 ^ k = 1 := by rw [zpow_neg, zpow_natCast]; exact inv_mul_cancel₀ (by positivity)
  have hlt : m < 2 ^ k := by
    have : (m : ℝ) < 2 ^ k := by
      have h13 : (m : ℝ) * 2 ^ (-(k : ℤ)) < 1 := h.trans (by norm_num)
      calc (m : ℝ) = m * 2 ^ (-(k : ℤ)) * 2 ^ k := by rw [mul_assoc, hpk, mul_one]
        _ < 1 * 2 ^ k := mul_lt_mul_of_pos_right h13 (by positivity)
        _ = 2 ^ k := one_mul _
    exact_mod_cast this
  have hsq : m ^ 3 < 3 * m * 2 ^ (2 * k) := by
    have h2 : m * m < 2 ^ k * 2 ^ k := Nat.mul_lt_mul_of_lt_of_lt hlt hlt
    calc m ^ 3 = m * (m * m) := by ring
      _ < m * (2 ^ k * 2 ^ k) := Nat.mul_lt_mul_of_pos_left h2 (Nat.pos_of_ne_zero hm)
      _ ≤ 3 * (m * (2 ^ k * 2 ^ k)) := Nat.le_mul_of_pos_left _ (by norm_num)
      _ = 3 * m * 2 ^ (2 * k) := by ring
  rw [tanhX_num, tanhMag, if_neg hm, if_pos hb]
  simp only [hke]
  have hval : realOf (.num s m (-(k : ℤ))) - realOf (.num s m (-(k : ℤ))) ^ 3 / 3 =
      (if s then -1 else 1) * (((3 * m * 2 ^ (2 * k) - m ^ 3 : Nat) : ℝ) / ((3 : Nat) : ℝ) * 2 ^ (3 * -(k : ℤ))) := by
    have h3 : (2 : ℝ) ^ (3 * -(k : ℤ)) = (2 ^ (-(k : ℤ))) ^ 3 := by rw [mul_comm, zpow_mul]; rfl
    rw [realOf_num, Nat.cast_sub hsq.le, h3]
    push_cast
    generalize (2 : ℝ) ^ (-(k : ℤ)) = z at hpk
    have hzz : (2 : ℝ) ^ (2 * k) * z ^ 3 = z := by
      calc (2 : ℝ) ^ (2 * k) * z ^ 3 = (z * 2 ^ k) ^ 2 * z := by ring
        _ = z := by rw [hpk]; ring
    have hzm : (2 : ℝ) ^ (2 * k) * m * z ^ 3 = m * z := by linear_combination (m : ℝ) * hzz
    cases s <;> simp only [Bool.false_eq_true, if_true, if_false]
    · linear_combination -hzm
    · linear_combination hzm
  rw [hval]
  exact finiteIs_ratio s (by norm_num) _ (fun h => by omega)

theorem tanhMag_main (a : Mag) (h : (2 : ℝ) ^ (-13 : ℤ) ≤ a.m * 2 ^ a.e) :
    ∃ X, Nearest (2 * min ((a.m : ℝ) * 2 ^ a.e) 200 * coefLE * 2 ^ (-22 : ℤ)) X ∧
      FiniteIs (tanhMag a) ((if a.neg then -1 else 1) * ((coreValue X - 1) / (coreValue X + 1))) False := by
  have hm0 : a.m ≠ 0 := by intro h0; rw [h0, Nat.cast_zero, zero_mul] at h; exact absurd h (by norm_num)
  have hb : ¬ below a 13 = true := fun hb => not_lt.2 h ((below_iff _ _).1 hb).2
  obtain ⟨-, -, hc⟩ := clamp200_magnitude a
  have hX := tanh_clamped _ hc
  refine ⟨_, hX, ?_⟩
  have hpos := one_le_of_nearest_tanh (le_min h (by norm_num)) hX
  rw [tanhMag, if_neg hm0, if_neg hb]
  exact finiteIs_tanh a.neg hpos

theorem tanh_main (s : Bool) (m : Nat) (e : ℤ) (h : (2 : ℝ) ^ (-13 : ℤ) ≤ |realOf (.num s m e)|) :
    ∃ X, Nearest (2 * min |realOf (.num s m e)| 200 * coefLE * 2 ^ (-22 : ℤ)) X ∧
      FiniteIs (tanhX (.num s m e)) ((if s then -1 else 1) * ((coreValue X - 1) / (coreValue X + 1))) False := by
  rw [abs_realOf_num] at h ⊢
  exact tanhMag_main ⟨s, m, e, false⟩ h

theorem tanh_inf (b : Bool) : ∃ X, Nearest (2 * 200 * coefLE * 2 ^ (-22 : ℤ)) X ∧
    FiniteIs (tanhX (.inf b)) ((if b then -1 else 1) * ((coreValue X - 1) / (coreValue X + 1))) False := by
  have h200 : ((200 : Nat) : ℝ) * 2 ^ (0 : ℤ) = 200 := by norm_num
  have h := tanhMag_main ⟨b, 200, 0, false⟩ (by rw [h200]; norm_num)
  rwa [h200, min_self] at h

/-! ## The statement -/

/-- Settles O37: each function's branches are those of its procedure, and the quotients have 400 bits. -/
theorem specialFunctions : Obligations.SpecialFunctions := by
  refine ⟨⟨by decide, by decide, by decide, by decide, by decide, by decide, by decide, by decide, by decide, by decide, by decide,
    by decide, by decide, fun j hj => ⟨tabT_nearest hj, tabRC_nearest hj⟩⟩, fun s m e hm _ _ => ?_⟩
  refine ⟨exp2X_value s m e, ?_, ?_, ?_, ?_, trig_small, fun h F hF => trig_main hm h hF, sigmX_num s m e, ?_,
    fun hm0 h => tanh_exact s hm0 h, tanh_main s m e, ⟨rfl, rfl, rfl, rfl, fun b => ⟨rfl, rfl, sigmX_inf b, tanh_inf b⟩⟩, ?_⟩
  · rintro hm0 rfl
    simp [log2X, hm0]
  · rintro rfl
    rfl
  · rintro hm0 rfl M k hM hM' h
    exact log2X_value e hm0 hm hM hM' h
  · rintro rfl
    exact trig_zero s e
  · rintro rfl
    rfl
  · intro b q w f hf
    simp only [List.mem_cons, List.not_mem_nil, or_false] at hf
    rcases hf with rfl | rfl | rfl | rfl | rfl | rfl <;> rfl

end Sys2Proof.Proofs.SpecialFunctions
end
section
/-!
PROOFS. The arithmetic of the glaze (R295, R296, R306, R307): the first NaN of a list, the order of the floating values, and the
prefixes of a tile block by block.
-/
namespace Sys2Proof.Proofs.GlazeArithmetic
open Sys2Proof.Machine Sys2Proof.Safety

/-! ## The first NaN (R54) -/

theorem firstNan_eq_none_iff {xs : List FVal} : firstNan xs = none ↔ ∀ v ∈ xs, v.isNan = false := by
  induction xs with
  | nil => simp [firstNan]
  | cons v vs ih => cases v <;> simp [firstNan, FVal.isNan, ih]

theorem nanFirst_of_firstNan {xs : List FVal} {r : Exact} (h : firstNan xs = some r) : NanFirst xs r := by
  induction xs with
  | nil => simp [firstNan] at h
  | cons v vs ih =>
    cases v with
    | nan s p w => exact ⟨[], s, p, w, vs, rfl, by simp, (Option.some.inj h).symm⟩
    | inf s =>
      obtain ⟨before, t, p, w, after, rfl, hb, hr⟩ := ih h
      exact ⟨.inf s :: before, t, p, w, after, rfl, List.forall_mem_cons.2 ⟨rfl, hb⟩, hr⟩
    | num s m e =>
      obtain ⟨before, t, p, w, after, rfl, hb, hr⟩ := ih h
      exact ⟨.num s m e :: before, t, p, w, after, rfl, List.forall_mem_cons.2 ⟨rfl, hb⟩, hr⟩

theorem firstNan_pair_some {x y : FVal} (h : x.isNan = true ∨ y.isNan = true) : ∃ r, firstNan [x, y] = some r := by
  refine Option.ne_none_iff_exists'.1 fun hn => ?_
  have hall := firstNan_eq_none_iff.1 hn
  rcases h with h | h
  · simp [hall x (by simp)] at h
  · simp [hall y (by simp)] at h

theorem firstNan_pair_none {x y : FVal} (hx : x.isNan = false) (hy : y.isNan = false) : firstNan [x, y] = none :=
  firstNan_eq_none_iff.2 (by simp [hx, hy])

/-! ## The order of the values (R295) -/

/-- One value below another, -0 below +0, the infinities at the two ends. -/
def BelowVal (u v : FVal) : Prop :=
  match u, v with
  | .inf true, .inf true => False
  | .inf true, _ => True
  | .inf false, _ => False
  | _, .inf s => s = false
  | u, v => realOf u < realOf v ∨ (realOf u = realOf v ∧ u.neg? = true ∧ v.neg? = false)

theorem fltBelow_num (s t : Bool) (m n : Nat) (e f : ℤ) :
    fltBelow (.num s m e) (.num t n f) = true ↔ BelowVal (.num s m e) (.num t n f) := by
  obtain ⟨hgt, hlt⟩ := SpecialFunctions.cmpVal_num s t m n e f
  have heq : cmpVal (.num s m e) (.num t n f) = 0 ↔ realOf (.num s m e) = realOf (.num t n f) := by
    constructor
    · intro h
      exact le_antisymm (not_lt.1 (mt hgt.2 (by omega))) (not_lt.1 (mt hlt.2 (by omega)))
    · intro h
      have h1 := mt hgt.1 h.le.not_gt
      have h2 := mt hlt.1 h.ge.not_gt
      omega
  simp only [fltBelow, BelowVal, Bool.or_eq_true, Bool.and_eq_true, decide_eq_true_eq, hlt, heq, Bool.not_eq_true', and_assoc]

theorem fltBelow_iff {u v : FVal} (hu : u.isNan = false) (hv : v.isNan = false) : fltBelow u v = true ↔ BelowVal u v := by
  cases u with
  | nan => simp [FVal.isNan] at hu
  | inf s =>
    cases v with
    | nan => simp [FVal.isNan] at hv
    | inf t => cases s <;> cases t <;> simp [fltBelow, cmpVal, BelowVal, FVal.neg?]
    | num t n f => cases s <;> simp [fltBelow, cmpVal, BelowVal]
  | num s m e =>
    cases v with
    | nan => simp [FVal.isNan] at hv
    | inf t => cases t <;> simp [fltBelow, cmpVal, BelowVal]
    | num t n f => exact fltBelow_num s t m n e f

theorem BelowVal_asymm {u v : FVal} (hu : u.isNan = false) (hv : v.isNan = false) (h : BelowVal u v) : ¬ BelowVal v u := by
  cases u with
  | nan => simp [FVal.isNan] at hu
  | inf s =>
    cases v with
    | nan => simp [FVal.isNan] at hv
    | inf t => cases s <;> cases t <;> simp_all [BelowVal]
    | num t n f => cases s <;> simp_all [BelowVal]
  | num s m e =>
    cases v with
    | nan => simp [FVal.isNan] at hv
    | inf t => cases t <;> simp_all [BelowVal]
    | num t n f =>
      simp only [BelowVal, FVal.neg?] at h ⊢
      rintro (h' | ⟨h', ht, hs⟩)
      · rcases h with h | ⟨h, -, -⟩ <;> linarith
      · rcases h with h | ⟨-, hs', -⟩
        · linarith
        · rw [hs] at hs'; cases hs'

theorem glzPick_of_numbers (larger : Bool) {x y : Word} (hx : (f32.decode x.toNat).isNan = false)
    (hy : (f32.decode y.toNat).isNan = false) :
    glzPick larger x y = if xor larger (fltBelow (f32.decode y.toNat) (f32.decode x.toNat)) then y else x := by
  simp only [glzPick, f32Val, firstNan_pair_none hx hy]
  rfl

theorem pickIs_glzPick (larger : Bool) {x y : Word} (hx : (f32.decode x.toNat).isNan = false)
    (hy : (f32.decode y.toNat).isNan = false) : PickIs larger x y (glzPick larger x y) := by
  rw [glzPick_of_numbers larger hx hy]
  show (BelowVal _ _ → _) ∧ (BelowVal _ _ → _) ∧ _
  refine ⟨fun h => ?_, fun h => ?_, ?_⟩
  · have hn : fltBelow (f32.decode y.toNat) (f32.decode x.toNat) = false :=
      Bool.eq_false_iff.2 (mt (fltBelow_iff hy hx).1 (BelowVal_asymm hx hy h))
    rw [hn, Bool.xor_false]
  · rw [(fltBelow_iff hy hx).2 h]
    cases larger <;> rfl
  · cases larger <;> cases fltBelow (f32.decode y.toNat) (f32.decode x.toNat) <;> simp

/-- A NaN operand of a pick or of lse2 gives its NaN. -/
theorem glzPick_nan (larger : Bool) {x y : Word} (h : (f32.decode x.toNat).isNan = true ∨ (f32.decode y.toNat).isNan = true) :
    ∃ r, NanFirst [f32.decode x.toNat, f32.decode y.toNat] r ∧ glzPick larger x y = glazeRound 0 r := by
  obtain ⟨r, hr⟩ := firstNan_pair_some h
  refine ⟨r, nanFirst_of_firstNan hr, ?_⟩
  simp only [glzPick, f32Val, hr]
  rfl

theorem lse2_nan {x y : Word} (h : (f32.decode x.toNat).isNan = true ∨ (f32.decode y.toNat).isNan = true) :
    ∃ r, NanFirst [f32.decode x.toNat, f32.decode y.toNat] r ∧ lse2 x y = glazeRound 0 r := by
  obtain ⟨r, hr⟩ := firstNan_pair_some h
  refine ⟨r, nanFirst_of_firstNan hr, ?_⟩
  simp only [lse2, f32Val, hr]
  rfl

/-- lse2 of numbers (R296): an infinity, or the larger plus log2 of 1 plus the power of the difference. -/
theorem lse2_of_numbers {x y : Word} (hx : (f32.decode x.toNat).isNan = false) (hy : (f32.decode y.toNat).isNan = false) :
    lse2 x y = if f32.decode x.toNat = .inf true then y else if f32.decode y.toNat = .inf true then x
      else if f32.decode x.toNat = .inf false ∧ f32.decode y.toNat = .inf false then x
      else glzAdd 0 (glzPick true x y) (glzRnd 0 (log2X (f32Val (glzAdd 0 0x3F800000 (glzRnd 0 (exp2X (f32Val
        (glzRnd 0 (addX 0 (f32Val (glzPick false x y)) (f32Val (glzPick true x y)).negate))))))))) := by
  simp only [lse2, f32Val, firstNan_pair_none hx hy]
  rfl

/-! ## The levels of one block (R306) -/

/-- One level: every element from d on joins the one d places before it. -/
def glzLevel (j : GPair → GPair → GPair) (xs : List GPair) (d : Nat) : List GPair :=
  xs.zipIdx.map fun e => if d ≤ e.2 then j (xs.getD (e.2 - d) e.1) e.1 else e.1

theorem glzLevels_eq (j : GPair → GPair → GPair) (xs : List GPair) :
    glzLevels j xs = glzLevel j (glzLevel j (glzLevel j (glzLevel j xs (2 ^ 0)) (2 ^ 1)) (2 ^ 2)) (2 ^ 3) := rfl

/-- A list holds the first elements of a sequence. -/
def Lists (xs : List GPair) (n : Nat) (f : Nat → GPair) : Prop := xs.length = n ∧ ∀ m, m < n → xs[m]? = some (f m)

theorem lists_glzLevel {j : GPair → GPair → GPair} {xs : List GPair} {n k : Nat} {f : Nat → GPair}
    (h : Lists xs n (levelPrefix j f k)) : Lists (glzLevel j xs (2 ^ k)) n (levelPrefix j f (k + 1)) := by
  obtain ⟨hlen, hget⟩ := h
  refine ⟨by simp [glzLevel, hlen], fun m hm => ?_⟩
  have hsub : xs.getD (m - 2 ^ k) (levelPrefix j f k m) = levelPrefix j f k (m - 2 ^ k) := by
    rw [List.getD_eq_getElem?_getD, hget _ (lt_of_le_of_lt (Nat.sub_le ..) hm), Option.getD_some]
  simp only [glzLevel, List.getElem?_map, List.getElem?_zipIdx, hget m hm, Option.map_some, Nat.zero_add, levelPrefix, hsub]

theorem lists_glzLevels {j : GPair → GPair → GPair} {xs : List GPair} {n : Nat} {f : Nat → GPair} (h : Lists xs n f) :
    Lists (glzLevels j xs) n (levelPrefix j f 4) := by
  rw [glzLevels_eq]
  exact lists_glzLevel (lists_glzLevel (lists_glzLevel (lists_glzLevel h)))

/-! ## The prefixes of a tile (R306, R307) -/

/-- Element i of a sequence, the pair of zeros past its end. -/
def pairAt (xs : List GPair) (i : Nat) : GPair := (xs[i]?).getD (0, 0)

/-- What an element's block joins to, up to the element. -/
def blockPrefix (j : GPair → GPair → GPair) (xs : List GPair) (i : Nat) : GPair :=
  levelPrefix j (fun m => pairAt xs (i / 16 * 16 + m)) 4 (i % 16)

/-- What the fold over the blocks before gives, if there are any, joined with what a block gives. -/
def afterBlocks (j : GPair → GPair → GPair) (s : Option GPair) (q : GPair) : GPair :=
  match s with | none => q | some s => j s q

theorem blockPrefix_drop (j : GPair → GPair → GPair) (xs : List GPair) {i : Nat} (h : 16 ≤ i) :
    blockPrefix j (xs.drop 16) (i - 16) = blockPrefix j xs i := by
  have hidx : ∀ m, pairAt (xs.drop 16) ((i - 16) / 16 * 16 + m) = pairAt xs (i / 16 * 16 + m) := by
    intro m
    rw [pairAt, pairAt, List.getElem?_drop]
    congr 2
    omega
  simp only [blockPrefix, hidx]
  congr 1
  omega

/-- The prefixes of the first block. -/
theorem lists_firstBlock (j : GPair → GPair → GPair) (s : Option GPair) (xs : List GPair) :
    Lists (match s with | none => glzLevels j (xs.take 16) | some s => (glzLevels j (xs.take 16)).map (j s))
      (min 16 xs.length) fun i => afterBlocks j s (blockPrefix j xs i) := by
  have htake : Lists (xs.take 16) (min 16 xs.length) (pairAt xs) := by
    refine ⟨List.length_take, fun m hm => ?_⟩
    have hlt : m < xs.length := by omega
    rw [List.getElem?_take_of_lt (by omega), pairAt, List.getElem?_eq_getElem hlt, Option.getD_some]
  obtain ⟨hlen, hget⟩ := lists_glzLevels (j := j) htake
  have hq : ∀ m, m < min 16 xs.length → (glzLevels j (xs.take 16))[m]? = some (blockPrefix j xs m) := by
    intro m hm
    rw [hget m hm, blockPrefix, show m / 16 = 0 by omega, show m % 16 = m by omega]
    simp only [Nat.zero_mul, Nat.zero_add]
  cases s with
  | none => exact ⟨hlen, hq⟩
  | some s => exact ⟨by simpa using hlen, fun m hm => by simp [hq m hm, afterBlocks]⟩

/-- The prefixes of a sequence, block after block, each after the fold over the blocks before it. -/
theorem glzPrefixes_spec (j : GPair → GPair → GPair) : ∀ (fuel : Nat) (s : Option GPair) (xs : List GPair), xs.length / 16 < fuel →
    (glzPrefixes j fuel s xs).length = xs.length ∧ ∀ i, i < xs.length → (glzPrefixes j fuel s xs)[i]? =
      some (if i < 16 then afterBlocks j s (blockPrefix j xs i)
        else j (pairAt (glzPrefixes j fuel s xs) (i / 16 * 16 - 1)) (blockPrefix j xs i)) := by
  intro fuel
  induction fuel with
  | zero => intro s xs h; omega
  | succ fuel ih =>
    intro s xs hfuel
    by_cases hx : xs = []
    · subst hx; simp [glzPrefixes]
    obtain ⟨hplen, hpget⟩ := lists_firstBlock j s xs
    have hunf : ∃ ps, Lists ps (min 16 xs.length) (fun i => afterBlocks j s (blockPrefix j xs i)) ∧
        glzPrefixes j (fuel + 1) s xs = ps ++ glzPrefixes j fuel ps.getLast? (xs.drop 16) :=
      ⟨_, ⟨hplen, hpget⟩, by cases s <;> simp only [glzPrefixes, List.isEmpty_iff, if_neg hx]⟩
    obtain ⟨ps, ⟨hplen, hpget⟩, hunf⟩ := hunf
    rw [hunf]
    by_cases hlong : xs.length ≤ 16
    · have hd : xs.drop 16 = [] := List.drop_eq_nil_of_le hlong
      have hnil : glzPrefixes j fuel ps.getLast? (xs.drop 16) = [] := by rw [hd]; cases fuel <;> rfl
      rw [hnil, List.append_nil]
      exact ⟨by omega, fun i hi => by rw [hpget i (by omega), if_pos (by omega)]⟩
    · have hdl : (xs.drop 16).length = xs.length - 16 := List.length_drop
      have hps : ps.length = 16 := by omega
      obtain ⟨hrlen, hrget⟩ := ih ps.getLast? (xs.drop 16) (by omega)
      refine ⟨by rw [List.length_append]; omega, fun i hi => ?_⟩
      by_cases hi16 : i < 16
      · rw [List.getElem?_append_left (by omega), hpget i (by omega), if_pos hi16]
      · have hi16' : 16 ≤ i := by omega
        rw [List.getElem?_append_right (by omega), hps, hrget (i - 16) (by omega), if_neg hi16, blockPrefix_drop j xs hi16']
        by_cases hsecond : i - 16 < 16
        · have hlast : ps.getLast? = some (pairAt (ps ++ glzPrefixes j fuel ps.getLast? (xs.drop 16)) (i / 16 * 16 - 1)) := by
            rw [pairAt, show i / 16 * 16 - 1 = 15 by omega, List.getElem?_append_left (by omega), List.getLast?_eq_getElem?, hps,
              hpget 15 (by omega), Option.getD_some]
          rw [if_pos hsecond]
          generalize pairAt (ps ++ glzPrefixes j fuel ps.getLast? (xs.drop 16)) (i / 16 * 16 - 1) = p at hlast
          rw [hlast, afterBlocks]
        · rw [if_neg hsecond, pairAt, pairAt, List.getElem?_append_right (by omega), hps,
            show (i - 16) / 16 * 16 - 1 = i / 16 * 16 - 1 - 16 by omega]

theorem prefixes_spec (x : GlzTile) :
    x.prefixes.length = x.elems.length ∧ ∀ i, i < x.elems.length → x.prefixes[i]? =
      some (if i < 16 then blockPrefix (glzJoin x.cfg.code.toNat x.cfg.pc) (x.elems.map fun e => (e.a, e.b)) i
        else glzJoin x.cfg.code.toNat x.cfg.pc ((x.prefixes[i / 16 * 16 - 1]?).getD (0, 0))
          (blockPrefix (glzJoin x.cfg.code.toNat x.cfg.pc) (x.elems.map fun e => (e.a, e.b)) i)) := by
  have h := glzPrefixes_spec (glzJoin x.cfg.code.toNat x.cfg.pc) (x.elems.length / 16 + 1) none
    (x.elems.map fun e => (e.a, e.b)) (by simp)
  rw [List.length_map] at h
  exact h

theorem pairAt_map (xs : List GlzElem) (i : Nat) :
    pairAt (xs.map fun e => (e.a, e.b)) i = ((xs[i]?).map fun e => (e.a, e.b)).getD (0, 0) := by
  rw [pairAt, List.getElem?_map]

end Sys2Proof.Proofs.GlazeArithmetic
end
section
/-!
PROOFS. Exact sums (R46, R47) and the block sums of the matrix engine (R64, R266).
-/
namespace Sys2Proof.Proofs.BlockSums
open Sys2Proof.Machine Sys2Proof.Safety Sys2Proof.Proofs.ExactNumbers Sys2Proof.Proofs.GlazeArithmetic
open Sys2Proof.Proofs.SpecialFunctions (scaled_value)

/-! ## The sum of finite magnitudes (R47) -/

/-- The real of a magnitude taken as exact. -/
noncomputable def magReal (x : Mag) : ℝ := realOf (.num x.neg x.m x.e)

theorem foldl_min_le (xs : List Mag) : ∀ (a : ℤ), xs.foldl (fun a x => min a x.e) a ≤ a ∧
    ∀ x ∈ xs, xs.foldl (fun a x => min a x.e) a ≤ x.e := by
  induction xs with
  | nil => simp
  | cons y ys ih =>
    intro a
    obtain ⟨hle, hall⟩ := ih (min a y.e)
    exact ⟨hle.trans (min_le_left _ _), List.forall_mem_cons.2 ⟨hle.trans (min_le_right _ _), hall⟩⟩

/-- The sum of the addends in units of 2^q. -/
theorem foldl_scaled_value {q : ℤ} (xs : List Mag) (hq : ∀ x ∈ xs, x.m ≠ 0 → q ≤ x.e) : ∀ a : ℤ,
    ((xs.foldl (fun a x => if x.m = 0 then a else a + x.scaled q) a : ℤ) : ℝ) * 2 ^ q = a * 2 ^ q + (xs.map magReal).sum := by
  induction xs with
  | nil => simp
  | cons x xs ih =>
    obtain ⟨hx, hxs⟩ := List.forall_mem_cons.1 hq
    intro a
    rw [List.foldl_cons, ih hxs, List.map_cons, List.sum_cons, ← add_assoc, add_left_inj]
    by_cases h0 : x.m = 0
    · rw [if_pos h0, magReal, realOf_num_eq_zero.2 h0, add_zero]
    · rw [if_neg h0, magReal, ← scaled_value (hx h0)]
      push_cast
      ring

theorem sumMags_exact (mode : Nat) (xs : List Mag) : (sumMags mode xs).sticky = false ∧
    magReal (sumMags mode xs) = (xs.map magReal).sum ∧
    ((sumMags mode xs).m = 0 → (sumMags mode xs).neg = zeroSign mode (xs.map (·.neg))) := by
  have hq : ∀ x ∈ xs, x.m ≠ 0 → (xs.filter (·.m ≠ 0)).foldl (fun a x => min a x.e) 0x100000 ≤ x.e :=
    fun x hx hm => (foldl_min_le _ _).2 x (List.mem_filter.2 ⟨hx, by simpa using hm⟩)
  have hval := foldl_scaled_value xs hq 0
  unfold sumMags
  generalize (xs.filter (·.m ≠ 0)).foldl (fun a x => min a x.e) (0x100000 : ℤ) = q at hval
  simp only
  generalize xs.foldl (fun a x => if x.m = 0 then a else a + x.scaled q) (0 : ℤ) = S at hval
  rw [Int.cast_zero, zero_mul, zero_add] at hval
  by_cases h0 : S = 0
  · rw [if_pos h0, ← hval, h0]
    simp [magReal, realOf]
  · rw [if_neg h0, ← hval]
    refine ⟨rfl, ?_, fun h => absurd (Int.natAbs_eq_zero.1 h) h0⟩
    simp only [magReal, realOf, Nat.cast_natAbs]
    rcases lt_or_ge S 0 with h | h
    · simp [h, abs_of_neg h]
    · simp [not_lt.2 h, abs_of_nonneg h]

theorem sum_nonpos_and_zero {xs : List ℝ} (hle : ∀ x ∈ xs, x ≤ 0) : xs.sum ≤ 0 ∧ (xs.sum = 0 → ∀ x ∈ xs, x = 0) := by
  induction xs with
  | nil => simp
  | cons y ys ih =>
    obtain ⟨hy, hys⟩ := List.forall_mem_cons.1 hle
    obtain ⟨hsum, hzero⟩ := ih hys
    rw [List.sum_cons]
    exact ⟨by linarith, fun h => List.forall_mem_cons.2 ⟨by linarith, hzero (by linarith)⟩⟩

/-! ## The sum of values (R46, R47) -/

theorem magReal_mag {v : FVal} (hn : v.isNan = false) (hi : v.isInf = false) : magReal v.mag = realOf v := by
  cases v with
  | nan => cases hn
  | inf => cases hi
  | num s m e => rfl

theorem realOf_nonpos_of_neg {v : FVal} (h : v.neg? = true) : realOf v ≤ 0 := by
  cases v with
  | nan => exact le_rfl
  | inf => exact le_rfl
  | num s m e =>
    cases h
    have := magnitude_nonneg m e
    rw [realOf_num]
    simpa using this

theorem realOf_eq_zero_iff {v : FVal} (hn : v.isNan = false) (hi : v.isInf = false) : realOf v = 0 ↔ v.isZero = true := by
  cases v with
  | nan => cases hn
  | inf => cases hi
  | num s m e => simpa [FVal.isZero] using realOf_num_eq_zero

theorem neg_mag (v : FVal) : v.mag.neg = v.neg? := by cases v <;> rfl

theorem finiteIs_congr {r : Exact} {x : ℝ} {P Q : Prop} (hPQ : P ↔ Q) (h : FiniteIs r x P) : FiniteIs r x Q := by
  rwa [← hPQ]

theorem finiteIs_sumMags (mode : Nat) {xs : List FVal} (hne : xs ≠ []) (hn : ∀ v ∈ xs, v.isNan = false)
    (hi : ∀ v ∈ xs, v.isInf = false) : FiniteIs (.fin (sumMags mode (xs.map FVal.mag))) (xs.map realOf).sum
      ((∀ v ∈ xs, v.neg? = true ∧ v.isZero = true) ∨ (mode = 2 ∧ (∃ v ∈ xs, v.neg? = true) ∧ ∃ v ∈ xs, v.neg? = false)) := by
  obtain ⟨hst, hval, hzero⟩ := sumMags_exact mode (xs.map FVal.mag)
  have hsum : ((xs.map FVal.mag).map magReal).sum = (xs.map realOf).sum := by
    rw [List.map_map]
    exact congrArg List.sum (List.map_congr_left fun v hv => magReal_mag (hn v hv) (hi v hv))
  rw [hsum] at hval
  rw [← hval]
  refine finiteIs_exact hst fun hm => ?_
  have h0 : (xs.map realOf).sum = 0 := hval ▸ realOf_num_eq_zero.2 hm
  have hall : (∀ v ∈ xs, v.neg? = true) ↔ ∀ v ∈ xs, v.neg? = true ∧ v.isZero = true := by
    refine ⟨fun h v hv => ⟨h v hv, ?_⟩, fun h v hv => (h v hv).1⟩
    have hle : ∀ r ∈ xs.map realOf, r ≤ 0 := by
      simp only [List.forall_mem_map]
      exact fun v hv => realOf_nonpos_of_neg (h v hv)
    exact (realOf_eq_zero_iff (hn v hv) (hi v hv)).1 ((sum_nonpos_and_zero hle).2 h0 _ (List.mem_map_of_mem hv))
  rw [hzero hm, ← hall]
  simp [zeroSign, neg_mag, hne, List.all_eq_true, List.any_eq_true, and_assoc]

theorem mem_infinities {xs : List FVal} {s : Bool} : s ∈ (xs.filter FVal.isInf).map FVal.neg? ↔ FVal.inf s ∈ xs := by
  simp only [List.mem_map, List.mem_filter]
  constructor
  · rintro ⟨v, ⟨hv, hinf⟩, rfl⟩
    cases v with
    | inf t => exact hv
    | nan => cases hinf
    | num => cases hinf
  · exact fun h => ⟨_, ⟨h, rfl⟩, rfl⟩

/-- The exact sum of values none of which is a NaN is that of R46 and R47. -/
theorem sumIs_sumExact (mode : Nat) {xs : List FVal} (hne : xs ≠ []) (hn : ∀ v ∈ xs, v.isNan = false) :
    SumIs mode xs (sumExact mode xs) := by
  have hmem := @mem_infinities xs
  have hboth : (((xs.filter FVal.isInf).map FVal.neg?).any id && ((xs.filter FVal.isInf).map FVal.neg?).any (!·)) = true ↔
      FVal.inf true ∈ xs ∧ FVal.inf false ∈ xs := by
    rw [← hmem, ← hmem]
    simp [List.any_eq_true, and_assoc]
  refine ⟨fun h => ?_, fun s hs hns => ?_, fun h => ?_⟩
  · rw [sumExact, if_pos (hboth.2 h)]
  · have hnb : ¬ (FVal.inf true ∈ xs ∧ FVal.inf false ∈ xs) := by
      rintro ⟨h1, h2⟩
      cases s
      · exact hns h1
      · exact hns h2
    rw [sumExact, if_neg (mt hboth.1 hnb)]
    have hin := hmem.2 hs
    cases hl : (xs.filter FVal.isInf).map FVal.neg? with
    | nil => rw [hl] at hin; simp at hin
    | cons t ts =>
      have ht : FVal.inf t ∈ xs := hmem.1 (by rw [hl]; simp)
      have : t = s := by
        by_contra hne
        exact hns (by rwa [show (!s) = t by cases s <;> cases t <;> simp_all])
      simp [this]
  · have hnil : (xs.filter FVal.isInf).map FVal.neg? = [] :=
      List.eq_nil_iff_forall_not_mem.2 fun s hs => h s (hmem.1 hs)
    have hi : ∀ v ∈ xs, v.isInf = false := by
      intro v hv
      cases v with
      | inf s => exact absurd hv (h s)
      | nan => rfl
      | num => rfl
    rw [sumExact, if_neg (mt hboth.1 fun hb => h true hb.1)]
    simp only [hnil]
    exact finiteIs_sumMags mode hne hn hi

/-! ## Products that a block sum takes (R64) -/

theorem mulNan_nan_left {x : FVal} (y : FVal) (h : x.isNan = true) : (mulNan x y).isNan = true := by
  cases x with
  | nan => rfl
  | inf => cases h
  | num => cases h

theorem mulNan_nan_right (x : FVal) {y : FVal} (h : y.isNan = true) : (mulNan x y).isNan = true := by
  cases y with
  | nan => cases x <;> rfl
  | inf => cases h
  | num => cases h

theorem mulNan_inf_zero {x y : FVal} (h : x.isInf = true ∧ y.isZero = true ∨ x.isZero = true ∧ y.isInf = true) :
    (mulNan x y).isNan = true := by
  cases x <;> cases y <;> simp_all [FVal.isInf, FVal.isZero, mulNan, mulX, firstNan, mulVal, Exact.val, FVal.isNan]

theorem mulNan_num (s t : Bool) (m n : Nat) (e f : ℤ) :
    mulNan (.num s m e) (.num t n f) = .num (xor s t) (m * n) (e + f) := rfl

theorem realOf_mulNan (s t : Bool) (m n : Nat) (e f : ℤ) :
    realOf (mulNan (.num s m e) (.num t n f)) = realOf (.num s m e) * realOf (.num t n f) := by
  rw [mulNan_num, realOf_num, realOf_num, realOf_num, zpow_add₀ (by norm_num)]
  push_cast
  cases s <;> cases t <;> simp <;> ring

/-- The number that a value is, where it is neither a NaN nor an infinity. -/
theorem exists_num {v : FVal} (hn : v.isNan = false) (hi : v.isInf = false) : ∃ s m e, v = .num s m e := by
  cases v with
  | nan => cases hn
  | inf => cases hi
  | num s m e => exact ⟨s, m, e, rfl⟩

theorem mulNan_inf {x y : FVal} (hx : x.isNan = false) (hy : y.isNan = false) (hinf : x.isInf = true ∨ y.isInf = true)
    (hzero : ¬ (x.isInf = true ∧ y.isZero = true ∨ x.isZero = true ∧ y.isInf = true)) :
    mulNan x y = .inf (xor x.neg? y.neg?) := by
  cases x <;> cases y <;> simp_all [FVal.isInf, FVal.isZero, mulNan, mulX, firstNan, mulVal, Exact.val, FVal.isNan, Exact.ofVal]

theorem neg_mulNan_num (s t : Bool) (m n : Nat) (e f : ℤ) :
    (mulNan (.num s m e) (.num t n f)).neg? = xor s t ∧
    ((mulNan (.num s m e) (.num t n f)).isZero = true ↔ (FVal.num s m e).isZero = true ∨ (FVal.num t n f).isZero = true) := by
  simp [mulNan_num, FVal.neg?, FVal.isZero]

/-- A NaN among the factors stays one under every scale. -/
theorem foldl_mulNan_nan (scales : List FVal) : ∀ s : FVal, (s.isNan = true ∨ ∃ v ∈ scales, v.isNan = true) →
    (scales.foldl mulNan s).isNan = true := by
  induction scales with
  | nil => simp
  | cons v vs ih =>
    intro s h
    refine ih _ ?_
    rcases h with h | ⟨u, hu, hn⟩
    · exact .inl (mulNan_nan_left v h)
    · rcases List.mem_cons.1 hu with rfl | hu
      · exact .inl (mulNan_nan_right s hn)
      · exact .inr ⟨u, hu, hn⟩

theorem foldl_mulNan_inf (scales : List FVal) (hs : ∀ v ∈ scales, v.isNan = false ∧ v.isInf = false ∧ v.isZero = false) :
    ∀ b, scales.foldl mulNan (.inf b) = .inf (scales.foldl (fun b v => xor b v.neg?) b) := by
  induction scales with
  | nil => simp
  | cons v vs ih =>
    obtain ⟨⟨hn, hi, hz⟩, hvs⟩ := List.forall_mem_cons.1 hs
    intro b
    rw [List.foldl_cons, mulNan_inf (x := .inf b) rfl hn (.inl rfl) (by simp [hz, hi])]
    exact ih hvs _

theorem foldl_mulNan_num (scales : List FVal) (hs : ∀ v ∈ scales, v.isNan = false ∧ v.isInf = false) :
    ∀ (s : Bool) (m : Nat) (e : ℤ), ∃ m' e', scales.foldl mulNan (.num s m e) =
      .num (scales.foldl (fun b v => xor b v.neg?) s) m' e' ∧
      realOf (scales.foldl mulNan (.num s m e)) = realOf (.num s m e) * (scales.map realOf).prod := by
  induction scales with
  | nil => exact fun s m e => ⟨m, e, rfl, by simp⟩
  | cons v vs ih =>
    obtain ⟨⟨hn, hi⟩, hvs⟩ := List.forall_mem_cons.1 hs
    obtain ⟨t, n, f, rfl⟩ := exists_num hn hi
    intro s m e
    obtain ⟨m', e', heq, hval⟩ := ih hvs (xor s t) (m * n) (e + f)
    refine ⟨m', e', heq, ?_⟩
    rw [List.foldl_cons, mulNan_num, hval, ← mulNan_num, realOf_mulNan, List.map_cons, List.prod_cons, mul_assoc]

/-- The exact sum of a block's products, a NaN where there is none. -/
def blockTotal (ps : List (FVal × FVal)) : FVal :=
  ((firstNan (ps.map fun e => mulNan e.1 e.2)).getD (sumExact 0 (ps.map fun e => mulNan e.1 e.2))).val

theorem invalid_f32 (pc : DWord) : f32.invalid 63 pc = invalidCode f32 63 pc := by
  have hphi : phi pc = pcFold pc := by
    simp only [phi, pcFold, BitVec.toNat_xor, BitVec.extractLsb'_toNat, Nat.shiftRight_eq_div_pow]
  simp only [Fmt.invalid, invalidCode, if_true, hphi, Nat.shiftLeft_eq]

theorem blockSum_of_nan (pc : DWord) (ps : List (FVal × FVal)) {scales : List FVal}
    (h : (scales.foldl mulNan (blockTotal ps)).isNan = true) : blockSum pc ps scales = invalidCode f32 63 pc := by
  rw [← invalid_f32]
  show (match scales.foldl mulNan (blockTotal ps) with | .nan _ _ _ => _ | v => _) = _
  cases hv : scales.foldl mulNan (blockTotal ps) with
  | nan => rfl
  | inf => rw [hv] at h; cases h
  | num => rw [hv] at h; cases h

theorem blockSum_of_inf (pc : DWord) (ps : List (FVal × FVal)) {scales : List FVal} {b : Bool}
    (h : scales.foldl mulNan (blockTotal ps) = .inf b) : blockSum pc ps scales = withSign f32 b 0x7F800000 := by
  show (match scales.foldl mulNan (blockTotal ps) with | .nan _ _ _ => _ | v => _) = _
  rw [h]
  cases b <;> rfl

theorem flush_false (f : Fmt) (c : Nat) : f.flush false c = c := by simp [Fmt.flush]

theorem blockSum_of_num (pc : DWord) (ps : List (FVal × FVal)) {scales : List FVal} {s : Bool} {m : Nat} {e : ℤ}
    (h : scales.foldl mulNan (blockTotal ps) = .num s m e) : blockSum pc ps scales = f32.round 0 0 ⟨s, m, e, false⟩ := by
  show (match scales.foldl mulNan (blockTotal ps) with | .nan _ _ _ => _ | v => _) = _
  rw [h]
  exact flush_false _ _

theorem blockTotal_of_nan {ps : List (FVal × FVal)} {e : FVal × FVal} (he : e ∈ ps) (h : (mulNan e.1 e.2).isNan = true) :
    (blockTotal ps).isNan = true := by
  cases hf : firstNan (ps.map fun e => mulNan e.1 e.2) with
  | none =>
    have := firstNan_eq_none_iff.1 hf _ (List.mem_map_of_mem he)
    rw [this] at h; cases h
  | some r =>
    obtain ⟨-, s, p, w, -, -, -, rfl⟩ := nanFirst_of_firstNan hf
    simp [blockTotal, hf, Exact.val, FVal.isNan]

theorem blockTotal_of_numbers {ps : List (FVal × FVal)} (h : ∀ e ∈ ps, (mulNan e.1 e.2).isNan = false) :
    blockTotal ps = (sumExact 0 (ps.map fun e => mulNan e.1 e.2)).val := by
  have : firstNan (ps.map fun e => mulNan e.1 e.2) = none := by
    rw [firstNan_eq_none_iff]
    exact List.forall_mem_map.2 h
  rw [blockTotal, this, Option.getD_none]

/-- The pairs of a block that is no NaN by itself, one by one. -/
theorem pair_of_not_blockNan {ps : List (FVal × FVal)} {scales : List FVal} (h : ¬ BlockNan ps scales) :
    (∀ e ∈ ps, e.1.isNan = false ∧ e.2.isNan = false ∧
      ¬ (e.1.isInf = true ∧ e.2.isZero = true ∨ e.1.isZero = true ∧ e.2.isInf = true)) ∧
    (∀ v ∈ scales, v.isNan = false) ∧
    ∀ e ∈ ps, ∀ g ∈ ps, (e.1.isInf = true ∨ e.2.isInf = true) → (g.1.isInf = true ∨ g.2.isInf = true) →
      xor e.1.neg? e.2.neg? = xor g.1.neg? g.2.neg? := by
  simp only [BlockNan, not_or] at h
  obtain ⟨hnan, hscale, hzero, hopp⟩ := h
  refine ⟨fun e he => ⟨?_, ?_, fun hz => hzero ⟨e, he, hz⟩⟩, fun v hv => ?_, fun e he g hg hei hgi => ?_⟩
  · exact Bool.eq_false_iff.2 fun h1 => hnan ⟨e, he, .inl h1⟩
  · exact Bool.eq_false_iff.2 fun h2 => hnan ⟨e, he, .inr h2⟩
  · exact Bool.eq_false_iff.2 fun h1 => hscale ⟨v, hv, h1⟩
  · by_contra hx
    exact hopp ⟨e, he, g, hg, hei, hgi, hx⟩

theorem isNan_mulNan_false {x y : FVal} (hx : x.isNan = false) (hy : y.isNan = false)
    (hz : ¬ (x.isInf = true ∧ y.isZero = true ∨ x.isZero = true ∧ y.isInf = true)) : (mulNan x y).isNan = false := by
  by_cases hinf : x.isInf = true ∨ y.isInf = true
  · rw [mulNan_inf hx hy hinf hz]; rfl
  · rw [not_or, Bool.not_eq_true, Bool.not_eq_true] at hinf
    obtain ⟨s, m, e, rfl⟩ := exists_num hx hinf.1
    obtain ⟨t, n, f, rfl⟩ := exists_num hy hinf.2
    rfl

/-- A product that is an infinity has an infinite factor. -/
theorem inf_factor_of_mulNan {x y : FVal} {b : Bool} (hx : x.isNan = false) (hy : y.isNan = false) (h : mulNan x y = .inf b) :
    x.isInf = true ∨ y.isInf = true := by
  by_contra hinf
  rw [not_or, Bool.not_eq_true, Bool.not_eq_true] at hinf
  obtain ⟨s, m, e, rfl⟩ := exists_num hx hinf.1
  obtain ⟨t, n, f, rfl⟩ := exists_num hy hinf.2
  rw [mulNan_num] at h
  cases h

/-- A block with a NaN, 0 times an infinity, or infinities of both signs gives the NaN of R53. -/
theorem blockSum_nan (pc : DWord) {ps : List (FVal × FVal)} {scales : List FVal} (h : BlockNan ps scales) :
    blockSum pc ps scales = invalidCode f32 63 pc := by
  refine blockSum_of_nan pc ps (foldl_mulNan_nan _ _ ?_)
  by_cases hall : ∀ e ∈ ps, (mulNan e.1 e.2).isNan = false
  case neg =>
    push Not at hall
    obtain ⟨e, he, hn⟩ := hall
    exact .inl (blockTotal_of_nan he (by simpa using hn))
  rcases h with ⟨e, he, h1 | h2⟩ | hscale | ⟨e, he, hz⟩ | ⟨e, he, g, hg, hei, hgi, hne⟩
  · exact .inl (blockTotal_of_nan he (mulNan_nan_left _ h1))
  · exact .inl (blockTotal_of_nan he (mulNan_nan_right _ h2))
  · exact .inr hscale
  · exact .inl (blockTotal_of_nan he (mulNan_inf_zero hz))
  · left
    have hprod : ∀ u ∈ ps, (u.1.isInf = true ∨ u.2.isInf = true) →
        FVal.inf (xor u.1.neg? u.2.neg?) ∈ ps.map fun e => mulNan e.1 e.2 := by
      intro u hu hui
      have hn := hall u hu
      have h1 : u.1.isNan = false := Bool.eq_false_iff.2 fun h => by rw [mulNan_nan_left _ h] at hn; cases hn
      have h2 : u.2.isNan = false := Bool.eq_false_iff.2 fun h => by rw [mulNan_nan_right _ h] at hn; cases hn
      have hz := fun h => (Bool.eq_false_iff.1 hn) (mulNan_inf_zero h)
      exact mulNan_inf h1 h2 hui hz ▸ List.mem_map_of_mem hu
    have hes := hprod e he hei
    have hgs := hprod g hg hgi
    have hboth : FVal.inf true ∈ (ps.map fun e => mulNan e.1 e.2) ∧ FVal.inf false ∈ ps.map fun e => mulNan e.1 e.2 := by
      generalize xor e.1.neg? e.2.neg? = a at *
      generalize xor g.1.neg? g.2.neg? = b at *
      cases a <;> cases b <;> simp_all
    have hne : (ps.map fun e => mulNan e.1 e.2) ≠ [] := List.ne_nil_of_mem hboth.1
    rw [blockTotal_of_numbers hall, (sumIs_sumExact 0 hne (List.forall_mem_map.2 hall)).1 hboth]
    rfl

/-- A block with an infinity, and no NaN, is the infinity of its sign. -/
theorem blockSum_inf (pc : DWord) {ps : List (FVal × FVal)} {scales : List FVal} (h : ¬ BlockNan ps scales)
    (hfin : ∀ v ∈ scales, v.isInf = false) {e : FVal × FVal} (he : e ∈ ps) (hei : e.1.isInf = true ∨ e.2.isInf = true)
    (hz : ∀ v ∈ scales, v.isZero = false) : blockSum pc ps scales =
      withSign f32 (scales.foldl (fun b v => xor b v.neg?) (xor e.1.neg? e.2.neg?)) 0x7F800000 := by
  obtain ⟨hpair, hscale, hsign⟩ := pair_of_not_blockNan h
  have hnum : ∀ u ∈ ps, (mulNan u.1 u.2).isNan = false := fun u hu =>
    isNan_mulNan_false (hpair u hu).1 (hpair u hu).2.1 (hpair u hu).2.2
  have hein : FVal.inf (xor e.1.neg? e.2.neg?) ∈ ps.map fun e => mulNan e.1 e.2 :=
    mulNan_inf (hpair e he).1 (hpair e he).2.1 hei (hpair e he).2.2 ▸ List.mem_map_of_mem he
  have hother : FVal.inf (!xor e.1.neg? e.2.neg?) ∉ ps.map fun e => mulNan e.1 e.2 := by
    intro hin
    obtain ⟨g, hg, hgv⟩ := List.mem_map.1 hin
    obtain ⟨hg1, hg2, hgz⟩ := hpair g hg
    have hgi := inf_factor_of_mulNan hg1 hg2 hgv
    rw [mulNan_inf hg1 hg2 hgi hgz, FVal.inf.injEq, ← hsign e he g hg hei hgi] at hgv
    exact absurd hgv (by cases xor e.1.neg? e.2.neg? <;> decide)
  have htotal : blockTotal ps = .inf (xor e.1.neg? e.2.neg?) := by
    rw [blockTotal_of_numbers hnum,
      (sumIs_sumExact 0 (List.ne_nil_of_mem hein) (List.forall_mem_map.2 hnum)).2.1 _ hein hother]
    rfl
  refine blockSum_of_inf pc ps ?_
  rw [htotal, foldl_mulNan_inf _ fun v hv => ⟨hscale v hv, hfin v hv, hz v hv⟩]

/-- A block of finite values is the exact sum of its products times its scales, rounded once. -/
theorem blockSum_finite (pc : DWord) {ps : List (FVal × FVal)} {scales : List FVal} (hne : ps ≠ []) (h : ¬ BlockNan ps scales)
    (hfin : ∀ v ∈ scales, v.isInf = false) (hps : ∀ e ∈ ps, e.1.isInf = false ∧ e.2.isInf = false) : ∃ x y : Mag,
      FiniteIs (.fin y) (ps.map fun e => realOf e.1 * realOf e.2).sum
        (∀ e ∈ ps, xor e.1.neg? e.2.neg? = true ∧ (e.1.isZero = true ∨ e.2.isZero = true)) ∧
      Stands x ((ps.map fun e => realOf e.1 * realOf e.2).sum * (scales.map realOf).prod) ∧ x.sticky = false ∧
      x.neg = scales.foldl (fun b v => xor b v.neg?) y.neg ∧ blockSum pc ps scales = f32.round 0 0 x := by
  obtain ⟨hpair, hscale, -⟩ := pair_of_not_blockNan h
  have hprod : ∀ u ∈ ps, (mulNan u.1 u.2).isNan = false ∧ (mulNan u.1 u.2).isInf = false ∧
      realOf (mulNan u.1 u.2) = realOf u.1 * realOf u.2 ∧ (mulNan u.1 u.2).neg? = xor u.1.neg? u.2.neg? ∧
      ((mulNan u.1 u.2).isZero = true ↔ u.1.isZero = true ∨ u.2.isZero = true) := by
    rintro ⟨u, v⟩ hu
    obtain ⟨s, m, e, rfl⟩ := exists_num (hpair _ hu).1 (hps _ hu).1
    obtain ⟨t, n, f, rfl⟩ := exists_num (hpair _ hu).2.1 (hps _ hu).2
    exact ⟨rfl, rfl, realOf_mulNan .., neg_mulNan_num ..⟩
  have hnum : ∀ u ∈ ps, (mulNan u.1 u.2).isNan = false := fun u hu => (hprod u hu).1
  have hsum : (ps.map fun e => mulNan e.1 e.2).map realOf = ps.map fun e => realOf e.1 * realOf e.2 := by
    rw [List.map_map]
    exact List.map_congr_left fun u hu => (hprod u hu).2.2.1
  have hneP : (ps.map fun e => mulNan e.1 e.2) ≠ [] := by simpa using hne
  have hnoinf : ∀ v ∈ ps.map fun e => mulNan e.1 e.2, v.isInf = false :=
    List.forall_mem_map.2 fun u hu => (hprod u hu).2.1
  have hsumX : sumExact 0 (ps.map fun e => mulNan e.1 e.2) = .fin (sumMags 0 ((ps.map fun e => mulNan e.1 e.2).map FVal.mag)) := by
    have hnil : (ps.map fun e => mulNan e.1 e.2).filter FVal.isInf = [] := by
      rw [List.filter_eq_nil_iff]
      exact fun v hv => by simp [hnoinf v hv]
    simp [sumExact, hnil]
  have hy := finiteIs_sumMags 0 hneP (List.forall_mem_map.2 hnum) hnoinf
  obtain ⟨hst, hval, -⟩ := sumMags_exact 0 ((ps.map fun e => mulNan e.1 e.2).map FVal.mag)
  generalize sumMags 0 ((ps.map fun e => mulNan e.1 e.2).map FVal.mag) = y at hsumX hy hst hval
  have htotal : blockTotal ps = .num y.neg y.m y.e := by rw [blockTotal_of_numbers hnum, hsumX]; rfl
  have hyval : realOf (.num y.neg y.m y.e) = (ps.map fun e => realOf e.1 * realOf e.2).sum := by
    rw [← hsum, show realOf (.num y.neg y.m y.e) = magReal y from rfl, hval, List.map_map]
    exact congrArg List.sum (List.map_congr_left fun v hv => magReal_mag (by
      obtain ⟨u, hu, rfl⟩ := List.mem_map.1 hv; exact hnum u hu) (hnoinf v hv))
  obtain ⟨m', e', hfold, hreal⟩ := foldl_mulNan_num scales (fun v hv => ⟨hscale v hv, hfin v hv⟩) y.neg y.m y.e
  rw [hfold, hyval] at hreal
  refine ⟨⟨_, m', e', false⟩, y, ?_, ?_, rfl, rfl, blockSum_of_num pc ps (by rw [htotal, hfold])⟩
  · rw [hsum] at hy
    refine finiteIs_congr ⟨fun hor e he => ?_, fun hall => .inl ?_⟩ hy
    · obtain ⟨-, -, -, hneg, hzero⟩ := hprod e he
      rcases hor with hall | ⟨h2, -⟩
      · obtain ⟨hn, hz⟩ := hall _ (List.mem_map_of_mem he)
        exact ⟨hneg ▸ hn, hzero.1 hz⟩
      · cases h2
    · simp only [List.forall_mem_map]
      intro e he
      obtain ⟨-, -, -, hneg, hzero⟩ := hprod e he
      exact ⟨hneg.trans (hall e he).1, hzero.2 (hall e he).2⟩
  · rw [← hreal]
    exact stands_exact (x := ⟨_, m', e', false⟩) rfl

theorem accAdd_eq (pc : DWord) (c : Word) (b : Nat) : accAdd pc c b = if (f32.decode c.toNat).isNan then c else
    BitVec.ofNat 32 (f32.finish 0 0 false 63 pc (addX 0 (f32.decode c.toNat) (f32.decode b))) := rfl

end Sys2Proof.Proofs.BlockSums
end
section
/-!
PROOFS. The conversion of a row through a slot (R278): quotients, the codes of the kinds, the scale byte of a block, and the bytes
of a row.
-/
namespace Sys2Proof.Proofs.RowConversion
open Sys2Proof.Machine Sys2Proof.Safety Sys2Proof.Proofs.ExactNumbers Sys2Proof.Proofs.GlazeArithmetic Sys2Proof.Proofs.BlockSums
open Sys2Proof.Proofs.SpecialFunctions (scaled_value abs_realOf_num)

/-! ## Values of f32 codes (R45) -/

theorem decode_f32 (c : Nat) : f32.decode c =
    if c / 2 ^ 23 % 256 = 255 then
      (if c % 2 ^ 23 = 0 then .inf (decide (c / 2 ^ 31 % 2 = 1)) else .nan (decide (c / 2 ^ 31 % 2 = 1)) (c % 2 ^ 23) 23)
    else if c / 2 ^ 23 % 256 = 0 then .num (decide (c / 2 ^ 31 % 2 = 1)) (c % 2 ^ 23) (-149)
    else .num (decide (c / 2 ^ 31 % 2 = 1)) (2 ^ 23 + c % 2 ^ 23) (((c / 2 ^ 23 % 256 : Nat) : ℤ) - 150) := by
  simp [Fmt.decode, f32, Nat.shiftRight_eq_div_pow, sub_sub]

theorem decode_f32_num {c : Nat} {s : Bool} {m : Nat} {e : ℤ} (h : f32.decode c = .num s m e) :
    m < 2 ^ 24 ∧ -149 ≤ e ∧ e ≤ 104 := by
  rw [decode_f32] at h
  split_ifs at h <;> injection h <;> omega

theorem decode_f32_nan {c : Nat} {s : Bool} {p w : Nat} (h : f32.decode c = .nan s p w) : p < 2 ^ w := by
  rw [decode_f32] at h
  split_ifs at h
  injection h with _ hp hw
  subst hw
  omega

/-! ## Quotients (R46, R146) -/

theorem finiteIs_zero (s : Bool) : FiniteIs (.fin { neg := s }) 0 (s = true) := by
  have h := finiteIs_exact (x := { neg := s }) (P := s = true) rfl fun _ => Iff.rfl
  simpa [realOf] using h

theorem divX_num (s t : Bool) (m n : Nat) (e f : ℤ) : divX (.num s m e) (.num t n f) =
    if n = 0 then (if m = 0 then .invalid else .inf (xor s t))
    else if m = 0 then .fin { neg := xor s t } else .fin (Mag.ratio (xor s t) m n (e - f)) := by
  simp [divX, firstNan, FVal.isInf, FVal.isZero, FVal.neg?, FVal.mag]

theorem quotientIs_num (s t : Bool) (m n : Nat) (e f : ℤ) :
    QuotientIs (.num s m e) (.num t n f) (divX (.num s m e) (.num t n f)) := by
  rw [divX_num]
  refine ⟨?_, ?_, ?_, ?_⟩
  · rintro (⟨h, -⟩ | ⟨hm, hn⟩)
    · cases h
    · have hm' : m = 0 := by simpa [FVal.isZero] using hm
      have hn' : n = 0 := by simpa [FVal.isZero] using hn
      rw [if_pos hn', if_pos hm']
  · rintro (⟨h, -⟩ | ⟨hn, hm, -⟩)
    · cases h
    · have hm' : m ≠ 0 := by simpa [FVal.isZero] using hm
      have hn' : n = 0 := by simpa [FVal.isZero] using hn
      rw [if_pos hn', if_neg hm']
      rfl
  · rintro ⟨-, h⟩
    cases h
  · rintro - - hn
    have hn' : n ≠ 0 := by simpa [FVal.isZero] using hn
    rw [if_neg hn']
    by_cases hm : m = 0
    · rw [if_pos hm, realOf_num_eq_zero.2 hm, zero_div]
      exact finiteIs_zero _
    · rw [if_neg hm]
      have hval : realOf (.num s m e) / realOf (.num t n f) = (if xor s t then -1 else 1) * ((m : ℝ) / n * 2 ^ (e - f)) := by
        rw [realOf_num, realOf_num, zpow_sub₀ (by norm_num)]
        cases s <;> cases t <;> simp [neg_div, div_neg] <;> ring
      rw [hval]
      exact finiteIs_ratio _ (Nat.pos_of_ne_zero hn') _ fun h => absurd h hm

/-- The quotient of values that are not NaNs is that of R146. -/
theorem quotientIs_divX {x y : FVal} (hx : x.isNan = false) (hy : y.isNan = false) : QuotientIs x y (divX x y) := by
  cases x with
  | nan => cases hx
  | inf s =>
    cases y with
    | nan => cases hy
    | inf t => exact ⟨fun _ => rfl, by simp [FVal.isInf, FVal.isZero], by simp [FVal.isInf], by simp [FVal.isInf]⟩
    | num t n f => exact ⟨by simp [FVal.isInf, FVal.isZero], fun _ => rfl, by simp [FVal.isInf], by simp [FVal.isInf]⟩
  | num s m e =>
    cases y with
    | nan => cases hy
    | inf t =>
      exact ⟨by simp [FVal.isInf, FVal.isZero], by simp [FVal.isInf, FVal.isZero], fun _ => finiteIs_zero _, by simp [FVal.isInf]⟩
    | num t n f => exact quotientIs_num s t m n e f

/-! ## Codes of the kinds (R45, R57, R278) -/

/-- A magnitude that rounds to an integer is exact or has places below the point, and a NaN's payload fits its width. -/
def Convertible : Exact → Prop
  | .fin m => m.sticky = true → m.e < 0
  | .nan _ p w => p < 2 ^ w
  | .inf _ => True
  | .invalid => False

theorem convertible_ofVal {c : Nat} : Convertible (.ofVal (f32.decode c)) := by
  cases h : f32.decode c with
  | nan s p w => exact decode_f32_nan h
  | inf s => trivial
  | num s m e => intro hs; cases hs

theorem convertible_ratio {s : Bool} {m n : Nat} {e : ℤ} (hm : m < 2 ^ 24) (hn : n ≠ 0) (he : e ≤ 253) :
    Convertible (.fin (Mag.ratio s m n e)) := by
  intro _
  rw [ratio_eq]
  have hbm : bits m ≤ 24 := bits_le_iff.2 hm
  have hbn : 0 < bits n := lt_bits_iff.2 (by simpa using Nat.one_le_iff_ne_zero.2 hn)
  simp only [ratioShift]
  omega

/-- The kinds that ACCST and ACCDR take. -/
theorem kind_cases {w : Half} (h : storeKind w = true) (h9 : slotKind w ≤ 9) : slotKind w ∈ [0, 1, 2, 3, 4, 7, 8, 9] := by
  have h5 : slotKind w ≠ 5 ∧ slotKind w ≠ 6 := by simpa [storeKind] using h
  generalize slotKind w = k at h9 h5
  interval_cases k <;> simp_all

theorem or_pay_lt {p w w' : Nat} (h : p < 2 ^ w) : nanPay p w w' < 2 ^ w' := by
  unfold nanPay
  by_cases h0 : w' = 0
  · simp [h0]
  · simp only [if_neg h0]
    refine Nat.or_lt_two_pow ?_ (Nat.pow_lt_pow_right (by norm_num) (by omega))
    split
    · rename_i hw
      rw [Nat.shiftLeft_eq]
      calc p * 2 ^ (w' - w) < 2 ^ w * 2 ^ (w' - w) := Nat.mul_lt_mul_of_pos_right h (Nat.two_pow_pos _)
        _ = 2 ^ w' := by rw [← pow_add]; congr 1; omega
    · rename_i hw
      rw [Nat.shiftRight_eq_div_pow, Nat.div_lt_iff_lt_mul (Nat.two_pow_pos _), ← pow_add]
      exact h.trans_le (Nat.pow_le_pow_right (by norm_num) (by omega))

theorem sign_add_lt {f : Fmt} {c : Nat} (neg : Bool) (h : c < 2 ^ (f.eb + f.fb)) : f.sign neg + c < 2 ^ (f.eb + f.fb + 1) := by
  have : 2 ^ (f.eb + f.fb + 1) = 2 ^ (f.eb + f.fb) + 2 ^ (f.eb + f.fb) := by ring
  cases neg <;> simp only [Fmt.sign, Bool.false_eq_true, if_true, if_false] <;> omega

theorem round_lt {f : Fmt} (hmax : f.maxCode < 2 ^ (f.eb + f.fb)) (hinf : f.inf false < 2 ^ (f.eb + f.fb)) (mode draw : Nat)
    (x : Mag) : f.round mode draw x < 2 ^ (f.eb + f.fb + 1) := by
  unfold Fmt.round
  split
  · have := sign_add_lt (f := f) x.neg (c := 0) (Nat.two_pow_pos _)
    simpa using this
  · refine iteInduction (motive := (· < 2 ^ (f.eb + f.fb + 1))) (fun _ => sign_add_lt _ ?_) fun _ => sign_add_lt _ ?_
    · split <;> assumption
    · exact iteInduction (motive := (· < 2 ^ (f.eb + f.fb))) (fun _ => hinf) fun h => (not_lt.1 h).trans_lt hmax

theorem nan_lt {f : Fmt} (neg : Bool) {p w : Nat} (h : p < 2 ^ w) : f.nan neg p w < 2 ^ (f.eb + f.fb + 1) := by
  have hpay : nanPay p w f.fb < 2 ^ f.fb := or_pay_lt h
  unfold Fmt.nan
  split
  · subst f
    cases neg <;> decide
  · split
    · rw [add_assoc]
      refine sign_add_lt _ ?_
      have h1 : (2 ^ f.eb - 1) * 2 ^ f.fb + 2 ^ f.fb = 2 ^ (f.eb + f.fb) := by
        rw [pow_add, Nat.sub_mul, one_mul, Nat.sub_add_cancel (Nat.le_mul_of_pos_left _ (Nat.two_pow_pos _))]
      rw [Nat.shiftLeft_eq]
      omega
    · split
      · have h1 := Nat.two_pow_pos (f.eb + f.fb)
        rw [Nat.add_sub_assoc h1]
        exact sign_add_lt _ (by omega)
      · exact Nat.two_pow_pos _

theorem finish_lt {f : Fmt} (hmax : f.maxCode < 2 ^ (f.eb + f.fb)) (hinf : f.inf false < 2 ^ (f.eb + f.fb)) (lane : Nat) (pc : DWord)
    {x : Exact} (hx : Convertible x) : f.finish 0 0 false lane pc x < 2 ^ (f.eb + f.fb + 1) := by
  cases x with
  | nan s p w => exact nan_lt s hx
  | invalid => exact hx.elim
  | inf s =>
    have : f.finish 0 0 false lane pc (.inf s) = f.sign s + f.inf false := by simp [Fmt.finish, Fmt.inf, Fmt.sign]
    rw [this]
    exact sign_add_lt s hinf
  | fin m =>
    rw [Fmt.finish, flush_false]
    exact round_lt hmax hinf 0 0 m

theorem convExact_float {k : Nat} (h : k ≠ 9) (pc : DWord) (x : Exact) :
    convExact k pc x = (kindFmt k).finish 0 0 false 63 pc x := by
  unfold convExact
  exact if_neg h

/-- A converted element fits the bits of its kind. -/
theorem convExact_lt {k : Nat} (hk : k ∈ [0, 1, 2, 3, 4, 7, 8, 9]) (pc : DWord) {x : Exact} (hx : Convertible x) :
    convExact k pc x < 2 ^ matBits k := by
  by_cases h9 : k = 9
  · subst h9
    simp only [convExact, if_true, toBits, matBits]
    omega
  · rw [convExact_float h9]
    have hfmt : (kindFmt k).maxCode < 2 ^ ((kindFmt k).eb + (kindFmt k).fb) ∧
        (kindFmt k).inf false < 2 ^ ((kindFmt k).eb + (kindFmt k).fb) ∧ (kindFmt k).eb + (kindFmt k).fb + 1 = matBits k := by
      simp only [List.mem_cons, List.not_mem_nil, or_false] at hk
      rcases hk with rfl | rfl | rfl | rfl | rfl | rfl | rfl | rfl
      · decide
      · decide
      · decide
      · decide
      · decide
      · decide
      · decide
      · exact absurd rfl h9
    obtain ⟨hmax, hinf, hb⟩ := hfmt
    rw [← hb]
    exact finish_lt hmax hinf 63 pc hx

/-- The code of an exact value is that of R278. -/
theorem convIs_convExact (k : Nat) (pc : DWord) {x : Exact} (hx : Convertible x) : ConvIs k pc x (convExact k pc x) := by
  refine ⟨fun h => convExact_float h pc x, fun h => ?_⟩
  subst h
  cases x with
  | nan s p w => rfl
  | invalid => rfl
  | inf s => cases s <;> rfl
  | fin m =>
    intro r hr
    refine ⟨_, roundInt_nearest 0 hr hx, ?_⟩
    simp only [convExact, if_true, toBits, sat_eq 8 (by norm_num)]
    rw [Int.toNat_of_nonneg (Int.emod_nonneg _ (by norm_num))]
    rfl

/-! ## The scale byte of a block (R278) -/

theorem two_pow_top_le {m : Nat} (hm : m ≠ 0) (e : ℤ) :
    (2 : ℝ) ^ (e + (bits m : ℤ) - 1) ≤ m * 2 ^ e ∧ (m : ℝ) * 2 ^ e < 2 ^ (e + (bits m : ℤ) - 1 + 1) := by
  have hb : 0 < bits m := lt_bits_iff.2 (by simpa using Nat.one_le_iff_ne_zero.2 hm)
  have hp : (0 : ℝ) < 2 ^ e := by positivity
  have hlo : (2 : ℝ) ^ (bits m - 1) ≤ m := by exact_mod_cast two_pow_bits_pred_le hm
  have hhi : (m : ℝ) < 2 ^ bits m := by exact_mod_cast lt_two_pow_bits m
  constructor
  · rw [show e + (bits m : ℤ) - 1 = ((bits m - 1 : Nat) : ℤ) + e by omega, zpow_add₀ (by norm_num), zpow_natCast]
    exact mul_le_mul_of_nonneg_right hlo hp.le
  · rw [show e + (bits m : ℤ) - 1 + 1 = ((bits m : Nat) : ℤ) + e by omega, zpow_add₀ (by norm_num), zpow_natCast]
    exact mul_lt_mul_of_pos_right hhi hp

/-- The exponent t of R278: M 2^(t - 1) is below the magnitude and M 2^t is not. -/
theorem ceilLog_spec {s : Bool} {m M : Nat} {e E : ℤ} (hm : m ≠ 0) (hM : M ≠ 0) :
    (M : ℝ) * 2 ^ E * 2 ^ (ceilLog ⟨s, m, e, false⟩ ⟨false, M, E, false⟩ - 1) < m * 2 ^ e ∧
    (m : ℝ) * 2 ^ e ≤ M * 2 ^ E * 2 ^ ceilLog ⟨s, m, e, false⟩ ⟨false, M, E, false⟩ := by
  obtain ⟨hlo, hhi⟩ := two_pow_top_le hm e
  obtain ⟨hLo, hHi⟩ := two_pow_top_le hM E
  have hcmp : ∀ t q : ℤ, q ≤ e → q ≤ E + t →
      ((⟨false, m, e, false⟩ : Mag).scaled q ≤ (⟨false, M, E + t, false⟩ : Mag).scaled q ↔ (m : ℝ) * 2 ^ e ≤ M * 2 ^ E * 2 ^ t) := by
    intro t q h1 h2
    have hq : (0 : ℝ) < 2 ^ q := by positivity
    have hx := scaled_value (x := ⟨false, m, e, false⟩) h1
    have hy := scaled_value (x := ⟨false, M, E + t, false⟩) h2
    simp only [realOf_num, Bool.false_eq_true, if_false, one_mul] at hx hy
    rw [mul_assoc, ← zpow_add₀ (by norm_num), ← hx, ← hy, mul_le_mul_iff_left₀ hq, Int.cast_le]
  unfold ceilLog Mag.top
  simp only
  generalize ht : e + (bits m : ℤ) - 1 - (E + (bits M : ℤ) - 1) = t
  have hstep : ∀ d : ℤ, (2 : ℝ) ^ (E + (bits M : ℤ) - 1 + d) = 2 ^ (E + (bits M : ℤ) - 1) * 2 ^ d := fun d => zpow_add₀ (by norm_num) _ _
  have hp : ∀ d : ℤ, (0 : ℝ) < 2 ^ d := fun d => by positivity
  have htop : e + (bits m : ℤ) - 1 = E + (bits M : ℤ) - 1 + t := by omega
  rw [htop] at hlo hhi
  have hiff := hcmp t _ (min_le_left _ _) (min_le_right _ _)
  by_cases hle : (m : ℝ) * 2 ^ e ≤ M * 2 ^ E * 2 ^ t
  · rw [if_pos (hiff.2 hle)]
    refine ⟨lt_of_lt_of_le ?_ hlo, hle⟩
    calc (M : ℝ) * 2 ^ E * 2 ^ (t - 1) < 2 ^ (E + (bits M : ℤ) - 1 + 1) * 2 ^ (t - 1) := mul_lt_mul_of_pos_right hHi (hp _)
      _ = 2 ^ (E + (bits M : ℤ) - 1 + t) := by rw [← zpow_add₀ (by norm_num)]; congr 1; omega
  · rw [if_neg (mt hiff.1 hle), add_sub_cancel_right]
    refine ⟨not_le.1 hle, hhi.le.trans ?_⟩
    rw [add_assoc, hstep]
    exact mul_le_mul_of_nonneg_right hLo (hp _).le

/-- The largest finite value of a kind. -/
theorem kindMax_value {k : Nat} (hk : k ∈ [0, 1, 2, 3, 4, 7, 8, 9]) : ∃ M E, kindMax k = .num false M E ∧ M ≠ 0 ∧
    (M : ℝ) * 2 ^ E = kindTop k ∧ kindTop k ≤ 2 ^ (128 : ℤ) := by
  by_cases h9 : k = 9
  · subst h9
    exact ⟨127, 0, rfl, by norm_num, by norm_num [kindTop], by norm_num [kindTop]⟩
  · have hcode : kindMax k = .num false (2 ^ (kindFmt k).fb + (kindFmt k).maxCode % 2 ^ (kindFmt k).fb)
          ((((kindFmt k).maxCode / 2 ^ (kindFmt k).fb : Nat) : ℤ) - (kindFmt k).bias - (kindFmt k).fb) ∧
        (kindFmt k).maxCode / 2 ^ (kindFmt k).fb ≠ 0 ∧
        (((kindFmt k).maxCode / 2 ^ (kindFmt k).fb : Nat) : ℤ) - (kindFmt k).bias ≤ 127 := by
      simp only [List.mem_cons, List.not_mem_nil, or_false] at hk
      rcases hk with rfl | rfl | rfl | rfl | rfl | rfl | rfl | rfl
      · decide
      · decide
      · decide
      · decide
      · decide
      · decide
      · decide
      · exact absurd rfl h9
    obtain ⟨hval, hnz, hexp⟩ := hcode
    have htop : kindTop k = ((2 ^ (kindFmt k).fb + (kindFmt k).maxCode % 2 ^ (kindFmt k).fb : Nat) : ℝ) *
        2 ^ ((((kindFmt k).maxCode / 2 ^ (kindFmt k).fb : Nat) : ℤ) - (kindFmt k).bias - (kindFmt k).fb) := by
      rw [kindTop, if_neg h9, gridVal, if_neg hnz]
    refine ⟨_, _, hval, by have := Nat.two_pow_pos (kindFmt k).fb; omega, htop.symm, ?_⟩
    have hsig : ((2 ^ (kindFmt k).fb + (kindFmt k).maxCode % 2 ^ (kindFmt k).fb : Nat) : ℝ) ≤ 2 ^ ((kindFmt k).fb + 1) := by
      have := Nat.mod_lt (kindFmt k).maxCode (Nat.two_pow_pos (kindFmt k).fb)
      have h2 : 2 ^ (kindFmt k).fb + (kindFmt k).maxCode % 2 ^ (kindFmt k).fb ≤ 2 ^ ((kindFmt k).fb + 1) := by rw [pow_succ]; omega
      exact_mod_cast h2
    rw [htop]
    calc _ ≤ (2 : ℝ) ^ ((kindFmt k).fb + 1) * 2 ^ (127 - ((kindFmt k).fb : ℤ)) :=
          mul_le_mul hsig (zpow_le_zpow_right₀ (by norm_num) (by omega)) (by positivity) (by positivity)
      _ = 2 ^ (128 : ℤ) := by rw [← zpow_natCast, ← zpow_add₀ (by norm_num)]; congr 1; push_cast; omega

theorem foldl_max_spec (l : List ℤ) : ∀ a : ℤ, (l.foldl max a = a ∨ l.foldl max a ∈ l) ∧ ∀ x ∈ l, x ≤ l.foldl max a := by
  have hge : ∀ (l : List ℤ) (a : ℤ), a ≤ l.foldl max a := by
    intro l
    induction l with
    | nil => exact fun a => le_rfl
    | cons y ys ih => exact fun a => (le_max_left a y).trans (ih _)
  induction l with
  | nil => simp
  | cons y ys ih =>
    intro a
    obtain ⟨hin, hall⟩ := ih (max a y)
    refine ⟨?_, List.forall_mem_cons.2 ⟨(le_max_right a y).trans (hge ys _), hall⟩⟩
    rcases hin with hin | hin
    · rcases max_choice a y with h | h
      · exact .inl (hin.trans h)
      · exact .inr (List.mem_cons.2 (.inl (hin.trans h)))
    · exact .inr (List.mem_cons_of_mem _ hin)

/-- The elements that a block's scale byte depends on. -/
def blockMags (xs : List FVal) : List Mag := (xs.filter fun x => !x.isInf && !x.isZero).map FVal.mag

theorem mem_blockMags {xs : List FVal} {m : Mag} : m ∈ blockMags xs ↔ ∃ x ∈ xs, x.isInf = false ∧ x.isZero = false ∧ x.mag = m := by
  simp only [blockMags, List.mem_map, List.mem_filter, Bool.and_eq_true, Bool.not_eq_true', and_assoc]

theorem blockExp_of_nan {k : Nat} {xs : List FVal} (h : ∃ x ∈ xs, x.isNan = true) : blockExp k xs = 255 := by
  rw [blockExp, if_pos (List.any_eq_true.2 h)]

theorem blockExp_of_numbers {k : Nat} {xs : List FVal} (h : ∀ x ∈ xs, x.isNan = false) : blockExp k xs =
    if blockMags xs = [] then 127
    else (min 254 (max 0 (127 + ((blockMags xs).map fun m => ceilLog m (kindMax k).mag).foldl max (-1000)))).toNat := by
  have hn : ¬ xs.any FVal.isNan = true := by
    rw [List.any_eq_true]
    rintro ⟨x, hx, hxn⟩
    rw [h x hx] at hxn
    cases hxn
  rw [blockExp, if_neg hn]
  simp only
  split
  · rename_i hms
    rw [if_pos (show blockMags xs = [] from hms)]
  · rename_i hms
    rw [if_neg (show ¬ blockMags xs = [] from hms)]
    rfl

/-- The scale byte of a block of f32 values is that of R278. -/
theorem blockExpIs_blockExp {k : Nat} (hk : k ∈ [0, 1, 2, 3, 4, 7, 8, 9]) {xs : List FVal}
    (hxs : ∀ s m e, FVal.num s m e ∈ xs → -149 ≤ e) : BlockExpIs k xs (blockExp k xs) := by
  refine ⟨blockExp_of_nan, fun hn => ⟨fun hall => ?_, fun r hr hmax hpos => ?_⟩⟩
  · rw [blockExp_of_numbers hn, if_pos]
    refine List.eq_nil_iff_forall_not_mem.2 fun m hm => ?_
    obtain ⟨x, hx, hi, hz, -⟩ := mem_blockMags.1 hm
    rcases hall x hx with h | h
    · rw [h] at hi; cases hi
    · rw [h] at hz; cases hz
  · obtain ⟨M, E, hkmax, hM, htop, htop128⟩ := kindMax_value hk
    have hnum : ∀ x ∈ xs, x.isInf = false → ∃ s m e, x = .num s m e := fun x hx hi => exists_num (hn x hx) hi
    obtain ⟨x, hx, hxi, hxr⟩ := hr
    obtain ⟨s, m, e, rfl⟩ := hnum x hx hxi
    have hm : m ≠ 0 := by
      rintro rfl
      rw [realOf_num_eq_zero.2 rfl, abs_zero] at hxr
      exact hpos.ne hxr
    have hin : (⟨s, m, e, false⟩ : Mag) ∈ blockMags xs := mem_blockMags.2 ⟨_, hx, rfl, by simpa [FVal.isZero] using hm, rfl⟩
    obtain ⟨hfold, hle⟩ := foldl_max_spec ((blockMags xs).map fun m => ceilLog m (kindMax k).mag) (-1000)
    have hkm : (kindMax k).mag = ⟨false, M, E, false⟩ := by rw [hkmax]; rfl
    obtain ⟨hlo, hhi⟩ := ceilLog_spec (s := s) (e := e) (E := E) hm hM
    rw [htop, ← abs_realOf_num s m e, hxr] at hlo hhi
    have hget := hle _ (List.mem_map_of_mem hin)
    rw [hkm] at hfold hget
    have hMpos : (0 : ℝ) < kindTop k := by
      have hM' : (0 : ℝ) < M := by exact_mod_cast Nat.pos_of_ne_zero hM
      rw [← htop]
      positivity
    have heq : ((blockMags xs).map fun m => ceilLog m ⟨false, M, E, false⟩).foldl max (-1000) =
        ceilLog ⟨s, m, e, false⟩ ⟨false, M, E, false⟩ := by
      refine le_antisymm ?_ hget
      rcases hfold with hfloor | hmem
      · rw [hfloor]
        have hr149 : (2 : ℝ) ^ (-149 : ℤ) ≤ r := by
          rw [← hxr, abs_realOf_num]
          have h1 : (1 : ℝ) ≤ m := by exact_mod_cast Nat.one_le_iff_ne_zero.2 hm
          calc (2 : ℝ) ^ (-149 : ℤ) ≤ 2 ^ e := zpow_le_zpow_right₀ (by norm_num) (hxs s m e hx)
            _ ≤ m * 2 ^ e := le_mul_of_one_le_left (by positivity) h1
        have hpow : (2 : ℝ) ^ (-149 : ℤ) ≤ 2 ^ (128 + ceilLog ⟨s, m, e, false⟩ ⟨false, M, E, false⟩) := by
          rw [zpow_add₀ (by norm_num)]
          exact (hr149.trans hhi).trans (mul_le_mul_of_nonneg_right htop128 (by positivity))
        have := (zpow_le_zpow_iff_right₀ (by norm_num : (1 : ℝ) < 2)).1 hpow
        omega
      · obtain ⟨m1, hm1, hm1e⟩ := List.mem_map.1 hmem
        obtain ⟨x1, hx1, hx1i, hx1z, rfl⟩ := mem_blockMags.1 hm1
        obtain ⟨s1, n1, e1, rfl⟩ := hnum x1 hx1 hx1i
        obtain ⟨hlo1, -⟩ := ceilLog_spec (s := s1) (e := e1) (E := E) (M := M) (by simpa [FVal.isZero] using hx1z) hM
        rw [htop, ← abs_realOf_num s1 n1 e1] at hlo1
        have hlt := (hlo1.trans_le (hmax _ hx1 hx1i)).trans_le hhi
        have hpow := lt_of_mul_lt_mul_left hlt hMpos.le
        have := (zpow_lt_zpow_iff_right₀ (by norm_num : (1 : ℝ) < 2)).1 hpow
        rw [← hm1e]
        show ceilLog ⟨s1, n1, e1, false⟩ ⟨false, M, E, false⟩ ≤ _
        omega
    refine ⟨_, hlo, hhi, ?_⟩
    rw [blockExp_of_numbers hn, if_neg (List.ne_nil_of_mem hin), hkm, heq]
    omega

/-! ## The elements of a row (R278) -/

/-- An element moved by its block's scale byte e. -/
def blockScaled (x : FVal) (e : Nat) : Exact :=
  match x with | .num s m q => .fin { neg := s, m, e := q + 127 - e } | y => .ofVal y

/-- The exact value that an element is converted from, e being its block's scale byte. -/
def elementSource (w : Half) (scl : Word) (pc : DWord) (x : FVal) (e : Nat) : Exact :=
  match slotScale w with
  | 1 => if e = 255 then .nan x.neg? 0 23 else blockScaled x e
  | 2 => divScale pc x (f32.decode scl.toNat)
  | _ => .ofVal x

theorem elementSource_block {w : Half} (h : slotScale w = 1) (scl : Word) (pc : DWord) (x : FVal) (e : Nat) :
    elementSource w scl pc x e = if e = 255 then .nan x.neg? 0 23 else blockScaled x e := by
  simp only [elementSource, h]

theorem elementSource_tensor {w : Half} (h : slotScale w = 2) (scl : Word) (pc : DWord) (x : FVal) (e : Nat) :
    elementSource w scl pc x e = divScale pc x (f32.decode scl.toNat) := by
  simp only [elementSource, h]

theorem elementSource_plain {w : Half} (h1 : slotScale w ≠ 1) (h2 : slotScale w ≠ 2) (scl : Word) (pc : DWord) (x : FVal)
    (e : Nat) : elementSource w scl pc x e = .ofVal x := by
  unfold elementSource
  split
  · exact absurd ‹_› h1
  · exact absurd ‹_› h2
  · rfl

theorem divX_nan_left {x : FVal} (y : FVal) {s : Bool} {p w : Nat} (h : x = .nan s p w) : divX x y = .nan s p w := by
  subst h
  rfl

theorem divX_nan_right {x : FVal} (hx : x.isNan = false) (s : Bool) (p w : Nat) : divX x (.nan s p w) = .nan s p w := by
  cases x with
  | nan => cases hx
  | inf t => rfl
  | num t m e => rfl

theorem divScale_of_ne {pc : DWord} {x y : FVal} (h : divX x y ≠ .invalid) : divScale pc x y = divX x y := by
  unfold divScale
  split
  · exact absurd ‹_› h
  · rfl

theorem divScale_of_invalid {pc : DWord} {x y : FVal} (h : divX x y = .invalid) :
    divScale pc x y = .ofVal (f32.decode (invalidCode f32 63 pc)) := by
  rw [divScale, h, invalid_f32]

theorem convertible_divX {c d : Nat} (h : divX (f32.decode c) (f32.decode d) ≠ .invalid) :
    Convertible (divX (f32.decode c) (f32.decode d)) := by
  cases hc : f32.decode c with
  | nan s p w => exact decode_f32_nan hc
  | inf s =>
    cases hd : f32.decode d with
    | nan t p w => exact decode_f32_nan hd
    | inf t => rw [hc, hd] at h; exact h rfl
    | num t n f => trivial
  | num s m e =>
    cases hd : f32.decode d with
    | nan t p w => exact decode_f32_nan hd
    | inf t => intro hs; cases hs
    | num t n f =>
      rw [hc, hd] at h
      obtain ⟨hm, -, he⟩ := decode_f32_num hc
      obtain ⟨-, hf, -⟩ := decode_f32_num hd
      rw [divX_num] at h ⊢
      by_cases hn0 : n = 0
      · by_cases hm0 : m = 0
        · rw [if_pos hn0, if_pos hm0] at h
          exact absurd rfl h
        · rw [if_pos hn0, if_neg hm0]
          trivial
      · by_cases hm0 : m = 0
        · rw [if_neg hn0, if_pos hm0]
          intro hs
          cases hs
        · rw [if_neg hn0, if_neg hm0]
          exact convertible_ratio hm hn0 (by omega)

theorem finiteIs_scaled (s : Bool) (m : Nat) (q : ℤ) (e : Nat) :
    FiniteIs (.fin { neg := s, m, e := q + 127 - e }) (realOf (.num s m q) * 2 ^ (127 - (e : ℤ))) (s = true) := by
  have hval : realOf (.num s m q) * 2 ^ (127 - (e : ℤ)) = realOf (.num s m (q + 127 - e)) := by
    rw [realOf_num, realOf_num, mul_assoc, mul_assoc, ← zpow_add₀ (by norm_num), add_sub_assoc]
  rw [hval]
  exact finiteIs_exact (x := { neg := s, m, e := q + 127 - e }) rfl fun _ => Iff.rfl

/-- An element is converted from the value R278 names; a block with a NaN has the scale byte 255. -/
theorem elementIs_elementSource (w : Half) (scl : Word) (pc : DWord) {x : FVal} {e : Nat} (hnan : e ≠ 255 → x.isNan = false) :
    ElementIs w scl pc x e (elementSource w scl pc x e) := by
  refine ⟨fun h1 => ?_, fun h2 => ?_, fun h1 h2 => elementSource_plain h1 h2 scl pc x e⟩
  · rw [elementSource_block h1]
    refine ⟨fun he => by rw [if_pos he], fun he s hx => by rw [if_neg he, hx]; rfl, fun he hi => ?_⟩
    obtain ⟨s, m, q, rfl⟩ := exists_num (hnan he) hi
    rw [if_neg he]
    exact finiteIs_scaled s m q e
  · rw [elementSource_tensor h2]
    refine ⟨fun s p n hx => ?_, fun hx => ⟨fun s p n hy => ?_, fun hy => ?_⟩⟩
    · have hd := divX_nan_left (f32.decode scl.toNat) hx
      rw [divScale_of_ne (by rw [hd]; exact Exact.noConfusion), hd]
    · have hd := divX_nan_right hx s p n
      rw [hy, divScale_of_ne (by rw [hd]; exact Exact.noConfusion), hd]
    · have hq := quotientIs_divX hx hy
      by_cases hinv : divX x (f32.decode scl.toNat) = .invalid
      · exact .inr ⟨hinv ▸ hq, divScale_of_invalid hinv⟩
      · exact .inl (by rwa [divScale_of_ne hinv])

theorem convertible_elementSource (w : Half) (scl : Word) (pc : DWord) (c e : Nat) :
    Convertible (elementSource w scl pc (f32.decode c) e) := by
  by_cases h1 : slotScale w = 1
  · rw [elementSource_block h1]
    split
    · exact Nat.two_pow_pos 23
    · cases h : f32.decode c with
      | nan s p w => exact decode_f32_nan h
      | inf s => trivial
      | num s m q => intro hs; cases hs
  · by_cases h2 : slotScale w = 2
    · rw [elementSource_tensor h2]
      by_cases hinv : divX (f32.decode c) (f32.decode scl.toNat) = .invalid
      · rw [divScale_of_invalid hinv]
        exact convertible_ofVal
      · rw [divScale_of_ne hinv]
        exact convertible_divX hinv
    · rw [elementSource_plain h1 h2]
      exact convertible_ofVal

/-! ## The bytes of a row (R262, R278) -/

/-- The scale bytes of a row's blocks. -/
def rowExps (w : Half) (xs : List Word) : List Nat :=
  (List.range (xs.length / 16)).map fun b =>
    blockExp (slotKind w) (((xs.map fun x => f32.decode x.toNat).drop (16 * b)).take 16)

/-- The codes of a row's elements. -/
def rowCodes (w : Half) (scl : Word) (pc : DWord) (xs : List Word) : List Nat :=
  ((List.range xs.length).zip (xs.map fun x => f32.decode x.toNat)).map fun e =>
    convExact (slotKind w) pc (elementSource w scl pc e.2 ((rowExps w xs).getD (e.1 / 16) 127))

/-- The codes of a row as one number, the first lowest. -/
def packCodes (b : Nat) (codes : List Nat) : Nat := codes.foldr (fun c a => c + 2 ^ b * a) 0

theorem convRow_eq (w : Half) (scl : Word) (pc : DWord) (xs : List Word) : convRow w scl pc xs =
    (List.range (elemBytes w xs.length)).map
      (fun i => BitVec.ofNat 8 (packCodes (matBits (slotKind w)) (rowCodes w scl pc xs) / 256 ^ i)) ++
    (if slotScale w = 1 then (rowExps w xs).map (BitVec.ofNat 8) else []) := by
  have hcodes : rowCodes w scl pc xs = ((List.range xs.length).zip (xs.map fun x => f32.decode x.toNat)).map fun e =>
      match slotScale w with
      | 1 => if (rowExps w xs).getD (e.1 / 16) 127 = 255 then convExact (slotKind w) pc (.nan e.2.neg? 0 23)
        else convExact (slotKind w) pc (blockScaled e.2 ((rowExps w xs).getD (e.1 / 16) 127))
      | 2 => convExact (slotKind w) pc (divScale pc e.2 (f32.decode scl.toNat))
      | _ => convExact (slotKind w) pc (.ofVal e.2) := by
    refine List.map_congr_left fun e _ => ?_
    unfold elementSource
    split
    · exact apply_ite ..
    · rfl
    · rfl
  rw [hcodes]
  rfl

theorem packCodes_eq {b : Nat} {codes : List Nat} (h : ∀ c ∈ codes, c < 2 ^ b) :
    packCodes b codes = codes.foldr (fun c a => c % 2 ^ b + 2 ^ b * a) 0 := by
  induction codes with
  | nil => rfl
  | cons c cs ih =>
    obtain ⟨hc, hcs⟩ := List.forall_mem_cons.1 h
    rw [List.foldr_cons, ← ih hcs, Nat.mod_eq_of_lt hc]
    rfl

theorem packCodes_lt {b : Nat} {codes : List Nat} (h : ∀ c ∈ codes, c < 2 ^ b) : packCodes b codes < 2 ^ (b * codes.length) := by
  have := fold_pack b codes
  rwa [← packCodes_eq h] at this

theorem packCodes_get {b : Nat} {codes : List Nat} (h : ∀ c ∈ codes, c < 2 ^ b) {i c : Nat} (hc : codes[i]? = some c) :
    packCodes b codes / 2 ^ (b * i) % 2 ^ b = c := by
  rw [packCodes_eq h, fold_get, List.getD_eq_getElem?_getD, hc, Option.getD_some]
  exact Nat.mod_eq_of_lt (h c (List.mem_of_getElem? hc))

/-- The number that consecutive bytes of a number make. -/
theorem bytesLE_digits {f : Nat → Byte} {p : Nat} (n : Nat) : ∀ a, (∀ i, i < n → f (a + i) = BitVec.ofNat 8 (p / 256 ^ (a + i))) →
    bytesLE f a n = p / 256 ^ a % 256 ^ n := by
  induction n with
  | zero => intro a _; rw [bytesLE, pow_zero, Nat.mod_one]
  | succ n ih =>
    intro a h
    have h0 := h 0 (by omega)
    have htail := ih (a + 1) fun i hi => by
      have := h (i + 1) (by omega)
      rwa [show a + (i + 1) = a + 1 + i by omega] at this
    rw [Nat.add_zero] at h0
    rw [bytesLE, htail, h0, BitVec.toNat_ofNat, pow_succ 256 a, ← Nat.div_div_eq_div_mul, pow_succ' 256 n, Nat.mod_mul]

theorem elemBytes_bits {w : Half} (h : storeKind w = true) {n : Nat} (hn : n % 16 = 0) :
    8 * elemBytes w n = matBits (slotKind w) * n := by
  have h5 : slotKind w ≠ 5 ∧ slotKind w ≠ 6 := by simpa [storeKind] using h
  have hval : elemBytes w n = n * matBits (slotKind w) / 8 := by
    unfold elemBytes
    split
    · exact absurd ‹_› h5.1
    · exact absurd ‹_› h5.2
    · rfl
  rw [hval, mul_comm n, Nat.mul_div_cancel']
  exact Dvd.dvd.mul_left (by omega) _

theorem rowCodes_get {w : Half} {scl : Word} {pc : DWord} {xs : List Word} {i : Nat} {x : Word} (hx : xs[i]? = some x) :
    (rowCodes w scl pc xs)[i]? = some (convExact (slotKind w) pc
      (elementSource w scl pc (f32.decode x.toNat) ((rowExps w xs).getD (i / 16) 127))) := by
  have hi : i < xs.length := (List.getElem?_eq_some_iff.1 hx).1
  have hzip : ((List.range xs.length).zip (xs.map fun x => f32.decode x.toNat))[i]? = some (i, f32.decode x.toNat) := by
    rw [List.getElem?_zip_eq_some]
    exact ⟨List.getElem?_range hi, by rw [List.getElem?_map, hx]; rfl⟩
  rw [rowCodes, List.getElem?_map, hzip]
  rfl

theorem length_rowCodes (w : Half) (scl : Word) (pc : DWord) (xs : List Word) : (rowCodes w scl pc xs).length = xs.length := by
  simp [rowCodes]

theorem rowCodes_lt {w : Half} (hk : slotKind w ∈ [0, 1, 2, 3, 4, 7, 8, 9]) (scl : Word) (pc : DWord) (xs : List Word) :
    ∀ c ∈ rowCodes w scl pc xs, c < 2 ^ matBits (slotKind w) := by
  intro c hc
  obtain ⟨i, hi, rfl⟩ := List.mem_iff_getElem.1 hc
  have hlt : i < xs.length := by rwa [length_rowCodes] at hi
  have hget := rowCodes_get (w := w) (scl := scl) (pc := pc) (List.getElem?_eq_getElem hlt)
  rw [List.getElem?_eq_getElem hi, Option.some.injEq] at hget
  rw [hget]
  exact convExact_lt hk pc (convertible_elementSource w scl pc _ _)

theorem rowExps_get {w : Half} {xs : List Word} {j : Nat} (hj : j < xs.length / 16) : (rowExps w xs)[j]? =
    some (blockExp (slotKind w) (((xs.map fun x => f32.decode x.toNat).drop (16 * j)).take 16)) := by
  rw [rowExps, List.getElem?_map, List.getElem?_range hj]
  rfl

theorem rowExps_getD {w : Half} {xs : List Word} {j : Nat} (hj : j < xs.length / 16) : (rowExps w xs).getD j 127 =
    blockExp (slotKind w) (((xs.map fun x => f32.decode x.toNat).drop (16 * j)).take 16) := by
  rw [List.getD_eq_getElem?_getD, rowExps_get hj, Option.getD_some]

/-- The element bytes of a row hold its codes. -/
theorem bytesLE_convRow {w : Half} (h : storeKind w = true) (hk : slotKind w ∈ [0, 1, 2, 3, 4, 7, 8, 9]) (scl : Word) (pc : DWord)
    {xs : List Word} (hn : xs.length % 16 = 0) :
    bytesLE (fun a => (convRow w scl pc xs).getD a 0) 0 (elemBytes w xs.length) =
      packCodes (matBits (slotKind w)) (rowCodes w scl pc xs) := by
  have hbytes := bytesLE_digits (f := fun a => (convRow w scl pc xs).getD a 0)
    (p := packCodes (matBits (slotKind w)) (rowCodes w scl pc xs)) (elemBytes w xs.length) 0 fun i hi => by
      simp only [Nat.zero_add, convRow_eq]
      rw [List.getD_eq_getElem?_getD, List.getElem?_append_left (by simpa using hi), List.getElem?_map, List.getElem?_range hi]
      rfl
  rw [hbytes, pow_zero, Nat.div_one]
  refine Nat.mod_eq_of_lt ((packCodes_lt (rowCodes_lt hk scl pc xs)).trans_eq ?_)
  rw [length_rowCodes, ← elemBytes_bits h hn, pow_mul]
  norm_num

theorem blockExpIs_rowExps {w : Half} (hk : slotKind w ∈ [0, 1, 2, 3, 4, 7, 8, 9]) (xs : List Word) (j : Nat) :
    BlockExpIs (slotKind w) (((xs.map fun x => f32.decode x.toNat).drop (16 * j)).take 16)
      (blockExp (slotKind w) (((xs.map fun x => f32.decode x.toNat).drop (16 * j)).take 16)) := by
  refine blockExpIs_blockExp hk fun s m e hin => ?_
  obtain ⟨x, -, hx⟩ := List.mem_map.1 (List.mem_of_mem_drop (List.mem_of_mem_take hin))
  exact (decode_f32_num hx).2.1

/-- A row is converted element by element, with the scale bytes of its blocks. -/
theorem convRow_spec (w : Half) (scl : Word) (pc : DWord) (xs : List Word) (hs : storeKind w = true) (h9 : slotKind w ≤ 9)
    (hn : xs.length % 16 = 0) : (convRow w scl pc xs).length = rowBytes w xs.length ∧ ∃ ex : Nat → Nat,
      (∀ j, j < xs.length / 16 → BlockExpIs (slotKind w) (((xs.map fun x => f32.decode x.toNat).drop (16 * j)).take 16) (ex j) ∧
        (slotScale w = 1 → (convRow w scl pc xs)[elemBytes w xs.length + j]? = some (BitVec.ofNat 8 (ex j)))) ∧
      ∀ i x, (xs.map fun x => f32.decode x.toNat)[i]? = some x → ∃ y c, ElementIs w scl pc x (ex (i / 16)) y ∧
        ConvIs (slotKind w) pc y c ∧ c < 2 ^ matBits (slotKind w) ∧
        bytesLE (fun a => (convRow w scl pc xs).getD a 0) 0 (elemBytes w xs.length) / 2 ^ (matBits (slotKind w) * i) %
          2 ^ matBits (slotKind w) = c := by
  have hk := kind_cases hs h9
  refine ⟨?_, fun j => (rowExps w xs).getD j 127, fun j hj => ⟨?_, fun h1 => ?_⟩, fun i v hv => ?_⟩
  · rw [convRow_eq, rowBytes]
    split <;> simp [rowExps]
  · simp only [rowExps_getD hj]
    exact blockExpIs_rowExps hk xs j
  · rw [convRow_eq, if_pos h1, List.getElem?_append_right (by simp), List.length_map, List.length_range, Nat.add_sub_cancel_left,
      List.getElem?_map, rowExps_get hj]
    simp only [rowExps_getD hj, Option.map_some]
  · rw [List.getElem?_map, Option.map_eq_some_iff] at hv
    obtain ⟨x, hx, rfl⟩ := hv
    have hi : i < xs.length := (List.getElem?_eq_some_iff.1 hx).1
    refine ⟨_, _, elementIs_elementSource w scl pc fun he => ?_, convIs_convExact _ pc (convertible_elementSource w scl pc _ _),
      convExact_lt hk pc (convertible_elementSource w scl pc _ _), ?_⟩
    · by_contra hnan
      refine he ((rowExps_getD (by omega)).trans ?_)
      refine blockExp_of_nan ⟨f32.decode x.toNat, ?_, by simpa using hnan⟩
      refine List.mem_of_getElem? (i := i % 16) ?_
      rw [List.getElem?_take_of_lt (Nat.mod_lt _ (by norm_num)), List.getElem?_drop, Nat.div_add_mod, List.getElem?_map, hx]
      rfl
    · rw [bytesLE_convRow hs hk scl pc hn]
      exact packCodes_get (rowCodes_lt hk scl pc xs) (rowCodes_get hx)

end Sys2Proof.Proofs.RowConversion
end

section
/-!
PROOFS. The statement on the engines' arithmetic, from the block sums, the conversion of rows and the glaze.
-/
namespace Sys2Proof.Proofs.EngineArithmetic
open Sys2Proof.Machine Sys2Proof.Safety Sys2Proof.Proofs.GlazeArithmetic Sys2Proof.Proofs.BlockSums Sys2Proof.Proofs.RowConversion

/-- The finite case of lse2, as R296 writes it. -/
theorem lse2_finite {x y : Word} (hx : (f32.decode x.toNat).isNan = false) (hy : (f32.decode y.toNat).isNan = false)
    (hx1 : f32.decode x.toNat ≠ .inf true) (hy1 : f32.decode y.toNat ≠ .inf true)
    (hboth : ¬ (f32.decode x.toNat = .inf false ∧ f32.decode y.toNat = .inf false)) :
    lse2 x y = glzAdd 0 (glzPick true x y) (glzRnd 0 (log2X (f32Val (glzAdd 0 0x3F800000 (glzRnd 0 (exp2X (f32Val
      (glzRnd 0 (addX 0 (f32Val (glzPick false x y)) (f32Val (glzPick true x y)).negate))))))))) := by
  rw [lse2_of_numbers hx hy, if_neg hx1, if_neg hy1, if_neg hboth]

/-- Settles O38: block sums by their three cases, rows by their codes, and a tile's prefixes by induction on its blocks. -/
theorem engineArithmetic : Obligations.EngineArithmetic := by
  refine ⟨fun pc ps scales hne => ⟨blockSum_nan pc, fun h hfin => ⟨fun e he hei hz => blockSum_inf pc h hfin he hei hz,
    fun hps => blockSum_finite pc hne h hfin hps⟩⟩, fun pc c b => ⟨fun h => ?_, fun h => ?_⟩, convRow_spec, ?_, ?_⟩
  · rw [accAdd_eq, if_pos h]
  · rw [accAdd_eq, if_neg (Bool.eq_false_iff.1 h)]
  · intro pc a1 b1 a2 b2
    refine ⟨rfl, rfl, rfl, rfl, rfl, rfl, rfl, rfl, rfl, rfl, rfl, rfl,
      fun larger => ⟨glzPick_nan larger, pickIs_glzPick larger⟩, lse2_nan, fun hx hy => ⟨fun h => ?_, fun h1 h2 => ?_, fun h1 h2 => ?_,
      fun h1 h2 h3 => lse2_finite hx hy h1 h2 h3⟩⟩
    · rw [lse2_of_numbers hx hy, if_pos h]
    · rw [lse2_of_numbers hx hy, if_neg h1, if_pos h2]
    · rw [lse2_of_numbers hx hy, if_neg (fun h => by cases h1.symm.trans h), if_neg (fun h => by cases h2.symm.trans h),
        if_pos ⟨h1, h2⟩]
  · intro x c
    obtain ⟨hlen, hget⟩ := prefixes_spec x
    refine ⟨hlen, fun i hi => ?_, fun hnil => ?_, fun p hp => ?_⟩
    · rw [hget i hi]
      simp only [blockPrefix, pairAt_map]
    · have : x.prefixes = [] := List.eq_nil_of_length_eq_zero (by rw [hlen, hnil]; rfl)
      simp [GlzTile.carryOut, this]
    · simp [GlzTile.carryOut, hp, GlzTile.applyAt]

end Sys2Proof.Proofs.EngineArithmetic
end

section
/-!
PROOFS. Passes of the matrix engine (R269, R271): which multiply starts one, which join it, and the B that it reads for them.
-/
namespace Sys2Proof.Proofs.MatrixPasses
open Sys2Proof Sys2Proof.Machine Sys2Proof.Safety

/-! ## What may start, and what joins (R269, R271) -/

theorem takeWhile_before {before after : List MatOp} {m : MatOp} (h : ((before ++ m :: after).map (·.id)).Nodup) :
    (before ++ m :: after).takeWhile (·.id != m.id) = before := by
  have hne : ∀ x ∈ before, (x.id != m.id) = true := by
    intro x hx
    rw [List.map_append, List.map_cons, List.nodup_append] at h
    exact bne_iff_ne.2 (h.2.2 x.id (List.mem_map_of_mem hx) m.id (by simp))
  rw [List.takeWhile_append_of_pos hne, List.takeWhile_cons_of_neg (by simp), List.append_nil]

theorem mayStart_iff {before after : List MatOp} {m : MatOp} (h : ((before ++ m :: after).map (·.id)).Nodup) :
    mayStart (before ++ m :: after) m = true ↔ CanStart before m := by
  rw [mayStart, takeWhile_before h]
  simp only [CanStart, Bool.and_eq_true, beq_iff_eq, Option.isNone_iff_eq_none, List.all_eq_true, Bool.not_eq_true',
    Bool.and_eq_false_imp, Bool.or_eq_true, List.any_eq_false, List.contains_iff_mem, and_assoc, and_imp]

/-- A multiply that joins the pass of another: it may start, and reads the same B within eight cycles. -/
def Joins (ms : List MatOp) (a m : MatOp) : Prop :=
  (∃ p q, ms = p ++ m :: q ∧ CanStart p m) ∧ m.bCore = a.bCore ∧ m.bOff = a.bOff ∧ m.bStride = a.bStride ∧
    m.fbSlot = a.fbSlot ∧ m.tb = a.tb ∧ m.arrived < a.arrived + 8

theorem joins_iff {ms : List MatOp} (h : (ms.map (·.id)).Nodup) {a m : MatOp} (hm : m ∈ ms) :
    (mayStart ms m && samePass a m) = true ↔ Joins ms a m := by
  have hstart : mayStart ms m = true ↔ ∃ p q, ms = p ++ m :: q ∧ CanStart p m := by
    constructor
    · intro hs
      obtain ⟨p, q, rfl⟩ := List.append_of_mem hm
      exact ⟨p, q, rfl, (mayStart_iff h).1 hs⟩
    · rintro ⟨p, q, rfl, hc⟩
      exact (mayStart_iff h).2 hc
  rw [Bool.and_eq_true, hstart, Joins, eq_comm (a := m.bCore), eq_comm (a := m.bOff), eq_comm (a := m.bStride),
    eq_comm (a := m.fbSlot), eq_comm (a := m.tb)]
  simp only [samePass, Bool.and_eq_true, beq_iff_eq, decide_eq_true_eq, and_assoc]

/-- The multiplies of a pass: those that join its first one, at most sixteen. -/
def passOf (ms : List MatOp) (a : MatOp) : List MatOp := (ms.filter fun m => mayStart ms m && samePass a m).take 16

theorem mem_of_mem_passOf {ms : List MatOp} {a m : MatOp} (h : m ∈ passOf ms a) :
    m ∈ ms ∧ (mayStart ms m && samePass a m) = true :=
  List.mem_filter.1 (List.mem_of_mem_take h)

theorem mem_passOf_or_full {ms : List MatOp} {a m : MatOp} (hm : m ∈ ms) (hj : (mayStart ms m && samePass a m) = true) :
    m ∈ passOf ms a ∨ (passOf ms a).length = 16 := by
  have hf : m ∈ ms.filter fun m => mayStart ms m && samePass a m := List.mem_filter.2 ⟨hm, hj⟩
  by_cases hl : (ms.filter fun m => mayStart ms m && samePass a m).length ≤ 16
  · left
    rwa [passOf, List.take_of_length_le hl]
  · right
    rw [passOf, List.length_take]
    omega

/-- The oldest multiply that may start is the first that the engine finds. -/
theorem find_mayStart {before after : List MatOp} {a : MatOp} (h : ((before ++ a :: after).map (·.id)).Nodup)
    (ha : CanStart before a) (hold : ∀ p m q, before = p ++ m :: q → ¬ CanStart p m) :
    (before ++ a :: after).filter (fun m => mayStart (before ++ a :: after) m && samePass a m) =
      a :: after.filter (fun m => mayStart (before ++ a :: after) m && samePass a m) ∧
    (before ++ a :: after).find? (mayStart (before ++ a :: after)) = some a := by
  have hnone : ∀ m ∈ before, mayStart (before ++ a :: after) m = false := by
    intro m hm
    obtain ⟨p, q, hpq⟩ := List.append_of_mem hm
    refine Bool.eq_false_iff.2 fun hs => hold p m q hpq ?_
    have hsplit : before ++ a :: after = p ++ m :: (q ++ a :: after) := by rw [hpq]; simp
    rw [hsplit] at hs h
    exact (mayStart_iff h).1 hs
  have hself : mayStart (before ++ a :: after) a = true := (mayStart_iff h).2 ha
  have hsame : samePass a a = true := by simp [samePass]
  constructor
  · rw [List.filter_append, List.filter_eq_nil_iff.2 fun m hm => by simp [hnone m hm], List.nil_append,
      List.filter_cons_of_pos (by simp [hself, hsame])]
  · rw [List.find?_append, List.find?_eq_none.2 fun m hm => by simp [hnone m hm], Option.none_or,
      List.find?_cons_of_pos hself]

/-! ## The rows that a pass reads (R264, R269) -/

theorem le_foldl_max (l : List Nat) : ∀ a : Nat, a ≤ l.foldl max a ∧ ∀ x ∈ l, x ≤ l.foldl max a := by
  induction l with
  | nil => simp
  | cons y ys ih =>
    intro a
    obtain ⟨hge, hall⟩ := ih (max a y)
    exact ⟨(le_max_left a y).trans hge, List.forall_mem_cons.2 ⟨(le_max_right a y).trans hge, hall⟩⟩

theorem length_engRows (s : State) (core off stride len : Nat) : (s.engRows core off stride len).length = 16 := by
  simp [State.engRows]

theorem getD_engRows (s : State) (core off stride len : Nat) {i : Nat} (hi : i < 16) :
    (s.engRows core off stride len).getD i [] = (List.range len).map fun b => s.engByte core (off + i * stride + b) := by
  rw [State.engRows, List.getD_eq_getElem?_getD, List.getElem?_map, List.getElem?_range hi]
  rfl

theorem engRows_byte (s : State) (core off stride : Nat) {len i x : Nat} (hi : i < 16) (hx : x < len) :
    ((s.engRows core off stride len).getD i []).getD x 0 = s.engByte core (off + i * stride + x) := by
  rw [getD_engRows s core off stride len hi, List.getD_eq_getElem?_getD, List.getElem?_map, List.getElem?_range hx]
  rfl

/-! ## The pass -/

/-- The rows of B of a pass are long enough for each of its multiplies. -/
def passRows (s : State) (a : MatOp) (pass : List MatOp) : List (List Byte) :=
  s.engRows a.bCore a.bOff a.bStride ((pass.map fun m => rowBytes m.fb (min (slotK m.fa) (slotK m.fb))).foldl max 0)

theorem passRows_byte (s : State) (a : MatOp) {pass : List MatOp} {m : MatOp} (hm : m ∈ pass) {i x : Nat} (hi : i < 16)
    (hx : x < rowBytes m.fb (kOf m)) : ((passRows s a pass).getD i []).getD x 0 = s.engByte a.bCore (a.bOff + i * a.bStride + x) :=
  engRows_byte s _ _ _ hi (hx.trans_le ((le_foldl_max _ 0).2 _ (List.mem_map_of_mem hm)))

/-- The numbers of the multiplies of a pass. -/
def passIds (ms : List MatOp) (a : MatOp) : List Nat := (passOf ms a).map (·.id)

/-- A multiply once the pass has started: with the rows of B where it belongs to the pass. -/
def begun (ids : List Nat) (rows : List (List Byte)) (m : MatOp) : MatOp :=
  if ids.contains m.id then { m with bRows := some rows } else m

/-- The state in which a pass has started. -/
def started (s : State) (core : Nat) (a : MatOp) : State :=
  ({ s with free := s.free + 1 }).onCore core fun c => { c with
    mats := c.mats.map (begun (passIds (s.core core).mats a) (passRows s a (passOf (s.core core).mats a))) }

theorem begun_eq (ids : List Nat) (rows : List (List Byte)) (m : MatOp) :
    begun ids rows m = if m.id ∈ ids then { m with bRows := some rows } else m := by
  simp only [begun, List.contains_iff_mem]

theorem core_started (s : State) (core : Nat) (a : MatOp) : (started s core a).core core =
    { s.core core with
      mats := (s.core core).mats.map (begun (passIds (s.core core).mats a) (passRows s a (passOf (s.core core).mats a))) } :=
  State.core_onCore_self ..

theorem runs_started {s : State} {core : Nat} {a : MatOp} (hbus : s.bus = [])
    (h : (s.core core).mats.find? (mayStart (s.core core).mats) = some a) :
    Runs (.matrixPassStart core) s (started s core a) := by
  have hx : execMatrixPassStart core s = .next (commit s (started s core a)) := by
    unfold execMatrixPassStart
    simp only [h]
    rfl
  rw [commit_quiet s (started s core a) hbus rfl] at hx
  exact hx

/-- The pass of the oldest multiply that may start has the multiplies that join it, and their rows of B. -/
theorem pass_starts (s : State) (core : Nat) (before after : List MatOp) (a : MatOp)
    (hms : (s.core core).mats = before ++ a :: after) (hid : ((s.core core).mats.map (·.id)).Nodup) (ha : CanStart before a)
    (hold : ∀ p m q, before = p ++ m :: q → ¬ CanStart p m) (hbus : s.bus = []) :
    ∃ (t : State) (pass : List Nat) (rows : List (List Byte)),
      Runs (.matrixPassStart core) s t ∧ { t with cores := s.cores, free := s.free } = s ∧
      (∀ c, c ≠ core → tfind t.cores c = tfind s.cores c) ∧ { t.core core with mats := (s.core core).mats } = s.core core ∧
      (t.core core).mats = ((s.core core).mats.map fun m => if m.id ∈ pass then { m with bRows := some rows } else m) ∧
      a.id ∈ pass ∧ pass.length ≤ 16 ∧ (∀ x ∈ pass, ∃ m ∈ (s.core core).mats, m.id = x ∧ Joins (s.core core).mats a m) ∧
      (∀ m ∈ (s.core core).mats, Joins (s.core core).mats a m → m.id ∈ pass ∨ pass.length = 16) ∧ rows.length = 16 ∧
      ∀ m ∈ (s.core core).mats, m.id ∈ pass → ∀ i x, i < 16 → x < rowBytes m.fb (kOf m) →
        (rows.getD i []).getD x 0 = s.engByte a.bCore (a.bOff + i * a.bStride + x) := by
  obtain ⟨hfilter, hfind⟩ := find_mayStart (hms ▸ hid) ha hold
  rw [← hms] at hfilter hfind
  have hlen : (passIds (s.core core).mats a).length = (passOf (s.core core).mats a).length := List.length_map _
  refine ⟨started s core a, passIds (s.core core).mats a, passRows s a (passOf (s.core core).mats a), runs_started hbus hfind, rfl,
    fun c hc => tfind_tset_ne _ _ (Ne.symm hc), ?_, ?_, ?_, ?_, ?_, ?_, length_engRows .., ?_⟩
  · rw [core_started]
  · rw [core_started]
    exact List.map_congr_left fun m _ => begun_eq ..
  · refine List.mem_map_of_mem ?_
    rw [passOf, hfilter]
    exact List.mem_cons_self
  · rw [hlen, passOf, List.length_take]
    exact min_le_left _ _
  · intro x hx
    obtain ⟨m, hm, rfl⟩ := List.mem_map.1 hx
    obtain ⟨hmem, hj⟩ := mem_of_mem_passOf hm
    exact ⟨m, hmem, rfl, (joins_iff hid hmem).1 hj⟩
  · intro m hm hj
    rw [hlen]
    exact (mem_passOf_or_full hm ((joins_iff hid hm).2 hj)).imp_left List.mem_map_of_mem
  · intro m hm hin i x hi hx
    obtain ⟨m', hm', hidm⟩ := List.mem_map.1 hin
    have : m' = m := List.inj_on_of_nodup_map hid (mem_of_mem_passOf hm').1 hm hidm
    exact passRows_byte s a (this ▸ hm') hi hx

end Sys2Proof.Proofs.MatrixPasses
end

section
/-!
PROOFS. The accumulator store and local memory (R258-R264, R277): what a run of writes leaves at a place, and what it leaves alone.
-/
namespace Sys2Proof.Proofs.EngineStores
open Sys2Proof Sys2Proof.Machine Sys2Proof.Safety

theorem core_onCore_ne (s : State) {k n : Nat} (f : Core → Core) (h : k ≠ n) : (s.onCore k f).core n = s.core n :=
  State.core_setCore_ne s _ h

/-! ## The accumulator store (R258) -/

/-- Nothing but the accumulator store of a core differs. -/
def AccOnly (core : Nat) (s t : State) : Prop :=
  { t with cores := s.cores } = s ∧ { t.core core with acc := (s.core core).acc } = s.core core ∧
    ∀ c, c ≠ core → t.core c = s.core c

theorem AccOnly.refl (core : Nat) (s : State) : AccOnly core s s := ⟨rfl, rfl, fun _ _ => rfl⟩

theorem AccOnly.trans {core : Nat} {s t u : State} (h : AccOnly core s t) (h' : AccOnly core t u) : AccOnly core s u := by
  obtain ⟨hs, hc, ho⟩ := h
  obtain ⟨hs', hc', ho'⟩ := h'
  refine ⟨?_, ?_, fun c hne => (ho' c hne).trans (ho c hne)⟩
  · rw [← hs, ← hs']
  · rw [← hc, ← hc']

theorem accOnly_putAcc (s : State) (core row col : Nat) (x : Word) : AccOnly core s (s.putAcc core row col x) := by
  refine ⟨rfl, ?_, fun c hne => core_onCore_ne s _ hne.symm⟩
  rw [State.putAcc, State.core_onCore_self]

theorem accWord_putAcc (s : State) (core : Nat) {row col r c : Nat} (x : Word) (hcol : col < 256) (hc : c < 256) :
    (s.putAcc core row col x).accWord core r c = if (row, col) = (r, c) then x else s.accWord core r c := by
  rw [State.accWord, State.putAcc, State.core_onCore_self]
  simp only [tget_tput, State.accWord, Prod.mk.injEq]
  by_cases h : row = r ∧ col = c
  · rw [if_pos (by rw [h.1, h.2]), if_pos h]
  · rw [if_neg (by omega), if_neg h]

/-- One element of a place replaced by a value that depends on it. -/
def updAcc (s : State) (core : Nat) (p : Nat × Nat) (f : Word → Word) : State := s.putAcc core p.1 p.2 (f (s.accWord core p.1 p.2))

/-- Elements of distinct places replaced, each by what its own value gives. -/
theorem foldl_updAcc {ι : Type} (core : Nat) (place : ι → Nat × Nat) (val : ι → Word → Word) (l : List ι) : ∀ s : State,
    (l.map place).Nodup → (∀ i ∈ l, (place i).2 < 256) →
    AccOnly core s (l.foldl (fun s i => updAcc s core (place i) (val i)) s) ∧
    (∀ i ∈ l, (l.foldl (fun s i => updAcc s core (place i) (val i)) s).accWord core (place i).1 (place i).2 =
      val i (s.accWord core (place i).1 (place i).2)) ∧
    ∀ r c, c < 256 → (∀ i ∈ l, place i ≠ (r, c)) →
      (l.foldl (fun s i => updAcc s core (place i) (val i)) s).accWord core r c = s.accWord core r c := by
  induction l with
  | nil => exact fun s _ _ => ⟨.refl core s, by simp, fun _ _ _ _ => rfl⟩
  | cons i is ih =>
    intro s hn hc
    rw [List.map_cons, List.nodup_cons] at hn
    obtain ⟨hci, hcis⟩ := List.forall_mem_cons.1 hc
    obtain ⟨hframe, hval, hout⟩ := ih (updAcc s core (place i) (val i)) hn.2 hcis
    have hput : ∀ r c, c < 256 → (updAcc s core (place i) (val i)).accWord core r c =
        if place i = (r, c) then val i (s.accWord core (place i).1 (place i).2) else s.accWord core r c :=
      fun r c hrc => accWord_putAcc s core _ hci hrc
    refine ⟨(accOnly_putAcc ..).trans hframe, List.forall_mem_cons.2 ⟨?_, fun k hk => ?_⟩, fun r c hrc hne => ?_⟩
    · rw [List.foldl_cons, hout _ _ hci fun k hk he => hn.1 (List.mem_map.2 ⟨k, hk, he⟩), hput _ _ hci, if_pos rfl]
    · have hne : place i ≠ place k := fun he => hn.1 (he ▸ List.mem_map_of_mem hk)
      rw [List.foldl_cons, hval k hk, hput _ _ (hcis k hk), if_neg hne]
    · obtain ⟨hi, his⟩ := List.forall_mem_cons.1 hne
      rw [List.foldl_cons, hout r c hrc his, hput r c hrc, if_neg hi]

/-- The places of a region, by row and column within it. -/
def regionPlaces (rows cols : Nat) : List (Nat × Nat) := (List.range rows).product (List.range cols)

theorem mem_regionPlaces {rows cols : Nat} {p : Nat × Nat} : p ∈ regionPlaces rows cols ↔ p.1 < rows ∧ p.2 < cols := by
  obtain ⟨i, j⟩ := p
  simp [regionPlaces]

theorem nodup_regionPlaces (rows cols row col : Nat) :
    ((regionPlaces rows cols).map fun p => (row + p.1, col + p.2)).Nodup := by
  refine List.Nodup.map (fun p q h => ?_) (List.nodup_range.product List.nodup_range)
  obtain ⟨i, j⟩ := p
  obtain ⟨k, l⟩ := q
  simp only [Prod.mk.injEq] at h ⊢
  omega

/-- A run over the rows and, in each, the columns of a region is a run over its places. -/
theorem foldl_region {σ : Type} (rows cols : Nat) (f : σ → Nat × Nat → σ) (s : σ) :
    (List.range rows).foldl (fun s r => (List.range cols).foldl (fun s c => f s (r, c)) s) s =
      (regionPlaces rows cols).foldl f s := by
  simp only [regionPlaces, List.product, List.foldl_flatMap, List.foldl_map]

/-! ## Local memory (R225, R277) -/

/-- Nothing but the local memory of a core differs. -/
def LocOnly (core : Nat) (s t : State) : Prop :=
  { t with cores := s.cores } = s ∧
  { t.core core with mem := (s.core core).mem, memPoison := (s.core core).memPoison } = s.core core ∧
  ∀ c, c ≠ core → t.core c = s.core c

theorem LocOnly.refl (core : Nat) (s : State) : LocOnly core s s := ⟨rfl, rfl, fun _ _ => rfl⟩

theorem LocOnly.trans {core : Nat} {s t u : State} (h : LocOnly core s t) (h' : LocOnly core t u) : LocOnly core s u := by
  obtain ⟨hs, hc, ho⟩ := h
  obtain ⟨hs', hc', ho'⟩ := h'
  refine ⟨?_, ?_, fun c hne => (ho' c hne).trans (ho c hne)⟩
  · rw [← hs, ← hs']
  · rw [← hc, ← hc']

theorem locOnly_locWrite (s : State) (core : Nat) (cs : List Host.Cell) : LocOnly core s (s.locWrite core cs) := by
  refine ⟨rfl, ?_, fun c hne => core_onCore_ne s _ hne.symm⟩
  rw [State.locWrite, State.core_onCore_self]

theorem locByte_locWrite (s : State) (core c a : Nat) (cs : List Host.Cell) :
    (s.locWrite core cs).locByte c a = (if c = core then lastOf a cs else none).getD (s.locByte c a) := by
  by_cases hc : c = core
  · subst hc
    rw [if_pos rfl, State.locByte, State.locWrite, State.core_onCore_self]
    exact tget_applyBus _ _ _
  · rw [if_neg hc, State.locByte, State.locWrite, core_onCore_ne s _ (Ne.symm hc)]
    rfl

/-- Runs of writes to local memory one after another. -/
theorem foldl_locWrite {ι : Type} (core : Nat) (cells : ι → List Host.Cell) (l : List ι) : ∀ s : State,
    LocOnly core s (l.foldl (fun s i => s.locWrite core (cells i)) s) ∧
    ∀ c a, (l.foldl (fun s i => s.locWrite core (cells i)) s).locByte c a =
      (if c = core then lastOf a (l.flatMap cells) else none).getD (s.locByte c a) := by
  induction l with
  | nil => exact fun s => ⟨.refl core s, fun c a => by simp [lastOf]⟩
  | cons i is ih =>
    intro s
    obtain ⟨hframe, hbyte⟩ := ih (s.locWrite core (cells i))
    refine ⟨(locOnly_locWrite ..).trans hframe, fun c a => ?_⟩
    rw [List.foldl_cons, hbyte, locByte_locWrite, List.flatMap_cons, lastOf_append]
    by_cases hc : c = core
    · simp only [if_pos hc]
      cases lastOf a (is.flatMap cells) <;> rfl
    · simp only [if_neg hc, Option.getD_none]

/-- The cells of a run of bytes from an address up. -/
def bytesFrom (base : Nat) (bs : List Byte) : List Host.Cell := bs.zipIdx.map fun e => (base + e.2, e.1)

theorem lastOf_zipIdx (base a : Nat) (bs : List Byte) : ∀ k, lastOf a ((bs.zipIdx k).map fun e => (base + e.2, e.1)) =
    if base + k ≤ a then bs[a - (base + k)]? else none := by
  induction bs with
  | nil => intro k; simp [lastOf]
  | cons b bs ih =>
    intro k
    rw [List.zipIdx_cons, List.map_cons, lastOf, ih (k + 1)]
    rcases lt_trichotomy a (base + k) with h | h | h
    · rw [if_neg (by omega), if_neg (by omega)]
      simp only
      rw [if_neg (by omega)]
    · rw [if_neg (by omega), if_pos (by omega)]
      simp only
      rw [if_pos (by omega), show a - (base + k) = 0 by omega]
      rfl
    · rw [if_pos (show base + (k + 1) ≤ a by omega), if_pos (show base + k ≤ a by omega),
        show a - (base + k) = a - (base + (k + 1)) + 1 by omega, List.getElem?_cons_succ]
      cases bs[a - (base + (k + 1))]? with
      | some x => rfl
      | none => exact if_neg (show ¬ base + k = a by omega)

theorem lastOf_bytesFrom (base a : Nat) (bs : List Byte) :
    lastOf a (bytesFrom base bs) = if base ≤ a then bs[a - base]? else none := lastOf_zipIdx base a bs 0

/-- Of the cells of several runs, the last run that covers an address gives its byte. -/
theorem lastOf_runs (base : Nat → Nat) (bs : Nat → List Byte) (a n : Nat) :
    lastOf a ((List.range n).flatMap fun r => bytesFrom (base r) (bs r)) =
      ((List.range n).reverse.find? fun r => decide (base r ≤ a ∧ a < base r + (bs r).length)).bind fun r => (bs r)[a - base r]? := by
  induction n with
  | zero => rfl
  | succ n ih =>
    rw [List.range_succ, List.flatMap_append, List.reverse_append, List.flatMap_singleton, lastOf_append, ih, lastOf_bytesFrom]
    simp only [List.reverse_cons, List.reverse_nil, List.nil_append, List.singleton_append, List.find?_cons]
    by_cases h1 : base n ≤ a
    · by_cases h2 : a < base n + (bs n).length
      · rw [if_pos h1, decide_eq_true (And.intro h1 h2), List.getElem?_eq_getElem (by omega)]
        exact (List.getElem?_eq_getElem (by omega)).symm
      · rw [if_pos h1, decide_eq_false (fun h => h2 h.2), List.getElem?_eq_none (by omega)]
    · rw [if_neg h1, decide_eq_false (fun h => h1 h.1)]

end Sys2Proof.Proofs.EngineStores
end

section
/-!
PROOFS. Writes at the performing points (R325, R382, R383, R461): what they leave of memory, of the queues and of poison.
-/
namespace Sys2Proof.Proofs.HomeWrites
open Sys2Proof Sys2Proof.Machine Sys2Proof.Safety

/-- Nothing but the queues and tiers, the edge dies, poison and the writes of the step differs. -/
def MemOnly (s t : State) : Prop := { t with stackTab := s.stackTab, edge := s.edge, poison := s.poison, bus := s.bus } = s

theorem MemOnly.trans {s t u : State} (h : MemOnly s t) (h' : MemOnly t u) : MemOnly s u := by
  unfold MemOnly at *
  rw [← h, ← h']

theorem MemOnly.mem {s t : State} (h : MemOnly s t) : t.mem = s.mem := by
  unfold MemOnly at h
  have h' := congrArg State.mem h
  exact h'

theorem MemOnly.sealed {s t : State} (h : MemOnly s t) : t.sealed = s.sealed := by
  unfold MemOnly at h
  have h' := congrArg State.sealed h
  exact h'

theorem MemOnly.cores {s t : State} (h : MemOnly s t) : t.cores = s.cores := by
  unfold MemOnly at h
  have h' := congrArg State.cores h
  exact h'

theorem home_congr {s t : State} {a : Nat} (hq : t.queuedAt a = s.queuedAt a) (hb : t.bus = s.bus) (hm : t.mem = s.mem) :
    t.home a = s.home a := by
  rw [home_eq, home_eq, hq, hb, hm]

/-- Ending a step changes what no byte reads as at home. -/
theorem home_commit {s t : State} (hm : t.mem = s.mem) (a : Nat) : (commit s t).home a = t.home a := by
  have hpeek : (lastOf a (commit s t).bus).getD (tget 0 (commit s t).mem a) = (lastOf a t.bus).getD (tget 0 t.mem a) :=
    peek_commit s t hm a
  rw [home_eq, home_eq, hpeek]
  rfl

/-! ## Tiers and pokes -/

theorem touch_memOnly (s : State) (slice : Option Nat) (line : Nat) (w : Bool) (key : Option Nat) :
    MemOnly s (s.touch slice line w key) ∧ (∀ a, (s.touch slice line w key).queuedAt a = s.queuedAt a) ∧
    (s.touch slice line w key).bus = s.bus ∧ (s.touch slice line w key).poison = s.poison := by
  obtain ⟨⟨st, h⟩, hq⟩ := touch_shape s slice line w key
  refine ⟨?_, hq, ?_, ?_⟩
  · rw [h]; rfl
  · rw [h]
  · rw [h]

/-- Writes of a line on which nothing is queued show at once. -/
theorem home_pokes {s : State} {line : Nat} (hempty : ∀ r ∈ s.queuedAt (line * 128), r.line ≠ line) {cs : List Host.Cell}
    (hcs : ∀ c ∈ cs, c.1 / 128 = line) (a : Nat) : (s.pokes cs).home a = (lastOf a cs).getD (s.home a) := by
  have hq : (s.pokes cs).queuedAt a = s.queuedAt a := rfl
  rw [home_eq, home_eq, hq]
  simp only [State.pokes, lastOf_append]
  by_cases ha : a / 128 = line
  · have hnil : (s.queuedAt a).filter (·.line == a / 128) = [] := by
      rw [queuedAt_eq, queuedIn_same _ _ a (line * 128) (by omega), ← queuedAt_eq]
      exact List.filter_eq_nil_iff.2 fun r hr => by simpa [ha] using hempty r hr
    rw [hnil]
    simp only [List.flatMap_nil, lastOf]
    cases lastOf a cs <;> rfl
  · have hnone : lastOf a cs = none := by
      have hf : cs.filter (fun c => c.1 / 128 == line) = cs := List.filter_eq_self.2 fun c hc => by simpa using hcs c hc
      rw [← hf, lastOf_filter, if_neg ha]
    rw [hnone]
    rfl

/-! ## Performing what is queued for a line (R325, R461) -/

section Settle
variable {s : State} {line : Nat} (hk : ∀ r ∈ s.queuedAt (line * 128), r.line = line → r.key = tfind s.sealed line)
include hk

theorem settle_cases : (s.settle line = s ∧ ∀ r ∈ s.queuedAt (line * 128), r.line ≠ line) ∨
    ∃ u, u = ((s.queuedAt (line * 128)).filter (·.line == line)).foldl State.perform s ∧
      s.settle line = u.putQueuedAt (line * 128) ((s.queuedAt (line * 128)).filter (·.line != line)) ∧
      (∀ a, u.queuedAt a = s.queuedAt a) ∧ u.queuedAt (line * 128) ≠ [] := by
  by_cases hempty : ((s.queuedAt (line * 128)).filter (·.line == line)).isEmpty = true
  · left
    refine ⟨by rw [State.settle, if_pos hempty], fun r hr he => ?_⟩
    rw [List.isEmpty_iff, List.filter_eq_nil_iff] at hempty
    exact hempty r hr (by simpa using he)
  · right
    obtain ⟨-, hq⟩ := performs_shape line ((s.queuedAt (line * 128)).filter (·.line == line)) s fun r hr => by
      obtain ⟨hr1, hr2⟩ := List.mem_filter.1 hr
      exact ⟨by simpa using hr2, hk r hr1 (by simpa using hr2)⟩
    refine ⟨_, rfl, by rw [State.settle, if_neg hempty], hq, fun hnil => hempty ?_⟩
    rw [hq] at hnil
    rw [hnil]
    rfl

theorem settle_queuedAt_subset (a : Nat) : ∀ r ∈ (s.settle line).queuedAt a, r ∈ s.queuedAt a := by
  rcases settle_cases hk with ⟨h, -⟩ | ⟨u, -, h, hq, -⟩
  · rw [h]; exact fun r hr => hr
  · rw [h]
    rcases queuedAt_replace u line ((s.queuedAt (line * 128)).filter (·.line != line)) a with h1 | ⟨h1, h2⟩
    · rw [h1, hq]; exact fun r hr => hr
    · rw [h1, ← hq a, h2, hq]
      exact fun r hr => (List.mem_filter.1 hr).1

theorem settle_queue_line : ∀ r ∈ (s.settle line).queuedAt (line * 128), r.line ≠ line := by
  rcases settle_cases hk with ⟨h, hne⟩ | ⟨u, -, h, -, hne⟩
  · rw [h]; exact hne
  · rw [h, queuedAt_own u line _ hne _ (by omega)]
    exact fun r hr => by simpa using (List.mem_filter.1 hr).2

end Settle

/-- One request's effect on the poison of its line. -/
def poisonAfter (p : Bool) (r : SliceReq) : Bool := if r.poison then true else p && !r.whole

theorem perform_poison (s : State) (r : SliceReq) : (s.perform r).poison.contains r.line = poisonAfter (s.poison.contains r.line) r := by
  have huse : ∀ key, (s.useKey r.line key).poison = s.poison := by
    intro key
    unfold State.useKey
    split <;> rfl
  unfold State.perform poisonAfter
  rw [(touch_memOnly _ none r.line true r.key).2.2.2]
  cases r.poison <;> cases r.whole <;> simp [huse]

theorem performs_poison (line : Nat) (rs : List SliceReq) (hl : ∀ r ∈ rs, r.line = line) : ∀ s : State,
    (rs.foldl State.perform s).poison.contains line = rs.foldl poisonAfter (s.poison.contains line) := by
  induction rs with
  | nil => exact fun s => rfl
  | cons r rs ih =>
    obtain ⟨hr, hrs⟩ := List.forall_mem_cons.1 hl
    intro s
    rw [List.foldl_cons, List.foldl_cons, ih hrs, ← hr, perform_poison]

theorem poisoned_eq (s : State) (line : Nat) : s.poisoned line =
    ((s.queuedAt (line * 128)).filter (·.line == line)).foldl poisonAfter (s.poison.contains line) := by
  rw [State.poisoned, List.foldl_filter]
  refine congrArg (fun f => List.foldl f _ _) ?_
  funext p r
  by_cases h : r.line = line <;> simp [h, poisonAfter]

theorem putQueuedAt_poison (s : State) (pa : Nat) (q : List SliceReq) : (s.putQueuedAt pa q).poison = s.poison := by
  unfold State.putQueuedAt
  split <;> rfl

/-- Performing what is queued for a line leaves its poison as an access after them finds it. -/
theorem settle_poisoned {s : State} {line : Nat}
    (hk : ∀ r ∈ s.queuedAt (line * 128), r.line = line → r.key = tfind s.sealed line) :
    (s.settle line).poisoned line = s.poisoned line := by
  have hnil : ((s.settle line).queuedAt (line * 128)).filter (·.line == line) = [] :=
    List.filter_eq_nil_iff.2 fun r hr => by simpa using settle_queue_line hk r hr
  rw [poisoned_eq, hnil, List.foldl_nil]
  rcases settle_cases hk with ⟨h, hne⟩ | ⟨u, hu, h, -, -⟩
  · rw [h] at hnil ⊢
    rw [poisoned_eq, hnil, List.foldl_nil]
  · rw [h, putQueuedAt_poison, hu, performs_poison line _ (fun r hr => by simpa using (List.mem_filter.1 hr).2), poisoned_eq]

/-! ## One line written at home (R325, R383) -/

theorem useKey_agreed {s : State} {line : Nat} {key : Option Nat} (h : tfind s.sealed line = key) : s.useKey line key = s :=
  if_pos h

theorem keyAgrees_settle {s : State} {line : Nat} {key : Option Nat} (h : KeyAgrees s line key) :
    ∀ r ∈ s.queuedAt (line * 128), r.line = line → r.key = tfind s.sealed line := by
  obtain ⟨hs, hq⟩ := h
  exact fun r hr hl => (hq r hr hl).trans hs.symm

theorem MemOnly.keyAgrees {s t : State} (hm : MemOnly s t) (hq : ∀ a, ∀ r ∈ t.queuedAt a, r ∈ s.queuedAt a) {line : Nat}
    {key : Option Nat} (h : KeyAgrees s line key) : KeyAgrees t line key := by
  exact ⟨hm.sealed ▸ h.1, fun r hr => h.2 r (hq _ r hr)⟩

theorem settle_memOnly {s : State} {line : Nat} {key : Option Nat} (h : KeyAgrees s line key) : MemOnly s (s.settle line) :=
  settle_rest s line (keyAgrees_settle h)

/-- Cells of a line written at home under its key. -/
theorem writeHome_spec {s : State} {line : Nat} {key : Option Nat} (h : KeyAgrees s line key) {cs : List Host.Cell}
    (hcs : ∀ c ∈ cs, c.1 / 128 = line) (slice : Option Nat) :
    MemOnly s (s.writeHome line cs slice key) ∧
    (∀ a, (s.writeHome line cs slice key).home a = (lastOf a cs).getD (s.home a)) ∧
    ∀ a, ∀ r ∈ (s.writeHome line cs slice key).queuedAt a, r ∈ s.queuedAt a := by
  have hk := keyAgrees_settle h
  have hmem := settle_memOnly h
  have hsealed : tfind (s.settle line).sealed line = key := by rw [hmem.sealed, h.1]
  have hhome := home_pokes (settle_queue_line hk) hcs
  have hpoison : ∀ p, let y : State := { (s.settle line).pokes cs with poison := p }
      MemOnly s (y.touch slice line true key) ∧ (∀ a, (y.touch slice line true key).home a = (lastOf a cs).getD (s.home a)) ∧
      ∀ a, ∀ r ∈ (y.touch slice line true key).queuedAt a, r ∈ s.queuedAt a := by
    intro p y
    obtain ⟨hm, hq, hb, -⟩ := touch_memOnly y slice line true key
    have hy : MemOnly s y := by
      unfold MemOnly at *
      rw [← hmem]
      rfl
    refine ⟨hy.trans hm, fun a => ?_, fun a => ?_⟩
    · rw [home_congr (hq a) hb hm.mem, show y.home a = ((s.settle line).pokes cs).home a from rfl, hhome a, settle_home s line hk]
    · rw [hq]
      exact settle_queuedAt_subset hk a
  unfold State.writeHome
  rw [useKey_agreed hsealed]
  simp only
  split
  · exact hpoison _
  · exact hpoison _

/-! ## Many lines written at home (R277, R280) -/

theorem mem_linesOf {cs : List Host.Cell} {l : Nat} : l ∈ linesOf cs ↔ ∃ c ∈ cs, c.1 / 128 = l := by
  have hgen : ∀ (cs : List Host.Cell) (a : List Nat),
      l ∈ cs.foldl (fun a c => if a.contains (c.1 / 128) then a else a ++ [c.1 / 128]) a ↔ l ∈ a ∨ ∃ c ∈ cs, c.1 / 128 = l := by
    intro cs
    induction cs with
    | nil => simp
    | cons c cs ih =>
      intro a
      rw [List.foldl_cons, ih]
      by_cases hc : c.1 / 128 ∈ a
      · rw [if_pos (by simpa using hc)]
        constructor
        · rintro (h | ⟨d, hd, rfl⟩)
          · exact .inl h
          · exact .inr ⟨d, List.mem_cons_of_mem _ hd, rfl⟩
        · rintro (h | ⟨d, hd, rfl⟩)
          · exact .inl h
          · rcases List.mem_cons.1 hd with rfl | hd
            · exact .inl hc
            · exact .inr ⟨d, hd, rfl⟩
      · rw [if_neg (by simpa using hc)]
        simp [or_assoc, eq_comm]
  exact (hgen cs []).trans (by simp)

theorem lastOf_eq_none {a : Nat} {cs : List Host.Cell} (h : ∀ c ∈ cs, c.1 ≠ a) : lastOf a cs = none := by
  induction cs with
  | nil => rfl
  | cons c cs ih =>
    obtain ⟨hc, hcs⟩ := List.forall_mem_cons.1 h
    rw [lastOf, ih hcs]
    exact if_neg hc

/-- Cells of any lines written at home, each line under its key. -/
theorem writesHome_spec {s : State} {cs : List Host.Cell} {key : Option Nat} (slice : Option Nat)
    (h : ∀ c ∈ cs, KeyAgrees s (c.1 / 128) key) : MemOnly s (s.writesHome cs slice key) ∧
    ∀ a, (s.writesHome cs slice key).home a = (lastOf a cs).getD (s.home a) := by
  have hgen : ∀ (ls : List Nat) (s : State), (∀ l ∈ ls, KeyAgrees s l key) →
      MemOnly s (ls.foldl (fun s l => s.writeHome l (cs.filter fun c => c.1 / 128 == l) slice key) s) ∧
      ∀ a, (ls.foldl (fun s l => s.writeHome l (cs.filter fun c => c.1 / 128 == l) slice key) s).home a =
        (if a / 128 ∈ ls then lastOf a cs else none).getD (s.home a) := by
    intro ls
    induction ls with
    | nil => exact fun s _ => ⟨rfl, fun a => by simp⟩
    | cons l ls ih =>
      intro s hs
      obtain ⟨hl, hls⟩ := List.forall_mem_cons.1 hs
      obtain ⟨hm, hhome, hq⟩ := writeHome_spec hl (cs := cs.filter fun c => c.1 / 128 == l)
        (fun c hc => by simpa using (List.mem_filter.1 hc).2) slice
      obtain ⟨hm', hhome'⟩ := ih _ fun l' hl' => hm.keyAgrees hq (hls l' hl')
      refine ⟨hm.trans hm', fun a => ?_⟩
      rw [List.foldl_cons, hhome', hhome, lastOf_filter]
      by_cases ha : a / 128 = l
      · by_cases hin : a / 128 ∈ ls
        · rw [if_pos hin, if_pos ha, if_pos (List.mem_cons_of_mem _ hin)]
          cases lastOf a cs <;> rfl
        · rw [if_neg hin, if_pos ha, if_pos (ha ▸ List.mem_cons_self), Option.getD_none]
      · have hiff : a / 128 ∈ l :: ls ↔ a / 128 ∈ ls := by simp [ha]
        simp only [if_neg ha, hiff, Option.getD_none]
  obtain ⟨hm, hhome⟩ := hgen (linesOf cs) s fun l hl => by
    obtain ⟨c, hc, rfl⟩ := mem_linesOf.1 hl
    exact h c hc
  refine ⟨hm, fun a => (hhome a).trans ?_⟩
  by_cases ha : a / 128 ∈ linesOf cs
  · rw [if_pos ha]
  · rw [if_neg ha, lastOf_eq_none fun c hc he => ha (mem_linesOf.2 ⟨c, hc, by rw [he]⟩)]

end Sys2Proof.Proofs.HomeWrites
end

section
/-!
PROOFS. What a multiply adds to the accumulators (R64, R264, R266, R269): the values of its rows, its block sums, and the reserved
ternary bytes that it counts.
-/
namespace Sys2Proof.Proofs.Multiplies
open Sys2Proof Sys2Proof.Machine Sys2Proof.Safety Sys2Proof.Proofs.EngineStores

/-! ## The values of a row -/

theorem slotK_mod (w : Half) : slotK w % 16 = 0 := by
  unfold slotK
  split
  · rfl
  · rfl
  · rfl
  · rfl
  · split <;> rfl
  · rfl

theorem kOf_mod (m : MatOp) : kOf m % 16 = 0 := by
  unfold kOf
  rcases min_choice (slotK m.fa) (slotK m.fb) with h | h <;> rw [h] <;> exact slotK_mod _

theorem matRow_vals_block (w : Half) {n k : Nat} (bytes : List Byte) (hn : n % 16 = 0) (hk : k < n / 16) :
    ((matRow w n bytes).vals.drop (16 * k)).take 16 = (List.range 16).map fun e => rowElem w (fun i => bytes.getD i 0) (16 * k + e) := by
  refine List.ext_getElem? fun i => ?_
  by_cases hi : i < 16
  · rw [List.getElem?_take_of_lt hi, List.getElem?_drop, List.getElem?_map, List.getElem?_range hi, matRow, List.getElem?_map,
      List.getElem?_range (by omega)]
    rfl
  · rw [List.getElem?_eq_none (by simp; omega), List.getElem?_eq_none (by simp; omega)]

theorem matRow_scale (w : Half) {n k : Nat} (bytes : List Byte) (hk : k < n / 16) :
    (matRow w n bytes).scales.getD k (.num false 1 0) = rowScale w n (fun i => bytes.getD i 0) k := by
  rw [matRow, List.getD_eq_getElem?_getD, List.getElem?_map, List.getElem?_range hk]
  rfl

/-! ## Block sums (R64) -/

/-- The block sums of a row of A with a row of B, in increasing K. -/
def rowSums (m : MatOp) (a b : MatRow) : List Nat :=
  (List.range (kOf m / 16)).map fun k =>
    blockSum m.pc (((a.vals.drop (16 * k)).take 16).zip ((b.vals.drop (16 * k)).take 16))
      [a.scales.getD k (.num false 1 0), b.scales.getD k (.num false 1 0), f32.decode m.ta.toNat, f32.decode m.tb.toNat]

/-- Row i of A as the engine reads it. -/
def aRow (s : State) (m : MatOp) (i : Nat) : List Byte :=
  (List.range (rowBytes m.fa (kOf m))).map fun b => s.engByte m.aCore (m.aOff + i * m.aStride + b)

/-- Row j of B as the pass read it. -/
def bRow (m : MatOp) (j : Nat) : List Byte := (m.bRows.getD []).getD j []

theorem aRow_getD (s : State) (m : MatOp) (i x : Nat) : (aRow s m i).getD x 0 = aByte s m i x := by
  rw [aRow, aByte, List.getD_eq_getElem?_getD, List.getElem?_map]
  split
  · rename_i h
    rw [List.getElem?_range h]
    rfl
  · rename_i h
    rw [List.getElem?_eq_none (by simpa using h)]
    rfl

theorem rowSums_eq (s : State) (m : MatOp) (i j : Nat) :
    rowSums m (matRow m.fa (kOf m) (aRow s m i)) (matRow m.fb (kOf m) (bRow m j)) = blockSums s m i j := by
  refine List.map_congr_left fun k hk => ?_
  have hk' : k < kOf m / 16 := List.mem_range.1 hk
  have ha : (fun x => (aRow s m i).getD x 0) = aByte s m i := funext fun x => aRow_getD s m i x
  have hb : (fun x => (bRow m j).getD x 0) = bByte m j := rfl
  rw [matRow_vals_block _ _ (kOf_mod m) hk', matRow_vals_block _ _ (kOf_mod m) hk', matRow_scale _ _ hk', matRow_scale _ _ hk', ha, hb,
    List.zip_map']

/-! ## The run over the rows (R266) -/

theorem foldl_zipIdx {α σ : Type} (d : α) (f : σ → α × Nat → σ) (l : List α) (s : σ) :
    l.zipIdx.foldl f s = (List.range l.length).foldl (fun s i => f s (l.getD i d, i)) s := by
  have hl : l.zipIdx = (List.range l.length).map fun i => (l.getD i d, i) := by
    refine List.ext_getElem? fun i => ?_
    rw [List.getElem?_zipIdx, List.getElem?_map]
    by_cases hi : i < l.length
    · rw [List.getElem?_range hi, List.getElem?_eq_getElem hi]
      simp [List.getElem?_eq_getElem hi]
    · rw [List.getElem?_eq_none (by omega), List.getElem?_eq_none (by simpa using hi)]
      rfl
  rw [hl, List.foldl_map]

/-- The accumulator store after a multiply. -/
def multiplied (s : State) (core : Nat) (m : MatOp) : State :=
  (regionPlaces 16 16).foldl (fun t p => updAcc t core (m.row + p.1, m.col + p.2) fun x =>
    (rowSums m (matRow m.fa (kOf m) (aRow s m p.1)) (matRow m.fb (kOf m) (bRow m p.2))).foldl (accAdd m.pc) x) s

/-- The places of the reserved ternary bytes that a multiply reads. -/
def reservedPlaces (s : State) (m : MatOp) : List (Nat × Nat) :=
  onceEach (badTrits m.fa (kOf m) m.aCore m.aOff m.aStride ((List.range 16).map (aRow s m)) ++
    badTrits m.fb (kOf m) m.bCore m.bOff m.bStride (m.bRows.getD []))

/-- A core that has counted encoding errors. -/
def countErrors (n : Nat) (c : Core) : Core := { c with encerr := BitVec.ofNat 32 (min (c.encerr.toNat + n) (2 ^ 32 - 1)) }

theorem mmaEffect_eq (s : State) (core : Nat) {m : MatOp} {rows : List (List Byte)} (hb : m.bRows = some rows) (hl : rows.length = 16) :
    s.mmaEffect core m = (multiplied s core m).onCore core (countErrors (reservedPlaces s m).length) := by
  have hrun : multiplied s core m = (((List.range 16).map (aRow s m)).map (matRow m.fa (kOf m))).zipIdx.foldl (fun s a =>
      ((m.bRows.getD []).map (matRow m.fb (kOf m))).zipIdx.foldl (fun s b =>
        s.putAcc core (m.row + a.2) (m.col + b.2)
          ((rowSums m a.1 b.1).foldl (accAdd m.pc) (s.accWord core (m.row + a.2) (m.col + b.2)))) s) s := by
    have hbl : ((m.bRows.getD []).map (matRow m.fb (kOf m))).length = 16 := by rw [hb]; simpa using hl
    have hal : (((List.range 16).map (aRow s m)).map (matRow m.fa (kOf m))).length = 16 := by simp
    rw [foldl_zipIdx ⟨[], []⟩, hal]
    simp only [foldl_zipIdx (⟨[], []⟩ : MatRow) _ ((m.bRows.getD []).map (matRow m.fb (kOf m))), hbl]
    refine Eq.trans ?_ (foldl_region 16 16 (fun (t : State) (p : Nat × Nat) => t.putAcc core (m.row + p.1) (m.col + p.2)
      ((rowSums m ((((List.range 16).map (aRow s m)).map (matRow m.fa (kOf m))).getD p.1 ⟨[], []⟩)
        (((m.bRows.getD []).map (matRow m.fb (kOf m))).getD p.2 ⟨[], []⟩)).foldl (accAdd m.pc)
          (t.accWord core (m.row + p.1) (m.col + p.2)))) s).symm
    refine List.foldl_ext _ _ _ fun t p hp => ?_
    obtain ⟨h1, h2⟩ := mem_regionPlaces.1 hp
    have ha : (((List.range 16).map (aRow s m)).map (matRow m.fa (kOf m))).getD p.1 ⟨[], []⟩ = matRow m.fa (kOf m) (aRow s m p.1) := by
      rw [List.getD_eq_getElem?_getD, List.getElem?_map, List.getElem?_map, List.getElem?_range h1]
      rfl
    have hbr : ((m.bRows.getD []).map (matRow m.fb (kOf m))).getD p.2 ⟨[], []⟩ = matRow m.fb (kOf m) (bRow m p.2) := by
      rw [List.getD_eq_getElem?_getD, List.getElem?_map, bRow, List.getD_eq_getElem?_getD]
      have : p.2 < (m.bRows.getD []).length := by rw [hb]; simpa [hl] using h2
      rw [List.getElem?_eq_getElem this]
      rfl
    rw [ha, hbr]
    rfl
  rw [hrun]
  rfl

/-! ## Reserved ternary bytes (R264) -/

theorem elemBytes_ternary {w : Half} (h : slotKind w = 6) (n : Nat) : elemBytes w n = (n + 4) / 5 := by
  simp only [elemBytes, h]

theorem mem_badTrits {w : Half} {n core off stride : Nat} {rows : List (List Byte)} {c o : Nat} :
    (c, o) ∈ badTrits w n core off stride rows ↔ slotKind w = 6 ∧ ∃ i x, i < rows.length ∧ x < (n + 4) / 5 ∧
      243 ≤ ((rows.getD i []).getD x 0).toNat ∧ c = core ∧ o = off + i * stride + x := by
  by_cases h6 : slotKind w = 6
  case neg => simp [badTrits, h6]
  have hne : (slotKind w != 6) = false := by simp [h6]
  rw [badTrits, hne]
  simp only [Bool.false_eq_true, if_false, List.mem_flatMap, List.mem_filterMap, h6, true_and, elemBytes_ternary h6]
  constructor
  · rintro ⟨⟨row, i⟩, hrow, ⟨b, x⟩, hb, hsome⟩
    have hrow' := List.mk_mem_zipIdx_iff_getElem?.1 hrow
    have hb' := List.mk_mem_zipIdx_iff_getElem?.1 hb
    simp only at hsome hb'
    split at hsome
    · rename_i h243
      simp only [Option.some.injEq, Prod.mk.injEq] at hsome
      rw [List.getElem?_take] at hb'
      split at hb'
      · rename_i hx
        refine ⟨i, x, (List.getElem?_eq_some_iff.1 hrow').1, hx, ?_, hsome.1.symm, hsome.2.symm⟩
        rw [List.getD_eq_getElem?_getD, List.getD_eq_getElem?_getD, hrow', Option.getD_some, hb', Option.getD_some]
        exact h243
      · cases hb'
    · cases hsome
  · rintro ⟨i, x, hi, hx, h243, rfl, rfl⟩
    rw [List.getD_eq_getElem?_getD, List.getD_eq_getElem?_getD, List.getElem?_eq_getElem hi, Option.getD_some] at h243
    have hxl : x < rows[i].length := by
      by_contra hge
      rw [List.getElem?_eq_none (by omega)] at h243
      exact absurd h243 (by decide)
    rw [List.getElem?_eq_getElem hxl, Option.getD_some] at h243
    refine ⟨(rows[i], i), List.mk_mem_zipIdx_iff_getElem?.2 (List.getElem?_eq_getElem hi), (rows[i][x], x), ?_, if_pos h243⟩
    refine List.mk_mem_zipIdx_iff_getElem?.2 ?_
    rw [List.getElem?_take_of_lt hx, List.getElem?_eq_getElem hxl]

theorem onceEach_spec (xs : List (Nat × Nat)) : (onceEach xs).Nodup ∧ ∀ p, p ∈ onceEach xs ↔ p ∈ xs := by
  have hgen : ∀ (xs a : List (Nat × Nat)), a.Nodup →
      (xs.foldl (fun a x => if a.contains x then a else a ++ [x]) a).Nodup ∧
      ∀ p, p ∈ xs.foldl (fun a x => if a.contains x then a else a ++ [x]) a ↔ p ∈ a ∨ p ∈ xs := by
    intro xs
    induction xs with
    | nil => exact fun a ha => ⟨ha, by simp⟩
    | cons x xs ih =>
      intro a ha
      rw [List.foldl_cons]
      by_cases hx : x ∈ a
      · rw [if_pos (by simpa using hx)]
        obtain ⟨hn, hm⟩ := ih a ha
        refine ⟨hn, fun p => (hm p).trans ⟨fun h => h.imp_right (List.mem_cons_of_mem _), ?_⟩⟩
        rintro (h | h)
        · exact .inl h
        · rcases List.mem_cons.1 h with rfl | h
          · exact .inl hx
          · exact .inr h
      · rw [if_neg (by simpa using hx)]
        have hax : (a ++ [x]).Nodup := List.nodup_append.2 ⟨ha, by simp, by
          intro y hy z hz he
          rw [List.mem_singleton] at hz
          exact hx (hz ▸ he ▸ hy)⟩
        obtain ⟨hn, hm⟩ := ih _ hax
        exact ⟨hn, fun p => (hm p).trans (by simp [or_assoc])⟩
  obtain ⟨hn, hm⟩ := hgen xs [] (by simp)
  exact ⟨hn, fun p => (hm p).trans (by simp)⟩

theorem mem_reservedPlaces {s : State} {m : MatOp} {rows : List (List Byte)} (hb : m.bRows = some rows) (hl : rows.length = 16)
    (c o : Nat) : (c, o) ∈ reservedPlaces s m ↔ ReservedAt s m c o := by
  have ha : ∀ i, i < 16 → ((List.range 16).map (aRow s m)).getD i [] = aRow s m i := by
    intro i hi
    rw [List.getD_eq_getElem?_getD, List.getElem?_map, List.getElem?_range hi]
    rfl
  have hlen : (m.bRows.getD []).length = 16 := by rw [hb]; exact hl
  rw [reservedPlaces, (onceEach_spec _).2, List.mem_append, mem_badTrits, mem_badTrits, ReservedAt, hlen,
    List.length_map, List.length_range]
  refine or_congr (and_congr_right fun _ => exists_congr fun i => exists_congr fun x => and_congr_right fun hi => ?_) Iff.rfl
  rw [ha i hi, aRow_getD]

end Sys2Proof.Proofs.Multiplies
end

section
/-!
PROOFS. The completion of a matrix operation (R264, R266, R275-R281): what each kind leaves of the accumulator store, of local
memory and of memory, and what the completion leaves alone.
-/
namespace Sys2Proof.Proofs.Completions
open Sys2Proof Sys2Proof.Machine Sys2Proof.Safety Sys2Proof.Proofs.EngineStores Sys2Proof.Proofs.HomeWrites
open Sys2Proof.Proofs.Multiplies

/-! ## What every kind keeps -/

/-- The effect of an operation and what it leaves alone, before the operation leaves the engine. -/
structure EngineEffect (s t : State) (core : Nat) (m : MatOp) : Prop where
  frame : { t with cores := s.cores, stackTab := s.stackTab, edge := s.edge, poison := s.poison, free := s.free, bus := s.bus } = s
  own : { t.core core with
    acc := (s.core core).acc, mem := (s.core core).mem, memPoison := (s.core core).memPoison, encerr := (s.core core).encerr } =
      s.core core
  encerr : m.kind ≠ .mma → (t.core core).encerr = (s.core core).encerr
  others : ∀ c, c ≠ core → { t.core c with mem := (s.core c).mem, memPoison := (s.core c).memPoison } = s.core c
  effect : MatEffect s t core m
  outside : ∀ r c, c < 256 → ¬ inRegion m r c → t.accWord core r c = s.accWord core r c
  home : ∀ a, t.home a = (tileByteAt s core m a).getD (s.home a)

/-- Nothing at home differs where memory, the queues and the writes of the step do not. -/
theorem home_of_cores {s t : State} (h : { t with cores := s.cores, free := s.free } = s) (a : Nat) : t.home a = s.home a := by
  have hst : t.stackTab = s.stackTab := by have h' := congrArg State.stackTab h; exact h'
  have hed : t.edge = s.edge := by have h' := congrArg State.edge h; exact h'
  have hb : t.bus = s.bus := by have h' := congrArg State.bus h; exact h'
  have hm : t.mem = s.mem := by have h' := congrArg State.mem h; exact h'
  exact home_congr (by rw [queuedAt_eq, queuedAt_eq, hst, hed]) hb hm

theorem tileByteAt_of_ne {s : State} {core : Nat} {m : MatOp} (h : m.kind ≠ .drain ∨ m.tilePa = none) (a : Nat) :
    tileByteAt s core m a = none := by
  unfold tileByteAt
  split
  · rename_i pa h1 h2
    rcases h with h | h
    · exact absurd h1 h
    · rw [h] at h2; cases h2
  · rfl

theorem locByte_of_accOnly {core : Nat} {s t : State} (h : AccOnly core s t) (c a : Nat) : t.locByte c a = s.locByte c a := by
  obtain ⟨-, hown, hothers⟩ := h
  by_cases hc : c = core
  · subst hc
    have h' := congrArg Core.mem hown
    exact congrArg (fun t => tget 0 t a) h'
  · rw [State.locByte, hothers c hc]
    rfl

/-- The effect of a kind that changes the accumulator store alone, and perhaps the count of free values. -/
theorem EngineEffect.ofAcc {s t : State} {core : Nat} {m : MatOp} {free : Nat} (h : AccOnly core s t)
    (hkind : m.kind ≠ .mma ∧ m.kind ≠ .drain) (heffect : MatEffect s { t with free } core m)
    (hout : ∀ r c, c < 256 → ¬ inRegion m r c → t.accWord core r c = s.accWord core r c) :
    EngineEffect s { t with free } core m := by
  obtain ⟨hs, hown, hothers⟩ := h
  have hframe : { ({ t with free } : State) with cores := s.cores, free := s.free } = s := by rw [← hs]
  have hcore : ∀ c, ({ t with free } : State).core c = t.core c := fun c => rfl
  refine ⟨?_, ?_, fun _ => ?_, fun c hc => ?_, heffect, hout, fun a => ?_⟩
  · rw [← hframe]
  · rw [hcore, ← hown]
  · have h' := congrArg Core.encerr hown
    exact h'
  · rw [hcore, hothers c hc]
  · rw [home_of_cores hframe, tileByteAt_of_ne (.inl hkind.2)]
    rfl

/-! ## Zeros, loads and register writes (R275, R276, R282) -/

theorem matEffect_zero {s : State} {core : Nat} {m : MatOp} (h : m.kind = .zero) : s.matEffect core m =
    (regionPlaces m.rows m.cols).foldl (fun t p => updAcc t core (m.row + p.1, m.col + p.2) fun _ => 0) s := by
  unfold State.matEffect
  rw [h]
  exact foldl_region m.rows m.cols (fun (t : State) (p : Nat × Nat) => t.putAcc core (m.row + p.1) (m.col + p.2) 0) s

/-- The word that a load brings for a place of its region. -/
def loadWord (s : State) (m : MatOp) (p : Nat × Nat) : Word :=
  BitVec.ofNat 32 (bytesLE (s.engByte m.aCore) (m.aOff + p.1 * m.aStride + 4 * p.2) 4)

theorem matEffect_load {s : State} {core : Nat} {m : MatOp} (h : m.kind = .load) : s.matEffect core m =
    { (regionPlaces m.rows m.cols).foldl (fun t p => updAcc t core (m.row + p.1, m.col + p.2) fun _ => loadWord s m p) s with
      free := s.free + 1 } := by
  unfold State.matEffect
  rw [h]
  refine congrArg (fun t : State => { t with free := s.free + 1 }) ?_
  exact foldl_region m.rows m.cols (fun (t : State) (p : Nat × Nat) => t.putAcc core (m.row + p.1) (m.col + p.2) (loadWord s m p)) s

theorem matEffect_write {s : State} {core : Nat} {m : MatOp} (h : m.kind = .write) : s.matEffect core m =
    m.words.foldl (fun t e => updAcc t core (m.row + e.1 / 16, m.col + e.1 % 16) fun _ => e.2) s := by
  unfold State.matEffect
  rw [h]
  rfl

theorem inRegion_place {m : MatOp} {i j : Nat} (hi : i < m.rows) (hj : j < m.cols) : inRegion m (m.row + i) (m.col + j) :=
  ⟨Nat.le_add_right .., by omega, Nat.le_add_right .., by omega⟩

/-- A run over the places of a region, each given what its own value gives. -/
theorem region_run (s : State) (core : Nat) {m : MatOp} (hcols : m.col + m.cols ≤ 256) (val : Nat × Nat → Word → Word) :
    let t := (regionPlaces m.rows m.cols).foldl (fun t p => updAcc t core (m.row + p.1, m.col + p.2) (val p)) s
    AccOnly core s t ∧ (∀ i j, i < m.rows → j < m.cols →
      t.accWord core (m.row + i) (m.col + j) = val (i, j) (s.accWord core (m.row + i) (m.col + j))) ∧
    ∀ r c, c < 256 → ¬ inRegion m r c → t.accWord core r c = s.accWord core r c := by
  obtain ⟨hframe, hval, hout⟩ := foldl_updAcc core (fun p : Nat × Nat => (m.row + p.1, m.col + p.2)) val (regionPlaces m.rows m.cols) s
    (nodup_regionPlaces ..) fun p hp => by have := (mem_regionPlaces.1 hp).2; simp only; omega
  refine ⟨hframe, fun i j hi hj => hval (i, j) (mem_regionPlaces.2 ⟨hi, hj⟩), fun r c hc hno => hout r c hc fun p hp he => ?_⟩
  obtain ⟨h1, h2⟩ := mem_regionPlaces.1 hp
  simp only [Prod.mk.injEq] at he
  obtain ⟨rfl, rfl⟩ := he
  exact hno (inRegion_place h1 h2)

theorem engineEffect_zero {s : State} {core : Nat} {m : MatOp} (h : m.kind = .zero) (hcols : m.col + m.cols ≤ 256) :
    EngineEffect s (s.matEffect core m) core m := by
  obtain ⟨hframe, hval, hout⟩ := region_run s core hcols fun _ _ => 0
  rw [matEffect_zero h]
  refine EngineEffect.ofAcc (free := _) hframe (by rw [h]; decide) (.zero h (fun r c hc hin => ?_) (locByte_of_accOnly hframe)) hout
  obtain ⟨h1, h2, h3, h4⟩ := hin
  obtain ⟨i, rfl⟩ := Nat.exists_eq_add_of_le h1
  obtain ⟨j, rfl⟩ := Nat.exists_eq_add_of_le h3
  exact hval i j (by omega) (by omega)

theorem engineEffect_load {s : State} {core : Nat} {m : MatOp} (h : m.kind = .load) (hcols : m.col + m.cols ≤ 256) :
    EngineEffect s (s.matEffect core m) core m := by
  obtain ⟨hframe, hval, hout⟩ := region_run s core hcols fun p _ => loadWord s m p
  have hloc := locByte_of_accOnly hframe
  rw [matEffect_load h]
  exact EngineEffect.ofAcc hframe (by rw [h]; decide) (.load h hval hloc) hout

theorem tfind_of_mem {α : Type} {t : Table α} (hn : (t.map (·.1)).Nodup) {e : Nat × α} (he : e ∈ t) : tfind t e.1 = some e.2 := by
  induction t with
  | nil => cases he
  | cons x xs ih =>
    obtain ⟨k, v⟩ := x
    rw [List.map_cons, List.nodup_cons] at hn
    rw [tfind_cons]
    rcases List.mem_cons.1 he with rfl | he
    · exact if_pos rfl
    · rw [if_neg fun hk : k = e.1 => hn.1 (List.mem_map.2 ⟨e, he, hk.symm⟩), ih hn.2 he]

theorem tfind_none_of_not_mem {α : Type} {t : Table α} {n : Nat} (h : ∀ e ∈ t, e.1 ≠ n) : tfind t n = none := by
  induction t with
  | nil => rfl
  | cons x xs ih =>
    obtain ⟨k, v⟩ := x
    obtain ⟨hk, hxs⟩ := List.forall_mem_cons.1 h
    rw [tfind_cons, if_neg hk, ih hxs]

theorem engineEffect_write {s : State} {core : Nat} {m : MatOp} (h : m.kind = .write) (hcols : m.col + m.cols ≤ 256)
    (hsize : m.rows = 16 ∧ m.cols = 16) (hn : (m.words.map (·.1)).Nodup) (hlt : ∀ e ∈ m.words, e.1 < 256) :
    EngineEffect s (s.matEffect core m) core m := by
  obtain ⟨hrows, hcol16⟩ := hsize
  obtain ⟨hframe, hval, hout⟩ := foldl_updAcc core (fun e : Nat × Word => (m.row + e.1 / 16, m.col + e.1 % 16)) (fun e _ => e.2)
    m.words s (by
      rw [show (fun e : Nat × Word => (m.row + e.1 / 16, m.col + e.1 % 16)) =
        (fun n : Nat => (m.row + n / 16, m.col + n % 16)) ∘ (·.1) from rfl, ← List.map_map]
      refine hn.map fun a b hab => ?_
      simp only [Prod.mk.injEq] at hab
      omega) fun e _ => by simp only; omega
  rw [matEffect_write h]
  refine EngineEffect.ofAcc (free := _) hframe (by rw [h]; decide) (.write h (fun e he => ?_) (locByte_of_accOnly hframe))
    fun r c hc hno => hout r c hc fun e he heq => ?_
  · by_cases hin : ∃ x ∈ m.words, x.1 = e
    · obtain ⟨x, hx, rfl⟩ := hin
      rw [tfind_of_mem hn hx]
      exact hval x hx
    · rw [tfind_none_of_not_mem fun x hx hxe => hin ⟨x, hx, hxe⟩]
      refine hout _ _ (by omega) fun x hx heq => hin ⟨x, hx, ?_⟩
      simp only [Prod.mk.injEq] at heq
      omega
  · simp only [Prod.mk.injEq] at heq
    obtain ⟨rfl, rfl⟩ := heq
    have := hlt e he
    exact hno (inRegion_place (by omega) (by omega))

/-! ## Multiplies (R266) -/

/-- A state whose accumulators a multiply has changed, once it has counted its errors. -/
def counted (u : State) (core n free : Nat) : State := { u.onCore core (countErrors n) with free }

section Counted
variable {s u : State} {core : Nat} (hu : AccOnly core s u) (n free : Nat)

theorem core_counted (u : State) (core n free : Nat) : (counted u core n free).core core = countErrors n (u.core core) :=
  State.core_onCore_self u core (countErrors n)

theorem accWord_counted (u : State) (core n free r c : Nat) : (counted u core n free).accWord core r c = u.accWord core r c := by
  rw [State.accWord, core_counted]
  rfl

include hu

theorem core_counted_ne {c : Nat} (hc : c ≠ core) : (counted u core n free).core c = s.core c :=
  (core_onCore_ne u (countErrors n) hc.symm).trans (hu.2.2 c hc)

theorem counted_frame : { counted u core n free with cores := s.cores, free := s.free } = s := by
  obtain ⟨hs, -, -⟩ := hu
  refine Eq.trans ?_ hs
  rw [← hs]
  rfl

theorem counted_own : { (counted u core n free).core core with
    acc := (s.core core).acc, mem := (s.core core).mem, memPoison := (s.core core).memPoison, encerr := (s.core core).encerr } =
      s.core core := by
  obtain ⟨-, hown, -⟩ := hu
  rw [core_counted, ← hown]
  rfl

theorem encerr_counted : ((counted u core n free).core core).encerr =
    BitVec.ofNat 32 (min ((s.core core).encerr.toNat + n) (2 ^ 32 - 1)) := by
  obtain ⟨-, hown, -⟩ := hu
  have h' := congrArg Core.encerr hown
  rw [core_counted, ← h']
  rfl

theorem locByte_counted (c a : Nat) : (counted u core n free).locByte c a = s.locByte c a := by
  by_cases hc : c = core
  · subst hc
    rw [State.locByte, core_counted]
    exact locByte_of_accOnly hu c a
  · rw [State.locByte, core_counted_ne hu n free hc]
    rfl

end Counted

theorem engineEffect_mma {s : State} {core : Nat} {m : MatOp} (h : m.kind = .mma) (hcols : m.col + m.cols ≤ 256)
    (hsize : m.rows = 16 ∧ m.cols = 16) {rows : List (List Byte)} (hb : m.bRows = some rows) (hl : rows.length = 16) :
    EngineEffect s (s.matEffect core m) core m := by
  obtain ⟨hrows, hcol16⟩ := hsize
  have hrun := region_run s core hcols fun p x =>
    (rowSums m (matRow m.fa (kOf m) (aRow s m p.1)) (matRow m.fb (kOf m) (bRow m p.2))).foldl (accAdd m.pc) x
  rw [hrows, hcol16] at hrun
  obtain ⟨hacc, hval, hout⟩ := hrun
  have heq : s.matEffect core m = { s.mmaEffect core m with free := s.free + 1 } := by
    unfold State.matEffect
    rw [h]
  have hcounted : s.matEffect core m = counted (multiplied s core m) core (reservedPlaces s m).length (s.free + 1) := by
    rw [heq, mmaEffect_eq s core hb hl]
    rfl
  rw [hcounted]
  have hmul : multiplied s core m = (regionPlaces 16 16).foldl (fun t p => updAcc t core (m.row + p.1, m.col + p.2) fun x =>
    (rowSums m (matRow m.fa (kOf m) (aRow s m p.1)) (matRow m.fb (kOf m) (bRow m p.2))).foldl (accAdd m.pc) x) s := rfl
  rw [← hmul] at hacc hval hout
  generalize multiplied s core m = u at hacc hval hout
  have hframe := counted_frame hacc (reservedPlaces s m).length (s.free + 1)
  refine ⟨?_, counted_own hacc _ _, fun hk => absurd h hk, fun c hc => by rw [core_counted_ne hacc _ _ hc],
    .mma h (reservedPlaces s m) (onceEach_spec _).1 (mem_reservedPlaces hb hl) (encerr_counted hacc _ _) (fun i j hi hj => ?_)
      (locByte_counted hacc _ _),
    fun r c hc hno => (accWord_counted u core _ _ r c).trans (hout r c hc hno), fun a => ?_⟩
  · rw [← hframe]
    rfl
  · rw [accWord_counted, hval i j hi hj, rowSums_eq]
  · rw [home_of_cores hframe, tileByteAt_of_ne (.inl (by rw [h]; decide))]
    rfl

/-! ## Stores and drains (R277, R278, R280) -/

theorem getD_converted (s : State) (core : Nat) (m : MatOp) {r : Nat} (hr : r < m.rows) :
    (s.converted core m).getD r [] = convertedRow s core m r := by
  rw [State.converted, List.getD_eq_getElem?_getD, List.getElem?_map, List.getElem?_range hr]
  rfl

theorem storeRows_eq (s : State) (core : Nat) (m : MatOp) : s.storeRows core m = (List.range m.rows).foldl (fun t r =>
    t.locWrite m.aCore (bytesFrom (m.aOff + r * m.aStride) (convertedRow s core m r))) s := by
  have hlen : (s.converted core m).length = m.rows := by simp [State.converted]
  rw [State.storeRows, foldl_zipIdx [], hlen]
  refine List.foldl_ext _ _ _ fun t r hr => ?_
  simp only [getD_converted s core m (List.mem_range.1 hr)]
  rfl

theorem accWord_of_locOnly {c : Nat} {s t : State} (h : LocOnly c s t) (core r k : Nat) : t.accWord core r k = s.accWord core r k := by
  obtain ⟨-, hown, hothers⟩ := h
  by_cases hc : core = c
  · subst hc
    have h' := congrArg Core.acc hown
    exact congrArg (fun x => tget 0 x (256 * r + k)) h'
  · rw [State.accWord, hothers core hc]
    rfl

theorem core_of_locOnly {c : Nat} {s t : State} (h : LocOnly c s t) (k : Nat) :
    { t.core k with mem := (s.core k).mem, memPoison := (s.core k).memPoison } = s.core k := by
  obtain ⟨-, hown, hothers⟩ := h
  by_cases hc : k = c
  · subst hc
    exact hown
  · rw [hothers k hc]

theorem engineEffect_storeRows {s : State} {core : Nat} {m : MatOp} (h : m.kind = .store ∨ (m.kind = .drain ∧ m.tilePa = none)) :
    EngineEffect s (s.storeRows core m) core m := by
  rw [storeRows_eq]
  obtain ⟨hloc, hbyte⟩ := foldl_locWrite m.aCore (fun r => bytesFrom (m.aOff + r * m.aStride) (convertedRow s core m r))
    (List.range m.rows) s
  generalize (List.range m.rows).foldl (fun t r =>
    t.locWrite m.aCore (bytesFrom (m.aOff + r * m.aStride) (convertedRow s core m r))) s = t at hloc hbyte
  have hcore := core_of_locOnly hloc
  have hframe : { t with cores := s.cores, free := s.free } = s := by
    obtain ⟨hs, -, -⟩ := hloc
    rw [← hs]
  have hbytes : ∀ c a, t.locByte c a = (if c = m.aCore then rowByteAt s core m a else none).getD (s.locByte c a) := by
    intro c a
    rw [hbyte, lastOf_runs]
    rfl
  have hne : m.kind ≠ .drain ∨ m.tilePa = none := h.imp (fun h => by rw [h]; decide) fun h => h.2
  refine ⟨?_, ?_, fun _ => ?_, fun c _ => hcore c, .store h (accWord_of_locOnly hloc core) hbytes,
    fun r c _ _ => accWord_of_locOnly hloc core r c, fun a => ?_⟩
  · rw [← hframe]
  · rw [← hcore core]
  · have h' := congrArg Core.encerr (hcore core)
    exact h'
  · rw [home_of_cores hframe, tileByteAt_of_ne hne]
    rfl

theorem matEffect_store {s : State} {core : Nat} {m : MatOp} (h : m.kind = .store ∨ (m.kind = .drain ∧ m.tilePa = none)) :
    s.matEffect core m = s.storeRows core m := by
  unfold State.matEffect
  rcases h with h | ⟨h, hn⟩
  · rw [h]
  · rw [h, hn]

/-- The cells of a drained tile. -/
def tileCells (s : State) (core : Nat) (m : MatOp) (pa : Nat) : List Host.Cell :=
  bytesFrom pa ((List.range m.rows).flatMap (convertedRow s core m))

theorem matEffect_tile {s : State} {core : Nat} {m : MatOp} {pa : Nat} (h : m.kind = .drain) (hpa : m.tilePa = some pa) :
    s.matEffect core m = s.writesHome (tileCells s core m pa) (some m.tileSlice) m.tileKey := by
  unfold State.matEffect
  rw [h, hpa]
  rfl

theorem tileByteAt_eq {s : State} {core : Nat} {m : MatOp} {pa : Nat} (h : m.kind = .drain) (hpa : m.tilePa = some pa) (a : Nat) :
    tileByteAt s core m a = lastOf a (tileCells s core m pa) := by
  rw [tileCells, lastOf_bytesFrom, tileByteAt, h, hpa]

theorem lastOf_isSome {cs : List Host.Cell} {c : Host.Cell} (hc : c ∈ cs) : lastOf c.1 cs ≠ none := by
  induction cs with
  | nil => cases hc
  | cons d ds ih =>
    rw [lastOf]
    cases hl : lastOf c.1 ds with
    | some x => exact Option.some_ne_none x
    | none =>
      rcases List.mem_cons.1 hc with rfl | hd
      · exact (if_pos rfl).trans_ne (Option.some_ne_none _)
      · exact absurd hl (ih hd)

theorem engineEffect_tile {s : State} {core : Nat} {m : MatOp} {pa : Nat} (h : m.kind = .drain) (hpa : m.tilePa = some pa)
    (hkeys : ∀ a, tileByteAt s core m a ≠ none → KeyAgrees s (a / 128) m.tileKey) :
    EngineEffect s (s.matEffect core m) core m := by
  rw [matEffect_tile h hpa]
  obtain ⟨hmem, hhome⟩ := writesHome_spec (s := s) (cs := tileCells s core m pa) (key := m.tileKey) (some m.tileSlice) fun c hc =>
    hkeys c.1 (by rw [tileByteAt_eq h hpa]; exact lastOf_isSome hc)
  generalize s.writesHome (tileCells s core m pa) (some m.tileSlice) m.tileKey = t at hmem hhome
  have hcore : ∀ c, t.core c = s.core c := fun c => by rw [State.core, hmem.cores]; rfl
  have hacc : ∀ r c, t.accWord core r c = s.accWord core r c := fun r c => by rw [State.accWord, hcore]; rfl
  have hloc : ∀ c a, t.locByte c a = s.locByte c a := fun c a => by rw [State.locByte, hcore]; rfl
  refine ⟨?_, by rw [hcore], fun _ => by rw [hcore], fun c _ => by rw [hcore], .tile h pa hpa hacc hloc, fun r c _ _ => hacc r c,
    fun a => by rw [hhome, tileByteAt_eq h hpa]⟩
  unfold MemOnly at hmem
  rw [← hmem]

/-! ## Every kind -/

theorem engineEffect_matEffect {s : State} {core : Nat} {m : MatOp} (hcols : m.col + m.cols ≤ 256)
    (hsize : m.kind = .mma ∨ m.kind = .write → m.rows = 16 ∧ m.cols = 16)
    (hwords : m.kind = .write → (m.words.map (·.1)).Nodup ∧ ∀ e ∈ m.words, e.1 < 256)
    (hrows : m.kind = .mma → ∃ rows, m.bRows = some rows ∧ rows.length = 16)
    (hkeys : m.kind = .drain → ∀ pa, m.tilePa = some pa → ∀ a, tileByteAt s core m a ≠ none → KeyAgrees s (a / 128) m.tileKey) :
    EngineEffect s (s.matEffect core m) core m := by
  cases hk : m.kind with
  | mma =>
    obtain ⟨rows, hb, hl⟩ := hrows hk
    exact engineEffect_mma hk hcols (hsize (.inl hk)) hb hl
  | zero => exact engineEffect_zero hk hcols
  | load => exact engineEffect_load hk hcols
  | store =>
    rw [matEffect_store (.inl hk)]
    exact engineEffect_storeRows (.inl hk)
  | write =>
    obtain ⟨hn, hlt⟩ := hwords hk
    exact engineEffect_write hk hcols (hsize (.inr hk)) hn hlt
  | drain =>
    cases hpa : m.tilePa with
    | none =>
      rw [matEffect_store (.inr ⟨hk, hpa⟩)]
      exact engineEffect_storeRows (.inr ⟨hk, hpa⟩)
    | some pa => exact engineEffect_tile hk hpa (hkeys hk pa hpa)

/-! ## The end of an operation (R271, R281) -/

theorem readyOp_of_completes {s : State} {core idx : Nat} {m : MatOp} (h : Completes s core idx m) :
    readyOp (s.core core).mats idx = some m := by
  obtain ⟨hget, hbefore, -, -⟩ := h
  have hnone : ¬ ((s.core core).mats.take idx).any (fun x => x.group == m.group && x.strands.any m.strands.contains) = true := by
    rw [List.any_eq_true]
    rintro ⟨x, hx, hg⟩
    rw [Bool.and_eq_true, beq_iff_eq, List.any_eq_true] at hg
    obtain ⟨hgroup, k, hk, hin⟩ := hg
    exact hbefore x hx hgroup k hk (by simpa using hin)
  simp only [readyOp, hget]
  exact if_neg hnone

/-- The places of the engine after an operation: a drain with a merge stays, with the largest magnitude of its region. -/
def matsAfter (s : State) (core idx : Nat) (m : MatOp) (mats : List MatOp) : List MatOp :=
  if m.kind = .drain ∧ m.merge ≠ none then lset mats idx { m with drained := true, mergeMax := s.regionMax core m }
  else ldel mats idx

/-- The state in which an operation has completed. -/
def completed (s : State) (core idx : Nat) (m : MatOp) : State :=
  (s.matEffect core m).onCore core fun c => { c with mats := matsAfter s core idx m c.mats }

theorem runs_completed {s : State} {core idx : Nat} {m : MatOp} (h : Completes s core idx m) :
    Runs (.matrixOpComplete core idx) s (commit s (completed s core idx m)) := by
  have hready := readyOp_of_completes h
  obtain ⟨-, -, hrows, hdrained⟩ := h
  have hgo : ¬ (m.kind == .mma && m.bRows.isNone || m.drained) = true := by
    rw [hdrained, Bool.or_false, Bool.and_eq_true, beq_iff_eq]
    rintro ⟨hk, hn⟩
    obtain ⟨rows, hb, -⟩ := hrows hk
    rw [hb] at hn
    cases hn
  have hx : execMatrixOpComplete core idx s = ran s (completed s core idx m) := by
    unfold execMatrixOpComplete
    simp only [hready]
    rw [if_neg hgo]
    by_cases hm : m.kind = .drain ∧ m.merge ≠ none
    · have hb : (m.kind == .drain && m.merge.isSome) = true := by simpa [Option.isSome_iff_ne_none] using hm
      rw [if_pos hb]
      simp only [completed, matsAfter, if_pos hm]
    · have hb : ¬ (m.kind == .drain && m.merge.isSome) = true := by simpa [Option.isSome_iff_ne_none] using hm
      rw [if_neg hb]
      simp only [completed, matsAfter, if_neg hm]
  exact hx

theorem foldl_max_mod (l : List Word) : ∀ a : Nat,
    (l.foldl (fun a x => max a (x.toNat % 2 ^ 31)) a = a ∨
      ∃ x ∈ l, l.foldl (fun a x => max a (x.toNat % 2 ^ 31)) a = x.toNat % 2 ^ 31) ∧
    a ≤ l.foldl (fun a x => max a (x.toNat % 2 ^ 31)) a ∧
    ∀ x ∈ l, x.toNat % 2 ^ 31 ≤ l.foldl (fun a x => max a (x.toNat % 2 ^ 31)) a := by
  induction l with
  | nil => simp
  | cons y ys ih =>
    intro a
    obtain ⟨hin, hge, hall⟩ := ih (max a (y.toNat % 2 ^ 31))
    refine ⟨?_, (le_max_left _ _).trans hge, List.forall_mem_cons.2 ⟨(le_max_right _ _).trans hge, hall⟩⟩
    rw [List.foldl_cons]
    rcases hin with hin | ⟨x, hx, hin⟩
    · rcases max_choice a (y.toNat % 2 ^ 31) with h | h
      · exact .inl (hin.trans h)
      · exact .inr ⟨y, List.mem_cons_self, hin.trans h⟩
    · exact .inr ⟨x, List.mem_cons_of_mem _ hx, hin⟩

/-- The merge word of a drain is the largest magnitude of its region (R281). -/
theorem regionMax_spec (s : State) (core : Nat) (m : MatOp) :
    (∀ i j, i < m.rows → j < m.cols → (s.accWord core (m.row + i) (m.col + j)).toNat % 2 ^ 31 ≤ (s.regionMax core m).toNat) ∧
    (s.regionMax core m = 0 ∨ ∃ i j, i < m.rows ∧ j < m.cols ∧
      (s.regionMax core m).toNat = (s.accWord core (m.row + i) (m.col + j)).toNat % 2 ^ 31) := by
  have hmem : ∀ x, x ∈ (List.range m.rows).flatMap (fun r => s.regionRow core m r) ↔
      ∃ i j, i < m.rows ∧ j < m.cols ∧ x = s.accWord core (m.row + i) (m.col + j) := by
    intro x
    simp only [State.regionRow, List.mem_flatMap, List.mem_map, List.mem_range]
    constructor
    · rintro ⟨i, hi, j, hj, rfl⟩
      exact ⟨i, j, hi, hj, rfl⟩
    · rintro ⟨i, j, hi, hj, rfl⟩
      exact ⟨i, hi, j, hj, rfl⟩
  obtain ⟨hin, -, hall⟩ := foldl_max_mod ((List.range m.rows).flatMap fun r => s.regionRow core m r) 0
  unfold State.regionMax
  generalize ((List.range m.rows).flatMap fun r => s.regionRow core m r).foldl (fun a x => max a (x.toNat % 2 ^ 31)) 0 = v at hin hall
  have hv : v < 2 ^ 32 := by rcases hin with rfl | ⟨x, -, rfl⟩ <;> omega
  have hval : (BitVec.ofNat 32 v).toNat = v := by rw [BitVec.toNat_ofNat]; exact Nat.mod_eq_of_lt hv
  rw [hval]
  refine ⟨fun i j hi hj => hall _ ((hmem _).2 ⟨i, j, hi, hj, rfl⟩), ?_⟩
  rcases hin with rfl | ⟨x, hx, rfl⟩
  · exact .inl rfl
  · obtain ⟨i, j, hi, hj, rfl⟩ := (hmem x).1 hx
    exact .inr ⟨i, j, hi, hj, rfl⟩

/-- An effect is one of any state with the same accumulators, local memory and count of errors. -/
theorem matEffect_congr {s t u : State} {core : Nat} {m : MatOp} (h : MatEffect s t core m)
    (hacc : ∀ r c, u.accWord core r c = t.accWord core r c) (hloc : ∀ c a, u.locByte c a = t.locByte c a)
    (henc : (u.core core).encerr = (t.core core).encerr) : MatEffect s u core m := by
  cases h with
  | mma h bad hn hb he ha hl =>
    exact .mma h bad hn hb (henc.trans he) (fun i j hi hj => (hacc _ _).trans (ha i j hi hj)) fun c a => (hloc c a).trans (hl c a)
  | zero h ha hl => exact .zero h (fun r c hc hr => (hacc r c).trans (ha r c hc hr)) fun c a => (hloc c a).trans (hl c a)
  | load h ha hl => exact .load h (fun i j hi hj => (hacc _ _).trans (ha i j hi hj)) fun c a => (hloc c a).trans (hl c a)
  | write h ha hl => exact .write h (fun e he => (hacc _ _).trans (ha e he)) fun c a => (hloc c a).trans (hl c a)
  | store h ha hl => exact .store h (fun r c => (hacc r c).trans (ha r c)) fun c a => (hloc c a).trans (hl c a)
  | tile h pa h2 ha hl => exact .tile h pa h2 (fun r c => (hacc r c).trans (ha r c)) fun c a => (hloc c a).trans (hl c a)

/-- An operation that completes has its effect, and leaves everything else alone. -/
theorem operation_completes {s : State} {core idx : Nat} {m : MatOp} (h : Completes s core idx m)
    (he : EngineEffect s (s.matEffect core m) core m) (hbus : s.bus = []) :
    ∃ t, Runs (.matrixOpComplete core idx) s t ∧ MatEffect s t core m ∧
      (∀ r c, c < 256 → ¬ inRegion m r c → t.accWord core r c = s.accWord core r c) ∧
      (∀ a, t.home a = (tileByteAt s core m a).getD (s.home a)) ∧
      (t.core core).mats = matsAfter s core idx m (s.core core).mats ∧
      { t with cores := s.cores, stackTab := s.stackTab, edge := s.edge, mem := s.mem, poison := s.poison, free := s.free } = s ∧
      sameButEngine (s.core core) (t.core core) ∧ (m.kind ≠ .mma → (t.core core).encerr = (s.core core).encerr) ∧
      ∀ c, c ≠ core → { t.core c with mem := (s.core c).mem, memPoison := (s.core c).memPoison } = s.core c := by
  obtain ⟨hframe, hown, henc, hothers, heffect, hout, hhome⟩ := he
  have hcompleted : completed s core idx m =
      (s.matEffect core m).onCore core fun c => { c with mats := matsAfter s core idx m c.mats } := rfl
  generalize s.matEffect core m = u at hframe hown henc hothers heffect hout hhome hcompleted
  have hmemu : u.mem = s.mem := by have h' := congrArg State.mem hframe; exact h'
  have hmats : (u.core core).mats = (s.core core).mats := by have h' := congrArg Core.mats hown; exact h'
  have hcore : (commit s (completed s core idx m)).core core =
      { u.core core with mats := matsAfter s core idx m (u.core core).mats } := by
    rw [commit_core, hcompleted]
    exact State.core_onCore_self u core _
  have hne : ∀ c, c ≠ core → (commit s (completed s core idx m)).core c = u.core c := fun c hc => by
    rw [commit_core, hcompleted]
    exact core_onCore_ne u _ hc.symm
  have hacc : ∀ r c, (commit s (completed s core idx m)).accWord core r c = u.accWord core r c := fun r c => by
    rw [State.accWord, hcore]
    rfl
  have hloc : ∀ c a, (commit s (completed s core idx m)).locByte c a = u.locByte c a := by
    intro c a
    by_cases hc : c = core
    · subst hc
      rw [State.locByte, hcore]
      rfl
    · rw [State.locByte, hne c hc]
      rfl
  refine ⟨_, runs_completed h, matEffect_congr heffect hacc hloc (by rw [hcore]), fun r c hc hno => (hacc r c).trans (hout r c hc hno),
    fun a => ?_, by rw [hcore, hmats], ?_, ?_, fun hk => by rw [hcore]; exact henc hk, fun c hc => by rw [hne c hc]; exact hothers c hc⟩
  · rw [← hhome a, home_commit (by rw [hcompleted]; exact hmemu), hcompleted]
    rfl
  · rw [hcompleted]
    refine Eq.trans ?_ hframe
    rw [commit_bus, ← hbus, ← hmemu]
    rfl
  · unfold sameButEngine
    rw [hcore]
    refine Eq.trans ?_ hown
    rw [← hmats]

end Sys2Proof.Proofs.Completions
end

section
/-!
PROOFS. The merge of a drain (R281): the line leaves the core's buffer for its home, and the merge word is rewritten there.
-/
namespace Sys2Proof.Proofs.Merges
open Sys2Proof Sys2Proof.Machine Sys2Proof.Safety
open Sys2Proof.Proofs.EngineStores Sys2Proof.Proofs.HomeWrites

/-! ## A request put at the end of a line's queue (R238, R325) -/

/-- A request queued where a line is performed. -/
def enqueue (s : State) (line : Nat) (r : SliceReq) : State :=
  match nodeOf (line * 128) with
  | .stack n => s.onStack n fun k =>
      { k with queue := tset k.queue (sliceOf (line * 128)) (tget [] k.queue (sliceOf (line * 128)) ++ [r]) }
  | .edge e => { s with edge := tset s.edge e (tget [] s.edge e ++ [r]) }
  | _ => s

theorem enqueue_frame (s : State) (line : Nat) (r : SliceReq) :
    { enqueue s line r with stackTab := s.stackTab, edge := s.edge } = s := by
  unfold enqueue
  split <;> rfl

theorem enqueue_queuedAt (s : State) (line : Nat) (r : SliceReq) (a : Nat) :
    (enqueue s line r).queuedAt a = s.queuedAt a ∨ (enqueue s line r).queuedAt a = s.queuedAt a ++ [r] := by
  unfold enqueue
  cases h : nodeOf (line * 128) with
  | stack n =>
    simp only [queuedAt_eq, queuedIn, State.onStack, State.setStack, State.stack]
    cases nodeOf a with
    | stack m =>
      simp only [tget_tset]
      by_cases hm : n = m
      · subst hm
        simp only [if_true, tget_tset]
        by_cases hs : sliceOf (line * 128) = sliceOf a
        · right; simp [hs]
        · left; simp [hs]
      · left; simp [hm]
    | _ => left; rfl
  | edge e =>
    simp only [queuedAt_eq, queuedIn]
    cases nodeOf a with
    | edge m =>
      simp only [tget_tset]
      by_cases hm : e = m
      · subst hm; right; simp
      · left; simp [hm]
    | _ => left; rfl
  | _ => left; rfl

theorem enqueue_queuedAt_line {line : Nat} (hc : cacheable (line * 128) = true) (s : State) (r : SliceReq) {a : Nat} (ha : a / 128 = line) :
    (enqueue s line r).queuedAt a = s.queuedAt a ++ [r] := by
  simp only [queuedAt_eq, queuedIn_same _ _ a (line * 128) (by omega)]
  unfold enqueue
  unfold cacheable at hc
  cases h : nodeOf (line * 128) with
  | stack n => simp [queuedIn, State.onStack, State.setStack, State.stack, h]
  | edge e => simp [queuedIn, h]
  | _ => simp [h] at hc

theorem cacheable_line (pa : Nat) : cacheable (pa / 128 * 128) = cacheable pa := by
  unfold cacheable
  rw [nodeOf_line]

section Enqueue
variable {s : State} {line : Nat} {r : SliceReq} (hc : cacheable (line * 128) = true) (hline : r.line = line)
include hc hline

/-- A request queued for a line gives its bytes to the line's reads, and no other address sees it. -/
theorem enqueue_home (a : Nat) : (enqueue s line r).home a =
    if a / 128 = line then (lastOf a r.cells).getD (s.home a) else s.home a := by
  have hframe := enqueue_frame s line r
  have hb : (enqueue s line r).bus = s.bus := by have h' := congrArg State.bus hframe; exact h'
  have hm : (enqueue s line r).mem = s.mem := by have h' := congrArg State.mem hframe; exact h'
  by_cases ha : a / 128 = line
  · rw [home_eq, home_eq, hb, hm, enqueue_queuedAt_line hc s r ha, List.filter_append, List.filter_singleton, hline, ha, beq_self_eq_true,
      cond_true, List.flatMap_append, List.flatMap_singleton, lastOf_append, if_pos rfl]
    cases lastOf a r.cells <;> rfl
  · rw [if_neg ha]
    rcases enqueue_queuedAt s line r a with h | h
    · exact home_congr h hb hm
    · have hno : (r.line == a / 128) = false := by simpa [hline] using Ne.symm ha
      rw [home_eq, home_eq, hb, hm, h, List.filter_append, List.filter_singleton, hno, cond_false, List.append_nil]

theorem enqueue_keyAgrees {key : Option Nat} (h : KeyAgrees s line key) (hk : r.key = key) : KeyAgrees (enqueue s line r) line key := by
  obtain ⟨hs, hq⟩ := h
  refine ⟨?_, fun x hx hl => ?_⟩
  · have h' := congrArg State.sealed (enqueue_frame s line r)
    exact (congrArg (tfind · line) h').trans hs
  · rw [enqueue_queuedAt_line hc s r (Nat.mul_div_cancel _ (by decide)), List.mem_append, List.mem_singleton] at hx
    rcases hx with hx | rfl
    · exact hq x hx hl
    · exact hk

theorem enqueue_poisoned (hp : s.poisoned line = false) (hr : r.poison = false) : (enqueue s line r).poisoned line = false := by
  have h' : (enqueue s line r).poison = s.poison := by have h' := congrArg State.poison (enqueue_frame s line r); exact h'
  rw [poisoned_eq, enqueue_queuedAt_line hc s r (Nat.mul_div_cancel _ (by decide)), h', List.filter_append, List.filter_singleton, hline,
    beq_self_eq_true, cond_true, List.foldl_append, ← poisoned_eq, hp]
  simp [poisonAfter, hr]

end Enqueue

/-! ## The line leaves the core's buffer (R238, R382) -/

/-- A core whose bytes of a line have left its buffer. -/
def buffersWithout (c : Core) (line : Nat) : Core :=
  { c with
    wcb := c.wcb.filter fun b => b.pa / 128 != line
    l1 := match tfind c.l1 line with
      | some x => tset c.l1 line ((c.cells.filter fun b => b.1 / 128 == line).foldl (fun x b => setLineByte x (b.1 % 128) b.2) x)
      | none => c.l1
    l1poison := if c.wcbWhole.contains line then c.l1poison.filter (· != line) else c.l1poison
    wcbPoison := c.wcbPoison.filter (· != line)
    wcbWhole := c.wcbWhole.filter (· != line) }

/-- The request a core's bytes of a line become. -/
def drainedReq (c : Core) (line : Nat) : SliceReq :=
  { line, cells := c.cells.filter fun b => b.1 / 128 == line, poison := c.wcbPoison.contains line,
    whole := c.wcbWhole.contains line, key := tfind c.wcbKey line }

theorem makeRoom_room {s : State} {n slice : Nat} (h : (tget [] (s.stack n).queue slice).length < 32) : s.makeRoom n slice = s := by
  unfold State.makeRoom
  split
  · rfl
  · next r q hq =>
    rw [hq, List.length_cons] at h
    exact if_pos (by omega)

theorem drainLine_empty {s : State} {core line : Nat} (h : (s.core core).cells.filter (fun c => c.1 / 128 == line) = []) :
    s.drainLine core line = s := by
  unfold State.drainLine
  simp only
  exact if_pos (by rw [h]; rfl)

theorem drainLine_sends {s : State} {core line : Nat} (h : (s.core core).cells.filter (fun c => c.1 / 128 == line) ≠ [])
    (hroom : QueuesHaveRoom s) : s.drainLine core line =
      enqueue (s.onCore core fun c => buffersWithout c line) line (drainedReq (s.core core) line) := by
  have hgo : ¬ ((s.core core).cells.filter fun c => c.1 / 128 == line).isEmpty = true := by rwa [List.isEmpty_iff]
  unfold State.drainLine
  simp only
  rw [if_neg hgo]
  unfold enqueue
  cases nodeOf (line * 128) with
  | stack n =>
    simp only
    rw [makeRoom_room]
    · rfl
    · exact hroom n _
  | _ => rfl

/-- A line that left a core's buffer: every byte of it is at home as the core's buffer had it. -/
structure LineSent (s t : State) (core line : Nat) : Prop where
  frame : { t with cores := s.cores, stackTab := s.stackTab, edge := s.edge } = s
  mats : (t.core core).mats = (s.core core).mats
  others : ∀ c, c ≠ core → tfind t.cores c = tfind s.cores c
  home : ∀ a, t.home a = if a / 128 = line then s.fresh core a else s.home a
  keys : ∀ key, KeyAgrees s line key →
    (tfind (s.core core).wcbKey line = key ∨ ∀ c ∈ (s.core core).wcb, c.pa / 128 ≠ line) → KeyAgrees t line key
  poisoned : s.poisoned line = false → line ∉ (s.core core).wcbPoison → t.poisoned line = false

theorem lineSent_drainLine {s : State} {core line : Nat} (hc : cacheable (line * 128) = true) (hroom : QueuesHaveRoom s) :
    LineSent s (s.drainLine core line) core line := by
  have hfilter : ∀ a, a / 128 = line →
      lastOf a ((s.core core).cells.filter fun c => c.1 / 128 == line) = lastOf a (s.core core).cells := fun a ha => by
    rw [lastOf_filter, if_pos ha]
  by_cases h : (s.core core).cells.filter (fun c => c.1 / 128 == line) = []
  · rw [drainLine_empty h]
    refine ⟨rfl, rfl, fun _ _ => rfl, fun a => ?_, fun _ hk _ => hk, fun hp _ => hp⟩
    by_cases ha : a / 128 = line
    · rw [if_pos ha, State.fresh, ← hfilter a ha, h]
      rfl
    · rw [if_neg ha]
  · rw [drainLine_sends h hroom]
    have hframe := enqueue_frame (s.onCore core fun c => buffersWithout c line) line (drainedReq (s.core core) line)
    have hcores : (enqueue (s.onCore core fun c => buffersWithout c line) line (drainedReq (s.core core) line)).cores =
        (s.onCore core fun c => buffersWithout c line).cores := by have h' := congrArg State.cores hframe; exact h'
    refine ⟨?_, ?_, fun c hne => ?_, fun a => ?_, fun key hk hown => ?_, fun hp hin => ?_⟩
    · have h' := congrArg (fun t : State => { t with cores := s.cores }) hframe
      exact h'
    · have hcore : ((s.onCore core fun c => buffersWithout c line).core core).mats = (s.core core).mats := by
        rw [State.core_onCore_self]
        rfl
      rw [State.core, hcores]
      exact hcore
    · rw [hcores]
      exact tfind_tset_ne _ _ hne.symm
    · rw [enqueue_home hc rfl]
      by_cases ha : a / 128 = line
      · rw [if_pos ha, if_pos ha, State.fresh]
        simp only [drainedReq]
        rw [hfilter a ha]
        cases lastOf a (s.core core).cells <;> rfl
      · rw [if_neg ha, if_neg ha]
        rfl
    · refine enqueue_keyAgrees hc rfl hk (hown.resolve_right fun hnone => h ?_)
      rw [List.filter_eq_nil_iff]
      intro c hcell
      obtain ⟨b, hb, rfl⟩ := List.mem_map.1 hcell
      simpa using hnone b hb
    · exact enqueue_poisoned hc rfl hp (by simpa [drainedReq] using hin)

/-! ## An atomic operation at home (R241, R384) -/

theorem bytesLE_congr {f g : Nat → Byte} (n : Nat) : ∀ a, (∀ i, i < n → f (a + i) = g (a + i)) →
    bytesLE f a n = bytesLE g a n := by
  induction n with
  | zero => exact fun _ _ => rfl
  | succ n ih =>
    intro a h
    have hhead : f a = g a := h 0 (by omega)
    have htail : bytesLE f (a + 1) n = bytesLE g (a + 1) n := ih (a + 1) fun i hi => by
      rw [Nat.add_assoc, Nat.add_comm 1 i]
      exact h (i + 1) (by omega)
    rw [bytesLE, bytesLE, hhead, htail]

theorem mem_cellsLE (n : Nat) : ∀ a x c, c ∈ cellsLE a x n → a ≤ c.1 ∧ c.1 < a + n := by
  induction n with
  | zero => exact fun _ _ _ h => absurd h List.not_mem_nil
  | succ n ih =>
    intro a x c h
    rcases List.mem_cons.1 h with rfl | h
    · exact ⟨le_refl _, by simp⟩
    · have := ih _ _ _ h
      omega

theorem lastOf_cellsLE (n b : Nat) : ∀ a x,
    lastOf b (cellsLE a x n) = if a ≤ b ∧ b < a + n then some (valByte x (b - a)) else none := by
  induction n with
  | zero =>
    intro a x
    rw [if_neg (by omega)]
    rfl
  | succ n ih =>
    intro a x
    rw [cellsLE, lastOf, ih]
    by_cases h : a + 1 ≤ b ∧ b < a + 1 + n
    · have hin : a ≤ b ∧ b < a + (n + 1) := by omega
      have hbyte : valByte (x / 256) (b - (a + 1)) = valByte x (b - a) := by
        rw [valByte, valByte, Nat.div_div_eq_div_mul, ← pow_succ', show b - (a + 1) + 1 = b - a by omega]
      rw [if_pos h, if_pos hin, hbyte]
    · rw [if_neg h]
      by_cases hb : a = b
      · subst hb
        simp [valByte]
      · have hout : ¬ (a ≤ b ∧ b < a + (n + 1)) := by omega
        rw [if_neg hout]
        exact if_neg hb

/-- A line as an atomic operation finds it at home: out of the core's buffer and L1, and performed, under its key. -/
structure LineTaken (s t : State) (core line : Nat) (key : Option Nat) : Prop where
  frame : { t with cores := s.cores, stackTab := s.stackTab, edge := s.edge, poison := s.poison, bus := s.bus } = s
  mats : (t.core core).mats = (s.core core).mats
  others : ∀ c, c ≠ core → tfind t.cores c = tfind s.cores c
  home : ∀ a, t.home a = if a / 128 = line then s.fresh core a else s.home a
  keys : KeyAgrees t line key
  poisoned : t.poisoned line = false

/-- The state in which an atomic operation finds its line. -/
def taken (s : State) (core line : Nat) (key : Option Nat) : State :=
  (((s.drainLine core line).settle line).useKey line key).onCore core fun c => c.dropL1 (· == line)

theorem lineTaken_taken {s : State} {core line : Nat} {key : Option Nat} (hc : cacheable (line * 128) = true) (hroom : QueuesHaveRoom s)
    (hk : KeyAgrees s line key) (hp : s.poisoned line = false) (hnp : line ∉ (s.core core).wcbPoison)
    (hown : tfind (s.core core).wcbKey line = key ∨ ∀ c ∈ (s.core core).wcb, c.pa / 128 ≠ line) :
    LineTaken s (taken s core line key) core line key := by
  obtain ⟨hframe, hmats, hothers, hhome, hkeys, hpoison⟩ := lineSent_drainLine (core := core) hc hroom
  have hdk := hkeys key hk hown
  have hagree := keyAgrees_settle hdk
  have hset := settle_memOnly hdk
  have hcores := hset.cores
  have huse : ((s.drainLine core line).settle line).useKey line key = (s.drainLine core line).settle line :=
    useKey_agreed (by rw [hset.sealed]; exact hdk.1)
  unfold taken
  rw [huse]
  refine ⟨?_, ?_, fun c hne => ?_, fun a => (settle_home _ line hagree a).trans (hhome a),
    hset.keyAgrees (settle_queuedAt_subset hagree) hdk, (settle_poisoned hagree).trans (hpoison hp hnp)⟩
  · unfold MemOnly at hset
    have h := congrArg (fun z : State =>
      { z with cores := s.cores, stackTab := s.stackTab, edge := s.edge, poison := s.poison, bus := s.bus }) hset
    refine Eq.trans h ?_
    have hb : (s.drainLine core line).bus = s.bus := by have h' := congrArg State.bus hframe; exact h'
    have hpo : (s.drainLine core line).poison = s.poison := by have h' := congrArg State.poison hframe; exact h'
    rw [← hb, ← hpo]
    exact hframe
  · rw [State.core_onCore_self, State.core, hcores]
    exact hmats
  · rw [← hothers c hne, ← hcores]
    exact tfind_tset_ne _ _ hne.symm

/-- What an atomic operation at home leaves: the bytes the core's buffer held of the line, under the new value. -/
structure Rewritten (s t : State) (core pa size new : Nat) : Prop where
  frame : { t with cores := s.cores, stackTab := s.stackTab, edge := s.edge, poison := s.poison, bus := s.bus } = s
  mats : (t.core core).mats = (s.core core).mats
  others : ∀ c, c ≠ core → tfind t.cores c = tfind s.cores c
  home : ∀ a, t.home a = if pa ≤ a ∧ a < pa + size then valByte new (a - pa)
    else if a / 128 = pa / 128 then s.fresh core a else s.home a

/-- Bytes of a taken line written at home. -/
theorem LineTaken.rewritten {s y : State} {core pa size new : Nat} {key : Option Nat} (h : LineTaken s y core (pa / 128) key)
    (hone : ∀ i, i < size → (pa + i) / 128 = pa / 128) :
    Rewritten s (y.writeHome (pa / 128) (cellsLE pa new size) none key) core pa size new := by
  obtain ⟨hframe, hmats, hothers, hhome, hkeys, -⟩ := h
  have hcells : ∀ c ∈ cellsLE pa new size, c.1 / 128 = pa / 128 := fun c hc => by
    obtain ⟨hlo, hhi⟩ := mem_cellsLE size _ _ _ hc
    rw [← hone (c.1 - pa) (by omega), Nat.add_sub_cancel' hlo]
  obtain ⟨hmem, hwhome, -⟩ := writeHome_spec hkeys hcells none
  have hcores := hmem.cores
  refine ⟨?_, ?_, fun c hne => ?_, fun a => ?_⟩
  · unfold MemOnly at hmem
    have h := congrArg (fun z : State =>
      { z with cores := s.cores, stackTab := s.stackTab, edge := s.edge, poison := s.poison, bus := s.bus }) hmem
    exact Eq.trans h hframe
  · rw [State.core, hcores]
    exact hmats
  · rw [hcores]
    exact hothers c hne
  · rw [hwhome, lastOf_cellsLE, hhome]
    by_cases hin : pa ≤ a ∧ a < pa + size
    · rw [if_pos hin, if_pos hin]
      rfl
    · rw [if_neg hin, if_neg hin]
      rfl

/-- An atomic operation of a group on bytes of one line that is not poisoned (R241, R243). -/
theorem atomicFor_rewrites {s : State} {gk core pa size : Nat} {key : Option Nat} (f : Nat → Nat) (hcore : (s.grp gk).core = core)
    (hone : ∀ i, i < size → (pa + i) / 128 = pa / 128) (h : LineTaken s (taken s core (pa / 128) key) core (pa / 128) key) :
    ∃ t, s.atomicFor gk pa size key f = (some (bytesLE (s.fresh core) pa size), t.sign gk (pa / 128)) ∧
      Rewritten s t core pa size (f (bytesLE (s.fresh core) pa size)) := by
  subst hcore
  refine ⟨_, ?_, h.rewritten hone⟩
  have hold : bytesLE (taken s (s.grp gk).core (pa / 128) key).home pa size = bytesLE (s.fresh (s.grp gk).core) pa size :=
    bytesLE_congr size pa fun i hi => by rw [h.home, if_pos (hone i hi)]
  have hclean : ¬ (taken s (s.grp gk).core (pa / 128) key).poisoned (pa / 128) = true := by
    rw [h.poisoned]
    decide
  rw [← hold]
  exact if_neg hclean

/-! ## The merge (R281) -/

/-- Strands with no flight and no write on its way out of the package owe nothing (R382, R387). -/
theorem owes_eq_false {s : State} {gk : Nat} {ks : List Nat} (hfly : NoFlights s gk ks)
    (hrem : ∀ r ∈ s.remotes, r.group = gk → r.op = .store → r.jset < copySets → r.lane / 4 ∉ ks ∧ r.lane ≠ 64) :
    s.owes gk ks = false := by
  rw [State.owes, State.flies, Bool.or_eq_false_iff, List.any_eq_false, List.any_eq_false]
  constructor
  · intro r hr hx
    simp only [Bool.and_eq_true, Bool.or_eq_true, beq_iff_eq, List.contains_iff_mem, decide_eq_true_eq,
      Option.isSome_iff_ne_none] at hx
    obtain ⟨⟨hg, hf⟩, hin⟩ := hx
    obtain ⟨hno, hlt⟩ := hfly r hr hg hf
    exact hin.elim hno fun hle => by omega
  · intro r hr hx
    simp only [Bool.and_eq_true, Bool.or_eq_true, beq_iff_eq, List.contains_iff_mem, decide_eq_true_eq] at hx
    obtain ⟨⟨⟨hg, ho⟩, hj⟩, hin⟩ := hx
    obtain ⟨hno, hne⟩ := hrem r hr hg ho hj
    exact hin.elim hno hne

theorem remoteWrites_eq_false {s : State} {gk snap : Nat}
    (h : ∀ r ∈ s.remotes, r.group = gk → r.op = .store → r.jset < copySets → snap ≤ r.id) : s.remoteWrites gk snap = false := by
  rw [State.remoteWrites, List.any_eq_false]
  intro r hr hx
  simp only [Bool.and_eq_true, beq_iff_eq, decide_eq_true_eq] at hx
  obtain ⟨⟨hg, ho⟩, hid, hj⟩ := hx
  exact absurd hid (h r hr hg ho hj).not_gt

/-- What a merge that may go on does not wait for (R281, R387). -/
theorem mergeMay_waits {s : State} {m : MatOp} (h : MergeMay s m) :
    (mRelease m.mode && !m.released && s.owes m.group m.strands) = false ∧
    (mRelease m.mode && mScope m.mode != 0 && !m.released) = false ∧
    (mRelease m.mode && mScope m.mode != 0 && ((s.msgs.any fun p => p.group == m.group && p.jset == mergeSet m) ||
      (mScope m.mode == 4 && s.remoteWrites m.group m.snap))) = false := by
  rcases h with hno | ⟨hscope, hdone⟩ | ⟨hrel, hmsgs, hsys⟩
  · simp [hno]
  · refine ⟨?_, by simp [hscope], by simp [hscope]⟩
    rcases hdone with hrel | ⟨hfly, hrem⟩
    · simp [hrel]
    · simp [owes_eq_false hfly hrem]
  · have hun : (s.msgs.any fun p => p.group == m.group && p.jset == mergeSet m) = false := by
      rw [List.any_eq_false]
      intro p hp hx
      rw [Bool.and_eq_true, beq_iff_eq, beq_iff_eq] at hx
      exact hmsgs p hp hx.1 hx.2
    have hw : (mScope m.mode == 4 && s.remoteWrites m.group m.snap) = false := by
      by_cases h4 : mScope m.mode = 4
      · rw [remoteWrites_eq_false (hsys h4), Bool.and_false]
      · simp [h4]
    refine ⟨by simp [hrel], by simp [hrel], ?_⟩
    rw [hun, hw]
    simp

/-- The state in which a merge acts for its group. -/
abbrev merging (s : State) (m : MatOp) : State := { s with cur := { group := m.group, jset := mergeSet m } }

/-- The state in which a merge has taken its drain from the engine. -/
def merged (s t : State) (core idx : Nat) : State :=
  { t.onCore core fun c => { c with mats := ldel c.mats idx } with cur := s.cur }

theorem outsidePa_of_cacheable {pa : Nat} (h : cacheable pa = true) : outsidePa pa = false := by
  unfold cacheable at h
  unfold outsidePa
  cases hn : nodeOf pa with
  | host => simp [hn] at h
  | fabric w => simp [hn] at h
  | _ => rfl

theorem runs_merged {s t : State} {core idx pa old : Nat} {m : MatOp} (hget : (s.core core).mats[idx]? = some m)
    (hdrained : m.drained = true) (hmerge : m.merge = some pa) (hmay : MergeMay s m) (hc : cacheable pa = true)
    (hat : (merging s m).atomicFor m.group pa 4 m.mergeKey (fun old => max old m.mergeMax.toNat) = (some old, t)) :
    Runs (.accdrMerge core idx) s (commit s (merged s t core idx)) := by
  obtain ⟨howes, hrelease, hwait⟩ := mergeMay_waits hmay
  have hsnap : ((s.core core).mats.getD idx {}).snap = m.snap := by
    rw [List.getD_eq_getElem?_getD, hget]
    rfl
  have hnot : ∀ b, (mRelease m.mode && mScope m.mode != 0 && !m.released && b) = false := fun b => by rw [hrelease]; rfl
  have hpass : ¬ ((mRelease m.mode && !m.released && (merging s m).owes m.group m.strands) || (mRelease m.mode && mScope m.mode != 0 &&
      ((merging s m).unacked || (mScope m.mode == 4 &&
        (merging s m).remoteWrites m.group (((merging s m).core core).mats.getD idx {}).snap)))) = true := by
    rw [show (mRelease m.mode && !m.released && (merging s m).owes m.group m.strands) = false from howes, Bool.false_or,
      show (((merging s m).core core).mats.getD idx {}).snap = m.snap from hsnap, Bool.not_eq_true]
    exact hwait
  have hin : ¬ outsidePa pa = true := by rw [outsidePa_of_cacheable hc]; decide
  have hx : execAccdrMerge core idx s = ran s (merged s t core idx) := by
    unfold execAccdrMerge
    simp only [hget]
    rw [hdrained, hmerge]
    simp only [hnot, Bool.false_eq_true, if_false]
    rw [if_neg hpass, if_neg hin, show (merging s m).atomicAt pa 4 m.mergeKey _ = (some old, t) from hat]
    rfl
  exact hx

theorem groups_sign {s t : State} (h : t.groups = s.groups) (gk line : Nat) : (t.sign gk line).groups = (s.sign gk line).groups := by
  have hsign : ∀ x : State, (x.sign gk line).groups = tset x.groups gk ((tget {} x.groups gk).sign line) := fun _ => rfl
  rw [hsign, hsign, h]

/-- A merge rewrites its word at home, and its drain leaves the engine. -/
theorem merge_completes {s : State} {core idx pa : Nat} {m : MatOp} (hget : (s.core core).mats[idx]? = some m)
    (hdrained : m.drained = true) (hmerge : m.merge = some pa) (hmay : MergeMay s m) (hcore : (s.grp m.group).core = core)
    (halign : pa % 4 = 0) (hroom : QueuesHaveRoom s) (hc : cacheable pa = true) (hk : KeyAgrees s (pa / 128) m.mergeKey)
    (hp : s.poisoned (pa / 128) = false) (hnp : pa / 128 ∉ (s.core core).wcbPoison)
    (hown : tfind (s.core core).wcbKey (pa / 128) = m.mergeKey ∨ ∀ c ∈ (s.core core).wcb, c.pa / 128 ≠ pa / 128)
    (hbus : s.bus = []) :
    ∃ t, Runs (.accdrMerge core idx) s t ∧ (t.core core).mats = ldel (s.core core).mats idx ∧
      (∀ a, t.home a = if pa ≤ a ∧ a < pa + 4 then valByte (max (bytesLE (s.fresh core) pa 4) m.mergeMax.toNat) (a - pa)
        else if a / 128 = pa / 128 then s.fresh core a else s.home a) ∧
      { t with groups := s.groups, cores := s.cores, stackTab := s.stackTab, edge := s.edge, mem := s.mem,
               poison := s.poison } = s ∧ (∀ c, c ≠ core → tfind t.cores c = tfind s.cores c) ∧
      t.groups = (s.sign m.group (pa / 128)).groups := by
  have htaken : LineTaken (merging s m) (taken (merging s m) core (pa / 128) m.mergeKey) core (pa / 128) m.mergeKey :=
    lineTaken_taken ((cacheable_line pa).trans hc) hroom hk hp hnp hown
  obtain ⟨u, hat, hu⟩ := atomicFor_rewrites (s := merging s m) (gk := m.group) (pa := pa) (size := 4)
    (fun old => max old m.mergeMax.toNat) hcore (fun i hi => by omega) htaken
  obtain ⟨hframe, hmats, hothers, hhome⟩ := hu
  have hmem : u.mem = s.mem := by have h' := congrArg State.mem hframe; exact h'
  have hgroups : u.groups = s.groups := by have h' := congrArg State.groups hframe; exact h'
  refine ⟨_, runs_merged hget hdrained hmerge hmay hc hat, ?_, fun a => ?_, ?_, fun c hne => ?_, ?_⟩
  · have hgone : ((merged s (u.sign m.group (pa / 128)) core idx).core core).mats = ldel (u.core core).mats idx :=
      congrArg Core.mats (State.core_onCore_self (u.sign m.group (pa / 128)) core fun c => { c with mats := ldel c.mats idx })
    rw [commit_core, hgone, hmats]
    rfl
  · rw [home_commit (t := merged s (u.sign m.group (pa / 128)) core idx) hmem]
    exact hhome a
  · have h := congrArg (fun z : State => { z with cur := s.cur }) hframe
    refine Eq.trans ?_ h
    rw [← hgroups, ← hmem]
    rw [show (merging s m).bus = (commit s (merged s (u.sign m.group (pa / 128)) core idx)).bus from hbus]
    rfl
  · rw [commit_cores]
    exact (tfind_tset_ne _ _ hne.symm).trans (hothers c hne)
  · exact groups_sign hgroups m.group (pa / 128)

end Sys2Proof.Proofs.Merges
end

section
/-!
PROOFS. Matrix operations that complete (R264-R281): O32, from the effect of an operation, the merge of a drain and the start of a
pass.
-/
namespace Sys2Proof.Proofs.MatrixCompletes
open Sys2Proof Sys2Proof.Machine Sys2Proof.Safety
open Sys2Proof.Proofs.Completions Sys2Proof.Proofs.Merges Sys2Proof.Proofs.MatrixPasses

/-- The places of the engine after an operation, with what the merge word of a drain is. -/
theorem matsAfter_spec {s t : State} {core idx : Nat} {m : MatOp}
    (h : (t.core core).mats = matsAfter s core idx m (s.core core).mats) :
    if m.kind = .drain ∧ m.merge ≠ none then
      ∃ mx : Word, (t.core core).mats = lset (s.core core).mats idx { m with drained := true, mergeMax := mx } ∧
        (∀ i j, i < m.rows → j < m.cols → (s.accWord core (m.row + i) (m.col + j)).toNat % 2 ^ 31 ≤ mx.toNat) ∧
        (mx = 0 ∨ ∃ i j, i < m.rows ∧ j < m.cols ∧ mx.toNat = (s.accWord core (m.row + i) (m.col + j)).toNat % 2 ^ 31)
    else (t.core core).mats = ldel (s.core core).mats idx := by
  unfold matsAfter at h
  split
  · next hm => exact ⟨s.regionMax core m, h.trans (if_pos hm), regionMax_spec s core m⟩
  · next hm => exact h.trans (if_neg hm)

/-- Settles O32: an operation's effect is that of its kind; the merge acts at home as an atomic operation does; a pass takes the
first multiplies that may join the oldest one. -/
theorem matrixCompletes : Obligations.MatrixCompletes := by
  refine ⟨?_, ?_, ?_⟩
  · intro s core idx m h hcols hsize hwords hkeys hbus
    have hrows : m.kind = .mma → ∃ rows, m.bRows = some rows ∧ rows.length = 16 := by
      obtain ⟨-, -, hrows, -⟩ := h
      exact hrows
    obtain ⟨t, hruns, heffect, hout, hhome, hmats, hframe, hown, henc, hothers⟩ :=
      operation_completes h (engineEffect_matEffect hcols hsize hwords hrows hkeys) hbus
    exact ⟨t, hruns, heffect, hout, hhome, matsAfter_spec hmats, hframe, hown, henc, hothers⟩
  · intro s core idx pa m hget hdrained hmerge hmay hcore halign hroom hc hk hp hnp hown hbus
    exact merge_completes hget hdrained hmerge hmay hcore halign hroom hc hk hp hnp hown hbus
  · intro s core before after a ms joins hms hid ha hold hbus
    exact pass_starts s core before after a hms hid ha hold hbus

end Sys2Proof.Proofs.MatrixCompletes
end

section
/-!
PROOFS. Words that decode to ILL (R89, R90). The decoder looks at the opcode byte alone, as R90 has it, so 2^24 words decode to
ILL, and the encoder gives one of them.
-/
namespace Sys2Proof.Proofs.IllWords
open Sys2Proof
open Sys2Proof.Proofs.Decoder (decode_ok_of_parse)

/-- The decoder passes over the bits that R90 ignores. -/
theorem decode_ill (x : Word) : decode 0xF0000001 x = .ok .ill := decode_ok_of_parse (fun _ => rfl) rfl x

/-- The word of ILL is 0xF0000000 (R89). -/
theorem encode_ill : encode .ill = some (0xF0000000, 0) := rfl

/-- Refutes O2: 0xF0000001 decodes to ILL, whose word is 0xF0000000; and ILL is no undefined opcode. -/
theorem not_decodeEncodeRoundTrip : ¬ Obligations.DecodeEncodeRoundTrip := by
  unfold Obligations.DecodeEncodeRoundTrip
  rintro ⟨-, hdecoded⟩
  obtain ⟨-, hword | hundefined⟩ := hdecoded 0xF0000001 0 .ill (decode_ill 0)
  · have hpair : ((0xF0000000, 0) : Word × Word) = (0xF0000001, 0) := Option.some.inj (encode_ill.symm.trans hword)
    exact absurd hpair (by decide)
  · cases hundefined

end Sys2Proof.Proofs.IllWords
end

section
/-!
PROOFS. Stores through a translation that does not keep alignment. The claims of vector stores and of SST are made of every state whose address is
aligned and allowed, and speak of one line for each store; a TLB may hold a page whose base is no multiple of 4, and what is stored
through it lies in two lines, which both sign (R386). As with EFST, the states they refute are those that no boot reaches.
-/
namespace Sys2Proof.Proofs.StraddlingStores
open Sys2Proof Sys2Proof.Machine Sys2Proof.Safety
open Sys2Proof.Proofs.WindowStores

/-- The state that an instruction leaves on the core whose TLB maps address 0 to 126. -/
def after (i : Instr) : State := match exec i straddlingPage with | .next t => t | _ => straddlingPage

/-- STG32 v0, [s0 + v2], whose one active lane stores bytes 126 to 129. -/
def vectorStore : Instr := .stg32 (.v 0) (.v 2) (.s 0)

/-- SST s1, [s0], which stores bytes 126 to 133. -/
def scalarStore : Instr := .sst (.s 1) (.s 0) 0

theorem runs_vectorStore : Runs vectorStore straddlingPage (after vectorStore) := rfl

theorem runs_scalarStore : Runs scalarStore straddlingPage (after scalarStore) := rfl

/-- The operands of the vector store; it pops no queue. -/
theorem vectorStore_ready : OperandsReady straddlingPage (storeUses straddlingPage (.v 0) (.v 2) (.s 0) 1) := ⟨rfl, rfl, rfl⟩

/-- No access is under way, of the issuing set or of its group. -/
theorem straddlingPage_notBegun : NotBegun straddlingPage := ⟨rfl, fun _ hr => absurd hr List.not_mem_nil⟩

/-- Each byte signs its line: two of those stored lie in line 0, the others in line 1. -/
theorem vectorStore_signs : (after vectorStore).g.wsig1 = ([0, 0, 1, 1].foldl Group.sign {}).wsig1 := rfl

theorem scalarStore_signs : (after scalarStore).g.wsig1 = ([0, 0, 1, 1, 1, 1, 1, 1].foldl Group.sign {}).wsig1 := rfl

/-- A store that is claimed at byte 126 signs line 0 alone, which sets no bit 1. -/
theorem stored_wsig1_bit_one {s t : State} {x size : Nat} (h : Stored s t [(126, x)] size id) (hs : s.g.wsig1 = 0) :
    t.g.wsig1.getLsbD 1 = false := by
  obtain ⟨-, ⟨hgroup, -⟩, -⟩ := h
  have hsig := groupIs_wsig1 hgroup
  simp only [List.foldl_cons, List.foldl_nil, id, Nat.reduceDiv] at hsig
  rw [hsig]
  exact sign_zero_bit_one hs

/-- Refutes O22: STG32 at an address that a TLB entry maps to byte 126 is aligned and allowed, and signs the lines of all four bytes,
where the claim has it sign the line of the first alone. -/
theorem not_globalStores : ¬ Obligations.GlobalStores := by
  unfold Obligations.GlobalStores
  intro h
  obtain ⟨hallowed, hcache, -⟩ := store_allowed
  obtain ⟨t, hrun, hstored⟩ := h straddlingPage vectorStore (.v 0) (.v 2) (.s 0) 4 (.stg32 ..) vectorStore_ready (by
    intro l hl
    rw [lanes_straddlingPage, List.mem_singleton] at hl
    subst hl
    exact ⟨hallowed, hcache⟩) (.inl rfl) straddlingPage_notBegun rfl (Tests.resident_of rfl)
  obtain rfl : after vectorStore = t := Host.Outcome.next.inj (runs_vectorStore.symm.trans hrun)
  have hclear : (after vectorStore).g.wsig1.getLsbD 1 = false :=
    stored_wsig1_bit_one (s := straddlingPage) (x := 0) (size := 4) hstored rfl
  simp only [vectorStore_signs, List.foldl_cons, List.foldl_nil, sign_one_bit_one, Bool.true_eq_false] at hclear

/-- Refutes O23: SST at an address that a TLB entry maps to byte 126 is aligned and allowed, and signs the lines of all eight bytes,
where the claim has it sign the line of the first alone. -/
theorem not_scalarAccesses : ¬ Obligations.ScalarAccesses := by
  unfold Obligations.ScalarAccesses
  intro h
  obtain ⟨-, -, hstore⟩ := h straddlingPage 1 0 0 rfl rfl (.inl rfl) rfl (Tests.resident_of rfl)
  obtain ⟨t, hrun, hstored⟩ := hstore ⟨rfl, rfl⟩ rfl straddlingPage_notBegun
  obtain rfl : after scalarStore = t := Host.Outcome.next.inj (runs_scalarStore.symm.trans hrun)
  have hclear : (after scalarStore).g.wsig1.getLsbD 1 = false :=
    stored_wsig1_bit_one (s := straddlingPage) (x := 0) (size := 8) hstored rfl
  simp only [scalarStore_signs, List.foldl_cons, List.foldl_nil, sign_one_bit_one, Bool.true_eq_false] at hclear

end Sys2Proof.Proofs.StraddlingStores
end

section
/-!
PROOFS. The values that the scalar instructions write (R130-R136), and that each writes its value and nothing else.
-/
namespace Sys2Proof.Proofs.ScalarValues
open Sys2Proof Sys2Proof.Machine Sys2Proof.Safety

/-! ## Products and quotients (R43, R130) -/

/-- The high half of a product of sign-extended words is the product's quotient by 2^64, rounded down. -/
theorem highHalf_eq (a b : DWord) :
    BitVec.ofInt 64 (a.toInt * b.toInt / 2 ^ 64) = ((a.signExtend 128 * b.signExtend 128) >>> 64).setWidth 64 := by
  have hfull : a.signExtend 128 * b.signExtend 128 = BitVec.ofInt 128 (a.toInt * b.toInt) := by
    rw [BitVec.ofInt_mul, ← BitVec.toInt_signExtend_of_le (x := a) (v := 128) (by decide),
      ← BitVec.toInt_signExtend_of_le (x := b) (v := 128) (by decide), BitVec.ofInt_toInt, BitVec.ofInt_toInt]
  rw [hfull]
  apply BitVec.eq_of_toNat_eq
  simp only [BitVec.toNat_setWidth, BitVec.toNat_ushiftRight, BitVec.toNat_ofInt, Nat.shiftRight_eq_div_pow]
  generalize a.toInt * b.toInt = p
  norm_num
  omega

theorem sdiv64_eq (a b : DWord) : sdiv64 a b = if b = 0 then -1 else a.sdiv b := by
  unfold sdiv64
  split
  · rfl
  · apply BitVec.eq_of_toInt_eq
    rw [BitVec.toInt_sdiv, BitVec.toInt_ofInt]

theorem udiv_eq_ofNat (a b : DWord) : a / b = BitVec.ofNat 64 (a.toNat / b.toNat) := by
  apply BitVec.eq_of_toNat_eq
  rw [BitVec.toNat_udiv, BitVec.toNat_ofNat, Nat.mod_eq_of_lt (lt_of_le_of_lt (Nat.div_le_self _ _) a.isLt)]

/-- What a signed division leaves; all of the dividend where the divisor is zero. -/
theorem sub_mul_sdiv64 (a b : DWord) : (if b = 0 then a else a - b * sdiv64 a b) = a.srem b := by
  split
  · next h => subst h; exact BitVec.srem_zero.symm
  · next h =>
    calc a - b * sdiv64 a b = BitVec.ofInt 64 (a.toInt + -(b.toInt * a.toInt.tdiv b.toInt)) := by
          rw [BitVec.ofInt_add, BitVec.ofInt_neg, BitVec.ofInt_mul, BitVec.ofInt_toInt, BitVec.ofInt_toInt, sdiv64, if_neg h,
            BitVec.sub_eq_add_neg]
      _ = BitVec.ofInt 64 (a.srem b).toInt := by rw [BitVec.toInt_srem, Int.tmod_def, Int.sub_eq_add_neg]
      _ = a.srem b := BitVec.ofInt_toInt

/-! ## Shifts (R130, R138) -/

/-- A number divided by 2^m or more, where its magnitude is at most 2^m, is its sign. -/
theorem ediv_pow_large {x : Int} {m n : Nat} (h : m ≤ n) (hlo : -2 ^ m ≤ x) (hhi : x < 2 ^ m) :
    x / 2 ^ n = if x < 0 then -1 else 0 := by
  have hpow : (2 : Int) ^ m ≤ 2 ^ n := pow_le_pow_right₀ (by decide) h
  split
  · next hneg => exact Int.ediv_eq_neg_one_of_neg_of_le hneg (by omega)
  · next hpos => exact Int.ediv_eq_zero_of_lt (by omega) (by omega)

/-- A shift count beyond a number's width gives what the width gives. -/
theorem ediv_pow_min {x : Int} {m : Nat} (n : Nat) (hlo : -2 ^ m ≤ x) (hhi : x < 2 ^ m) : x / 2 ^ min n m = x / 2 ^ n := by
  rcases Nat.le_total n m with h | h
  · rw [Nat.min_eq_left h]
  · rw [Nat.min_eq_right h, ediv_pow_large le_rfl hlo hhi, ediv_pow_large h hlo hhi]

theorem shl64_eq_ofNat (a : DWord) (n : Nat) : shl64 a n = BitVec.ofNat 64 (a.toNat * 2 ^ n) := by
  apply BitVec.eq_of_toNat_eq
  unfold shl64
  split
  · next h =>
    have hdvd : 2 ^ 64 ∣ a.toNat * 2 ^ n := Dvd.dvd.mul_left (pow_dvd_pow 2 h) _
    rw [BitVec.toNat_ofNat, Nat.mod_eq_zero_of_dvd hdvd]
    rfl
  · rw [BitVec.toNat_shiftLeft, Nat.shiftLeft_eq, BitVec.toNat_ofNat]

theorem shr64_eq_ofNat (a : DWord) (n : Nat) : shr64 a n = BitVec.ofNat 64 (a.toNat / 2 ^ n) := by
  apply BitVec.eq_of_toNat_eq
  rw [BitVec.toNat_ofNat, Nat.mod_eq_of_lt (lt_of_le_of_lt (Nat.div_le_self _ _) a.isLt)]
  unfold shr64
  split
  · next h => exact (Nat.div_eq_of_lt (lt_of_lt_of_le a.isLt (Nat.pow_le_pow_right (by decide) h))).symm
  · rw [BitVec.toNat_ushiftRight, Nat.shiftRight_eq_div_pow]

theorem sra64_eq_ofInt (a : DWord) (n : Nat) : sra64 a n = BitVec.ofInt 64 (a.toInt / 2 ^ n) := by
  rw [← ediv_pow_min (m := 63) n (BitVec.le_toInt a) BitVec.toInt_lt, sra64, ← BitVec.ofInt_toInt (x := a.sshiftRight _),
    BitVec.toInt_sshiftRight, Int.shiftRight_eq_div_pow]
  norm_cast

/-! ## Order, counts and masks (R130, R132, R133) -/

theorem smaller_eq (a b : DWord) : (if b.slt a then b else a) = if a.toInt ≤ b.toInt then a else b := by
  by_cases h : a.toInt ≤ b.toInt
  · rw [if_pos h, if_neg (by simpa [BitVec.slt_iff_toInt_lt] using h)]
  · rw [if_neg h, if_pos (by simpa [BitVec.slt_iff_toInt_lt] using h)]

theorem greater_eq (a b : DWord) : (if a.slt b then b else a) = if a.toInt ≤ b.toInt then b else a := by
  rcases lt_trichotomy a.toInt b.toInt with h | h | h
  · rw [if_pos (BitVec.slt_iff_toInt_lt.2 h), if_pos h.le]
  · rw [BitVec.eq_of_toInt_eq h, ite_self, ite_self]
  · rw [if_neg (by simpa [BitVec.slt_iff_toInt_lt] using h.le), if_neg (by omega)]

theorem popc_eq_countP (n w : Nat) : popc n w = (List.range w).countP fun k => n.testBit k := by
  induction w with
  | zero => rfl
  | succ w ih => rw [popc, List.range_succ, List.countP_append, ih, List.countP_singleton, Nat.add_comm]

theorem clz_eq (w n : Nat) : clz w n = if n = 0 then w else w - 1 - Nat.log2 n := by
  unfold clz bits
  split <;> omega

theorem getLsbD_oneBit (a : Nat) {l : Nat} (hl : l < 64) : ((1 : DWord) <<< a).getLsbD l = (l == a) := by
  have hone : (1 : DWord).getLsbD (l - a) = decide (l - a = 0) := by
    rw [show (1 : DWord) = 1#64 from rfl, BitVec.getLsbD_one]
    simp
  rw [BitVec.getLsbD_shiftLeft, hone, Bool.eq_iff_iff]
  simp [hl]
  omega

theorem getLsbD_foldMask (p : Nat → Bool) (ls : List Nat) (m : DWord) {l : Nat} (hl : l < 64) :
    (ls.foldl (fun m l => if p l then m ||| ((1 : DWord) <<< l) else m) m).getLsbD l = (m.getLsbD l || (ls.contains l && p l)) := by
  induction ls generalizing m with
  | nil => simp
  | cons a ls ih =>
    have hstep : (if p a then m ||| ((1 : DWord) <<< a) else m).getLsbD l = (m.getLsbD l || (l == a && p l)) := by
      by_cases h : l = a
      · subst h
        cases hp : p l <;> simp only [if_true, Bool.false_eq_true, if_false, BitVec.getLsbD_or, getLsbD_oneBit l hl, beq_self_eq_true,
          Bool.true_and, Bool.or_false]
      · cases p a <;> simp only [if_true, Bool.false_eq_true, if_false, BitVec.getLsbD_or, getLsbD_oneBit a hl, beq_false_of_ne h,
          Bool.false_and, Bool.or_false]
    rw [List.foldl_cons, ih, hstep, List.contains_cons, Bool.or_assoc, ← Bool.and_or_distrib_right]

/-- A mask has the bits of the lanes listed that satisfy its condition. -/
theorem maskOf_eq {x : DWord} {ls : List Nat} {p : Nat → Bool} (h : ∀ l, l < 64 → x.getLsbD l = (ls.contains l && p l)) :
    maskOf ls p = x := by
  apply BitVec.eq_of_getLsbD_eq
  intro l hl
  rw [h l hl, maskOf, getLsbD_foldMask p ls 0 hl]
  simp

/-! ## The instructions -/

section
variable {s : State} {i : Instr} {rs : List Reg} {d : Reg} {x : DWord}

/-- An instruction of the scalar form runs, and passes with its value written. -/
theorem scalarForm_passes {y : DWord} (he : exec i s = ran s (s.scalarOp rs d y i.words)) (hxy : y = x) (hr : ScalarCodes s (d :: rs))
    (hb : s.bus = []) (hs : Stays s i.words) : ∃ t, Runs i s t ∧ Passes s t i.words fun g => g.putS (regIdx d) x :=
  ⟨_, he, hxy ▸ scalarOp_passes s rs d y i.words hr hb hs⟩

theorem typeWords_eq_two (t : Nat) : typeWords t = 2 ↔ t = 6 ∨ t = 7 := by
  unfold typeWords
  split <;> simp_all

/-- A register's value of the MODE type in the lowest active lane, 0 where there is none (R134). -/
def lowestLaneValue (s : State) (a : Nat) : DWord :=
  match s.lanes with
  | [] => 0
  | l :: _ =>
    if typeWords (mType s.mode) = 2 then s.g.vr (a + 1) l ++ s.g.vr a l
    else if mType s.mode = 0 then (s.g.vr a l).signExtend 64 else (s.g.vr a l).zeroExtend 64

/-- RFAL of an aligned register that the group holds passes with the value of its lowest active lane written (R133, R134). -/
theorem rfal_passes {a : Fin 176} (hx : lowestLaneValue s a.val = x) (halign : a.val % typeWords (mType s.mode) = 0)
    (hheld : a.val + typeWords (mType s.mode) ≤ s.g.held) (hr : ScalarCodes s [d]) (hb : s.bus = []) (hs : Stays s 1) :
    ∃ t, Runs (.rfal d (.v a)) s t ∧ Passes s t 1 fun g => g.putS (regIdx d) x := by
  obtain ⟨k, rfl, hk⟩ := hr d List.mem_cons_self
  have hclass : (s.badS (.s k) || misaligned a.val (typeWords (mType s.mode))) = false := by
    simp [State.badS, hk, misaligned, halign]
  have hhold : s.g.notHeld (.v a) (typeWords (mType s.mode)) = false := by simpa [Group.notHeld] using hheld
  refine ⟨_, ?_, done_passes s 1 (fun g => g.putS k.val x) hb hs rfl⟩
  subst hx
  show ran s (if _ then _ else if _ then _ else _) = _
  rw [if_neg (by rw [hclass]; decide), if_neg (by rw [hhold]; decide), lowestLaneValue]
  cases s.lanes <;> rfl

theorem scalarRule_passes (h : ScalarRule s i rs d x) (hr : ScalarCodes s (d :: rs)) (hb : s.bus = []) (hs : Stays s i.words) :
    ∃ t, Runs i s t ∧ Passes s t i.words fun g => g.putS (regIdx d) x := by
  cases h with
  | sadd | ssub | smul | sand | sor | sxor | saddi | smovi | smovx | sandi | smadi | ssel => exact scalarForm_passes rfl rfl hr hb hs
  | smulh => exact scalarForm_passes rfl (highHalf_eq _ _) hr hb hs
  | sdiv => exact scalarForm_passes rfl (sdiv64_eq _ _) hr hb hs
  | sdivn => exact scalarForm_passes rfl (by rw [udiv_eq_ofNat]; rfl) hr hb hs
  | srem => exact scalarForm_passes rfl (sub_mul_sdiv64 _ _) hr hb hs
  | sshl | sshli => exact scalarForm_passes rfl (shl64_eq_ofNat _ _) hr hb hs
  | sshr | sshri => exact scalarForm_passes rfl (shr64_eq_ofNat _ _) hr hb hs
  | ssra | ssrai => exact scalarForm_passes rfl (sra64_eq_ofInt _ _) hr hb hs
  | smin => exact scalarForm_passes rfl (smaller_eq _ _) hr hb hs
  | smax => exact scalarForm_passes rfl (greater_eq _ _) hr hb hs
  | smovxh => exact scalarForm_passes rfl (by rw [← BitVec.setWidth_eq_extractLsb' (by decide)]) hr hb hs
  | spopc => exact scalarForm_passes rfl (by simp only [popc_eq_countP, BitVec.testBit_toNat]) hr hb hs
  | sclz => exact scalarForm_passes rfl (by rw [clz_eq]; simp only [← BitVec.toNat_inj, BitVec.toNat_ofNat]; rfl) hr hb hs
  | sid d n => exact scalarForm_passes rfl (by rfl) hr hb hs
  | smask d p x h | vballot d p x h => exact scalarForm_passes rfl (maskOf_eq h) hr hb hs
  | rfalNone _ a h1 h2 h3 => exact rfal_passes (by rw [lowestLaneValue, h3]) h1 h2 hr hb hs
  | rfal _ a l h1 h2 h3 =>
    obtain ⟨ls, hl⟩ := List.head?_eq_some_iff.1 h3
    exact rfal_passes (by rw [lowestLaneValue, hl]; simp only [typeWords_eq_two]) h1 h2 hr hb hs

/-- The s registers after one was written. -/
theorem passes_putS_sr {t : State} {w k : Nat} (h : Passes s t w fun g => g.putS k x) (n : Nat) :
    t.g.sr n = if k = n then x else s.g.sr n := by
  obtain ⟨-, hgroup, -⟩ := h
  unfold GroupIs at hgroup
  rw [← Group.sr_putS]
  have hsr := congrArg (fun g : Group => g.sr n) hgroup
  exact hsr

end

/-- Settles O5: each rule's value is what the instruction's own function gives, and the scalar form writes it and passes. -/
theorem scalarResults : Obligations.ScalarResults := by
  unfold Obligations.ScalarResults
  intro s i rs d x hrule hcodes hbus hstays
  obtain ⟨t, hrun, hpass⟩ := scalarRule_passes hrule hcodes hbus hstays
  refine ⟨t, hrun, hpass, ?_, fun k hk => ?_⟩
  · rw [passes_putS_sr hpass, if_pos rfl]
  · rw [passes_putS_sr hpass, if_neg (Ne.symm hk)]

end Sys2Proof.Proofs.ScalarValues
end

section
/-!
PROOFS. Arriving at an address (R111, R112, R124): what rejoining and the loop-end rule do to a strand.
-/
namespace Sys2Proof.Proofs.Arrivals
open Sys2Proof Sys2Proof.Machine Sys2Proof.Safety

/-! ## Rejoining (R111) -/

theorem rejoinAt_pops (n : DWord) (st : List DivEntry) (m : BitVec 4) : ∃ es, st = es ++ (rejoinAt n st m).1 ∧
    (∀ e ∈ es, e.pc = n) ∧ (∀ e, (rejoinAt n st m).1.head? = some e → e.pc ≠ n) ∧
    ∀ l, (rejoinAt n st m).2.getLsbD l = (m.getLsbD l || es.any fun e => e.mask.getLsbD l) := by
  induction st generalizing m with
  | nil => exact ⟨[], by simp [rejoinAt]⟩
  | cons e st ih =>
    rw [rejoinAt]
    split
    · next hpc =>
      obtain ⟨es, hst, hes, htop, hbits⟩ := ih (m ||| e.mask)
      refine ⟨e :: es, congrArg (e :: ·) hst, List.forall_mem_cons.2 ⟨hpc, hes⟩, htop, fun l => ?_⟩
      rw [hbits, BitVec.getLsbD_or, List.any_cons, Bool.or_assoc]
    · next hpc => exact ⟨[], by simp [hpc]⟩

theorem rejoins_rejoin (x : Strand) : Rejoins x x.rejoin := by
  obtain ⟨es, hst, hes, htop, hbits⟩ := rejoinAt_pops x.pc x.stack x.amask
  exact ⟨es, hst, hes, htop, hbits, rfl⟩

/-- With no path parked at its address on top, a strand is as it was. -/
theorem rejoin_none {x : Strand} (h : ∀ e, x.stack.head? = some e → e.pc ≠ x.pc) : x.rejoin = x := by
  have hkeep : rejoinAt x.pc x.stack x.amask = (x.stack, x.amask) := by
    cases hst : x.stack with
    | nil => rfl
    | cons e st =>
      rw [rejoinAt, if_neg]
      exact h e (by rw [hst]; rfl)
  unfold Strand.rejoin
  rw [hkeep]

theorem rejoinAt_present (n : DWord) (st : List DivEntry) (m p : BitVec 4) :
    (rejoinAt n st m).1.foldl (fun m e => m ||| e.mask) ((rejoinAt n st m).2 ||| p) = st.foldl (fun m e => m ||| e.mask) (m ||| p) := by
  induction st generalizing m with
  | nil => rfl
  | cons e st ih =>
    rw [rejoinAt]
    split
    · rw [ih, List.foldl_cons, BitVec.or_assoc, BitVec.or_comm e.mask, ← BitVec.or_assoc]
    · rfl

theorem present_rejoin (x : Strand) : x.rejoin.present = x.present := rejoinAt_present x.pc x.stack x.amask x.parked

/-! ## The loop-end rule (R124) -/

theorem loop_setLoop (x : Strand) (k j : Nat) (v : LoopLevel) : (x.setLoop k v).loop j = if k = j then v else x.loop j :=
  tget_tput _ _ _ _ _

/-! One equation of the rule for each way a level can go. -/

section
variable {x : Strand} {k : Nat} (ks : List Nat)

theorem loopEnd_skip (h : ¬ EndsAt x k) : x.loopEnd (k :: ks) = x.loopEnd ks := if_neg h

theorem loopEnd_round (h : EndsAt x k) (hone : (x.loop k).count ≠ 1) : x.loopEnd (k :: ks) =
    { x.setLoop k { x.loop k with count := (x.loop k).count - 1 } with pc := (x.loop k).start } :=
  (if_pos h).trans (if_pos (by rwa [ne_eq, sub_eq_zero]))

theorem loopEnd_zero (h : EndsAt x k) (hone : (x.loop k).count = 1) : x.loopEnd (k :: ks) =
    (x.setLoop k { x.loop k with count := (x.loop k).count - 1 }).loopEnd ks :=
  (if_pos h).trans (if_neg (by simp [hone]))

end

/-- Of some levels, those that end at a strand's PC and go round once more. -/
def RoundOf (ks : List Nat) (x : Strand) (k : Nat) : Prop := k ∈ ks ∧ EndsAt x k ∧ (x.loop k).count ≠ 1

/-- The levels that count down where some are tried, the highest first. -/
def CountsOf (ks : List Nat) (x : Strand) (k : Nat) : Prop := k ∈ ks ∧ EndsAt x k ∧ ∀ j, k < j → ¬ RoundOf ks x j

/-- The loop-end rule for some levels. -/
structure LevelsEnd (ks : List Nat) (x y : Strand) : Prop where
  counts : ∀ k, CountsOf ks x k → y.loop k = { x.loop k with count := (x.loop k).count - 1 }
  kept : ∀ k, ¬ CountsOf ks x k → y.loop k = x.loop k
  back : ∀ k, RoundOf ks x k → (∀ j, k < j → ¬ RoundOf ks x j) → y.pc = (x.loop k).start
  on : (∀ k, ¬ RoundOf ks x k) → y.pc = x.pc
  frame : { y with loops := x.loops, pc := x.pc } = x

section
variable {x : Strand} {k : Nat} {ks : List Nat}

/-- A level that does not end here leaves the rule to the lower ones. -/
theorem levelsEnd_cons_skip {y : Strand} (hk : ¬ EndsAt x k) (h : LevelsEnd ks x y) : LevelsEnd (k :: ks) x y := by
  have hround : ∀ j, RoundOf (k :: ks) x j ↔ RoundOf ks x j := fun j => by
    unfold RoundOf
    refine and_congr_left fun ⟨hj, _⟩ => List.mem_cons.trans (or_iff_right ?_)
    rintro rfl
    exact hk hj
  have hcounts : ∀ j, CountsOf (k :: ks) x j ↔ CountsOf ks x j := fun j => by
    unfold CountsOf
    simp only [hround]
    refine and_congr_left fun ⟨hj, _⟩ => List.mem_cons.trans (or_iff_right ?_)
    rintro rfl
    exact hk hj
  refine ⟨fun j hj => h.counts j ((hcounts j).1 hj), fun j hj => h.kept j (hj ∘ (hcounts j).2), fun j hj hmax => ?_, fun hno => ?_, h.frame⟩
  · exact h.back j ((hround j).1 hj) fun i hi => (hround i).not.1 (hmax i hi)
  · exact h.on fun j => (hround j).not.1 (hno j)

/-- The highest level goes round: no lower one counts. -/
theorem levelsEnd_cons_round (hlow : ∀ j ∈ ks, j < k) (hend : EndsAt x k) (hone : (x.loop k).count ≠ 1) :
    LevelsEnd (k :: ks) x { x.setLoop k { x.loop k with count := (x.loop k).count - 1 } with pc := (x.loop k).start } := by
  have hk : RoundOf (k :: ks) x k := ⟨List.mem_cons_self, hend, hone⟩
  have habove : ∀ j, k < j → ¬ RoundOf (k :: ks) x j := by
    rintro j hj ⟨hmem, -⟩
    rcases List.mem_cons.1 hmem with rfl | hmem
    · omega
    · exact absurd (hlow j hmem) (by omega)
  have honly : ∀ j, CountsOf (k :: ks) x j ↔ j = k := by
    refine fun j => ⟨fun ⟨hmem, _, hmax⟩ => ?_, ?_⟩
    · rcases List.mem_cons.1 hmem with rfl | hmem
      · rfl
      · exact absurd hk (hmax k (hlow j hmem))
    · rintro rfl
      exact ⟨List.mem_cons_self, hend, habove⟩
  refine ⟨fun j hj => ?_, fun j hj => ?_, fun j hj hmax => ?_, fun hno => absurd hk (hno k), rfl⟩
  · obtain rfl := (honly j).1 hj
    exact (loop_setLoop x j j _).trans (if_pos rfl)
  · exact (loop_setLoop x k j _).trans (if_neg fun h => hj ((honly j).2 h.symm))
  · rcases List.mem_cons.1 hj.1 with rfl | hmem
    · rfl
    · exact absurd hk (hmax k (hlow j hmem))

/-- The highest level reaches zero: it is left, and the lower ones are tried. -/
theorem levelsEnd_cons_zero {y : Strand} (hlow : ∀ j ∈ ks, j < k) (hend : EndsAt x k) (hone : (x.loop k).count = 1)
    (h : LevelsEnd ks (x.setLoop k { x.loop k with count := (x.loop k).count - 1 }) y) : LevelsEnd (k :: ks) x y := by
  set z := x.setLoop k { x.loop k with count := (x.loop k).count - 1 } with hz
  have hself : z.loop k = { x.loop k with count := (x.loop k).count - 1 } := (loop_setLoop x k k _).trans (if_pos rfl)
  have hother : ∀ j, j ≠ k → z.loop j = x.loop j := fun j hj => (loop_setLoop x k j _).trans (if_neg (Ne.symm hj))
  have hne : ∀ j ∈ ks, j ≠ k := fun j hj => (hlow j hj).ne
  have hends : ∀ j ∈ ks, (EndsAt z j ↔ EndsAt x j) := fun j hj => by
    unfold EndsAt
    rw [hother j (hne j hj)]
    rfl
  have hround : ∀ j, RoundOf (k :: ks) x j ↔ RoundOf ks z j := fun j => by
    unfold RoundOf
    constructor
    · rintro ⟨hmem, he, hc⟩
      rcases List.mem_cons.1 hmem with rfl | hmem
      · exact absurd hone hc
      · exact ⟨hmem, (hends j hmem).2 he, by rwa [hother j (hne j hmem)]⟩
    · rintro ⟨hmem, he, hc⟩
      exact ⟨List.mem_cons_of_mem _ hmem, (hends j hmem).1 he, by rwa [hother j (hne j hmem)] at hc⟩
  have hnot : k ∉ ks := fun hk => hne k hk rfl
  have hcounts : ∀ j, CountsOf (k :: ks) x j ↔ j = k ∨ CountsOf ks z j := fun j => by
    unfold CountsOf
    simp only [hround]
    constructor
    · rintro ⟨hmem, he, hmax⟩
      exact (List.mem_cons.1 hmem).imp id fun hmem => ⟨hmem, (hends j hmem).2 he, hmax⟩
    · rintro (rfl | ⟨hmem, he, hmax⟩)
      · exact ⟨List.mem_cons_self, hend, fun i hi ⟨hmem, _⟩ => absurd (hlow i hmem) (by omega)⟩
      · exact ⟨List.mem_cons_of_mem _ hmem, (hends j hmem).1 he, hmax⟩
  refine ⟨fun j hj => ?_, fun j hj => ?_, fun j hj hmax => ?_, fun hno => ?_, ?_⟩
  · rcases (hcounts j).1 hj with rfl | hj
    · rw [h.kept j fun hc => hnot hc.1, hself]
    · rw [h.counts j hj, hother j (hne j hj.1)]
  · have hjk : j ≠ k := fun hjk => hj ((hcounts j).2 (.inl hjk))
    rw [h.kept j fun hc => hj ((hcounts j).2 (.inr hc)), hother j hjk]
  · have hj' := (hround j).1 hj
    rw [h.back j hj' fun i hi => (hround i).not.1 (hmax i hi), hother j (hne j hj'.1)]
  · exact h.on fun j => (hround j).not.1 (hno j)
  · have hframe := congrArg (fun y : Strand => { y with loops := x.loops }) h.frame
    exact hframe

end

/-- The loop-end rule tries its levels in their order, the highest first. -/
theorem levelsEnd_loopEnd {ks : List Nat} (hks : ks.Pairwise (· > ·)) (x : Strand) : LevelsEnd ks x (x.loopEnd ks) := by
  induction ks generalizing x with
  | nil => exact ⟨fun _ h => absurd h.1 List.not_mem_nil, fun _ _ => rfl, fun _ h => absurd h.1 List.not_mem_nil, fun _ => rfl, rfl⟩
  | cons k ks ih =>
    obtain ⟨hlow, hks⟩ := List.pairwise_cons.1 hks
    by_cases hend : EndsAt x k
    · by_cases hone : (x.loop k).count = 1
      · rw [loopEnd_zero ks hend hone]
        exact levelsEnd_cons_zero hlow hend hone (ih hks _)
      · rw [loopEnd_round ks hend hone]
        exact levelsEnd_cons_round hlow hend hone
    · rw [loopEnd_skip ks hend]
      exact levelsEnd_cons_skip hend (ih hks x)

theorem roundOf_all (x : Strand) (k : Nat) : RoundOf [2, 1, 0] x k ↔ GoesRound x k := by
  unfold RoundOf GoesRound
  refine and_congr_left fun _ => ?_
  simp only [List.mem_cons, List.not_mem_nil, or_false]
  omega

theorem countsOf_all (x : Strand) (k : Nat) :
    CountsOf [2, 1, 0] x k ↔ k < 3 ∧ EndsAt x k ∧ ∀ j, k < j → ¬ GoesRound x j := by
  unfold CountsOf
  simp only [roundOf_all]
  refine and_congr_left fun _ => ?_
  simp only [List.mem_cons, List.not_mem_nil, or_false]
  omega

theorem loopsEnd_loopEnd (x : Strand) : LoopsEnd x (x.loopEnd [2, 1, 0]) := by
  obtain ⟨hcounts, hkept, hback, hon, hframe⟩ := levelsEnd_loopEnd (ks := [2, 1, 0]) (by decide) x
  simp only [roundOf_all, countsOf_all] at hcounts hkept hback hon
  exact ⟨hcounts, hkept, hback, hon, hframe⟩

/-! ## Arriving (R112) -/

/-- The loop-end rule moves no path and no lane. -/
theorem loopsEnd_paths {x y : Strand} (h : LoopsEnd x y) : y.stack = x.stack ∧ y.amask = x.amask ∧ y.parked = x.parked := by
  obtain ⟨-, -, -, -, hframe⟩ := h
  have hstack := congrArg Strand.stack hframe
  have hamask := congrArg Strand.amask hframe
  have hparked := congrArg Strand.parked hframe
  exact ⟨hstack, hamask, hparked⟩

theorem loopsEnd_present {x y : Strand} (h : LoopsEnd x y) : y.present = x.present := by
  obtain ⟨hstack, hamask, hparked⟩ := loopsEnd_paths h
  rw [Strand.present, hstack, hamask, hparked, ← Strand.present]

/-- Settles O15: a strand rejoins, runs the loop-end rule, and rejoins where that leaves it. -/
theorem arrival : Obligations.Arrival := by
  unfold Obligations.Arrival
  intro x
  have hloops := loopsEnd_loopEnd x.rejoin
  refine ⟨x.rejoin, x.rejoin.loopEnd [2, 1, 0], rejoins_rejoin x, hloops, rejoins_rejoin _, fun hpc => ?_, ?_⟩
  · obtain ⟨-, -, -, htop, -, -⟩ := rejoins_rejoin x
    refine rejoin_none fun e he => ?_
    rw [(loopsEnd_paths hloops).1] at he
    rw [hpc]
    exact htop e he
  · rw [Strand.arrive, present_rejoin, loopsEnd_present hloops, present_rejoin]

end Sys2Proof.Proofs.Arrivals
end

section
/-!
PROOFS. The elements and words that the integer and word instructions write in each active lane (R107-R109, R137-R142, R174).
-/
namespace Sys2Proof.Proofs.IntegerElements
open Sys2Proof Sys2Proof.Machine Sys2Proof.Safety
open Sys2Proof.Proofs.ScalarValues

/-! ## Widths and bounds of the types (R41, R42) -/

theorem typeBits_le (t : Nat) : typeBits t ≤ 64 := by
  unfold typeBits
  split <;> decide

theorem typeWords_cases (t : Nat) : typeWords t = 1 ∨ typeWords t = 2 := by
  unfold typeWords
  split
  · exact .inr rfl
  · exact .inl rfl

theorem elemNat_lt (t : Nat) (ws : List Word) (e : Nat) : elemNat (typeBits t) ws e < 2 ^ typeBits t :=
  Nat.mod_lt _ (Nat.two_pow_pos _)

theorem bounds_within (t : Nat) :
    -2 ^ 64 ≤ minInt (typeBits t) (typeSigned t) ∧ maxInt (typeBits t) (typeSigned t) < 2 ^ 64 := by
  have hall : (2 : Int) ^ typeBits t ≤ 2 ^ 64 := pow_le_pow_right₀ (by decide) (typeBits_le t)
  have hhalf : (2 : Int) ^ (typeBits t - 1) ≤ 2 ^ typeBits t := pow_le_pow_right₀ (by decide) (by omega)
  unfold minInt maxInt
  cases typeSigned t <;> simp only [Bool.false_eq_true, if_false, if_true] <;> omega

/-! ## Shifts of elements (R138) -/

/-- A number shifted out of its type to the left fits as any longer shift of it does. -/
theorem fitT_shift_large (s : State) (x : Int) {k : Nat} (hk : 64 ≤ k) : s.fitT (x * 2 ^ k) = s.fitT (x * 2 ^ 64) := by
  obtain ⟨hlo, hhi⟩ := bounds_within (mType s.mode)
  have hw : 1 ≤ typeBits (mType s.mode) := by have := typeBits_pos (mType s.mode); omega
  have hminmax := minmax _ hw (typeSigned (mType s.mode))
  have hpow : (2 : Int) ^ 64 ≤ 2 ^ k := pow_le_pow_right₀ (by decide) hk
  unfold State.fitT fit
  dsimp only
  split
  · rw [sat_eq _ hw, sat_eq _ hw]
    rcases lt_trichotomy x 0 with hx | rfl | hx
    · have h1 : x * 2 ^ k ≤ -2 ^ 64 := by nlinarith
      have h2 : x * 2 ^ 64 ≤ -2 ^ 64 := by nlinarith
      omega
    · simp
    · have h1 : 2 ^ 64 ≤ x * 2 ^ k := by nlinarith
      have h2 : 2 ^ 64 ≤ x * 2 ^ 64 := by nlinarith
      omega
  · have hzero : ∀ n, 64 ≤ n → x * 2 ^ n % (2 : Int) ^ typeBits (mType s.mode) = 0 := fun n hn =>
      Int.emod_eq_zero_of_dvd (Dvd.dvd.mul_left (pow_dvd_pow 2 ((typeBits_le _).trans hn)) x)
    unfold wrapInt
    rw [hzero k hk, hzero 64 le_rfl]

theorem shlElem_eq (s : State) (x : Int) (k : Nat) : s.shlElem x k = s.fitT (x * 2 ^ k) := by
  unfold State.shlElem
  rcases Nat.le_total k 64 with h | h
  · rw [Nat.min_eq_left h]
  · rw [Nat.min_eq_right h, fitT_shift_large s x h]

theorem shrElem_eq (t : Nat) (ws : List Word) (e k : Nat) :
    shrElem (elemNat (typeBits t) ws e) k = ((elemNat (typeBits t) ws e / 2 ^ k : Nat) : Int) := by
  have hlt := lt_of_lt_of_le (elemNat_lt t ws e) (Nat.pow_le_pow_right (by decide) (typeBits_le t))
  generalize elemNat (typeBits t) ws e = x at hlt ⊢
  have hdiv := ediv_pow_min (x := (x : Int)) (m := 64) k (by omega) (by exact_mod_cast hlt)
  unfold shrElem
  exact_mod_cast hdiv

theorem sraElem_eq (t x k : Nat) : sraElem (typeBits t) x k = wrapInt (typeBits t) true (x : Int) / 2 ^ k := by
  have hw : 1 ≤ typeBits t := by have := typeBits_pos t; omega
  obtain ⟨hlo, hhi, -⟩ := wrap_range (typeBits t) hw true (x : Int)
  have hpow : (2 : Int) ^ (typeBits t - 1) ≤ 2 ^ 64 := pow_le_pow_right₀ (by decide) (by have := typeBits_le t; omega)
  simp only [minInt, maxInt, if_true] at hlo hhi
  exact ediv_pow_min k (by omega) (by omega)

/-! ## Products and extremes (R137) -/

/-- The high half of a product of two numbers of a type is one of the type. -/
theorem highHalf_range (t : Nat) {x y : Int} (hx : minInt (typeBits t) (typeSigned t) ≤ x ∧ x ≤ maxInt (typeBits t) (typeSigned t))
    (hy : minInt (typeBits t) (typeSigned t) ≤ y ∧ y ≤ maxInt (typeBits t) (typeSigned t)) :
    minInt (typeBits t) (typeSigned t) ≤ x * y / 2 ^ typeBits t ∧ x * y / 2 ^ typeBits t ≤ maxInt (typeBits t) (typeSigned t) := by
  have hpos : (0 : Int) < 2 ^ typeBits t := by positivity
  have hhalf : (2 : Int) ^ typeBits t = 2 * 2 ^ (typeBits t - 1) := by
    rw [← pow_succ']
    exact congrArg _ (by have := typeBits_pos t; omega)
  rw [Int.le_ediv_iff_mul_le hpos, ← Int.lt_add_one_iff (a := x * y / _), Int.ediv_lt_iff_lt_mul hpos]
  unfold minInt maxInt at *
  rw [hhalf] at hx hy hpos ⊢
  generalize (2 : Int) ^ (typeBits t - 1) = q at hx hy hpos ⊢
  obtain ⟨hx1, hx2⟩ := hx
  obtain ⟨hy1, hy2⟩ := hy
  cases hsigned : typeSigned t with
  | false =>
    simp only [hsigned, Bool.false_eq_true, if_false] at hx1 hx2 hy1 hy2 ⊢
    exact ⟨by nlinarith, by nlinarith⟩
  | true =>
    simp only [hsigned, if_true] at hx1 hx2 hy1 hy2 ⊢
    exact ⟨by nlinarith, by nlinarith⟩

/-! ## Immediates and lane numbers (R141) -/

theorem splitWords_one (x : Nat) : splitWords x 1 = [BitVec.ofNat 32 x] := rfl

theorem splitWords_two (x : Nat) : splitWords x 2 = [BitVec.ofNat 32 x, BitVec.ofNat 32 (x / 2 ^ 32)] := rfl

/-- The words of a sign-extended immediate. -/
theorem splitWords_signExtend {v : Nat} (hv : v ≤ 32) (n : BitVec v) {k : Nat} (hk : k = 1 ∨ k = 2) :
    splitWords (n.signExtend 64).toNat k =
      if k = 2 then [n.signExtend 32, if n.msb then -1 else 0] else [n.signExtend 32] := by
  have hlow : BitVec.ofNat 32 (n.signExtend 64).toNat = n.signExtend 32 := by
    apply BitVec.eq_of_getLsbD_eq
    intro i hi
    simp only [BitVec.getLsbD_ofNat, BitVec.testBit_toNat, BitVec.getLsbD_signExtend, hi, show i < 64 by omega, decide_true, Bool.true_and]
  have hhigh : BitVec.ofNat 32 ((n.signExtend 64).toNat / 2 ^ 32) = if n.msb then -1 else 0 := by
    apply BitVec.eq_of_getLsbD_eq
    intro i hi
    rw [BitVec.getLsbD_ofNat, Nat.testBit_div_two_pow, BitVec.testBit_toNat, BitVec.getLsbD_signExtend, if_neg (by omega)]
    cases n.msb with
    | false => simp
    | true => 
      rw [if_pos rfl, show (-1 : BitVec 32) = BitVec.allOnes 32 from rfl, BitVec.getLsbD_allOnes, decide_eq_true hi,
        decide_eq_true (by omega)]
      rfl
  rcases hk with rfl | rfl
  · rw [splitWords_one, hlow]; rfl
  · rw [splitWords_two, hlow, hhigh]; rfl

theorem splitWords_lane {l : Nat} (hl : l < 64) {k : Nat} (hk : k = 1 ∨ k = 2) :
    splitWords l k = if k = 2 then [BitVec.ofNat 32 l, 0] else [BitVec.ofNat 32 l] := by
  rcases hk with rfl | rfl
  · rfl
  · rw [splitWords_two, Nat.div_eq_of_lt (by omega)]; rfl

/-! ## Packing (R142) -/

theorem toBits_mod (w : Nat) (x : Int) : toBits w x % 2 ^ w = toBits w x := by
  have hpos : (0 : Int) < 2 ^ w := by positivity
  have hlt := Int.emod_lt_of_pos x hpos
  have hnonneg := Int.emod_nonneg x hpos.ne'
  apply Nat.mod_eq_of_lt
  unfold toBits
  zify
  rwa [Int.toNat_of_nonneg hnonneg]

/-- Two values narrowed to elements of half the width: the first source's below, the second's above. -/
theorem packed_elems {t : Nat} (ht : typeBits t = 2 * (typeBits t / 2)) (f g : Nat → Int) {e : Nat} (he : e < typeCount t) :
    let w := typeBits t / 2
    let ws := packElems w (typeWords t) ((List.range (typeCount t)).map (fun e => toBits w (f e)) ++
      (List.range (typeCount t)).map fun e => toBits w (g e))
    elemNat w ws e = toBits w (f e) ∧ elemNat w ws (typeCount t + e) = toBits w (g e) := by
  intro w ws
  have hfits := typeFits t
  have hroom : w * ((List.range (typeCount t)).map (fun e => toBits w (f e)) ++
      (List.range (typeCount t)).map fun e => toBits w (g e)).length ≤ 32 * typeWords t := by
    rw [List.length_append, List.length_map, List.length_map, List.length_range]
    calc w * (typeCount t + typeCount t) = 2 * w * typeCount t := by ring
      _ = typeBits t * typeCount t := by rw [← ht]
      _ ≤ 32 * typeWords t := hfits
  constructor
  · rw [elemNat_pack w _ _ hroom, List.getD_append _ _ _ _ (by simpa using he)]
    simp [he, toBits_mod]
  · rw [elemNat_pack w _ _ hroom, List.getD_append_right _ _ _ _ (by simp)]
    simp [he, toBits_mod]

/-! ## Window headers (R35, R174) -/

/-- The length of an elastic-float window by its header. -/
theorem headerLength_eq (w : Word) : (fld w 12 3 : BitVec 3).zeroExtend 32 + 1 = BitVec.ofNat 32 (w.toNat / 2 ^ 12 % 8 + 1) := by
  apply BitVec.eq_of_toNat_eq
  simp [fld, Nat.shiftRight_eq_div_pow]

/-! ## Sources -/

section
variable {s : State} {d : Reg} {srcs : List Reg} {noq ok : Bool}

/-- Each source of an instruction of MODE.type's width has the words of the type. -/
theorem src_length (h : OperandsReady s (uses s d srcs noq ok)) {i : Nat} (hi : i < srcs.length) (l : Nat) :
    (src s (uses s d srcs noq ok) i l).length = typeWords (mType s.mode) := by
  obtain ⟨hclass, -⟩ := ops_ok h
  refine src_len _ (fun x hx => ?_) i (by simpa [State.vecUses] using hi) (fun x hx => ?_) (typeWords_cases _) []
  · obtain ⟨r, -, rfl⟩ := List.mem_map.1 hx
    rfl
  · have hgood := List.any_eq_false.1 hclass x hx
    cases hr : x.1 with
    | v j => exact .inl ⟨j, rfl⟩
    | s j => exact .inr (.inr ⟨j, rfl⟩)
    | q j =>
      refine .inr (.inl ⟨j, rfl, ?_⟩)
      rw [hr] at hgood
      simp only [State.badSrc, Bool.or_eq_true, not_or] at hgood
      simpa using hgood.1

/-- A bitwise operation of two sources, word by word. -/
theorem bitwise_words (f : Word → Word → Word) {a b : Reg} {l : Nat} (h : OperandsReady s (uses s d [a, b] noq ok)) :
    let u := uses s d [a, b] noq ok
    let ws := zipVals f (s.g.srcVals l [] u.srcs)
    ws.length = typeWords (mType s.mode) ∧
      ∀ k, k < typeWords (mType s.mode) → ws[k]? = some (f ((src s u 0 l).getD k 0) ((src s u 1 l).getD k 0)) := by
  intro u ws
  have ha : (src s u 0 l).length = typeWords (mType s.mode) := src_length h (by simp) l
  have hb : (src s u 1 l).length = typeWords (mType s.mode) := src_length h (by simp) l
  have hws : ws = List.zipWith f (src s u 0 l) (src s u 1 l) := rfl
  refine ⟨by rw [hws, List.length_zipWith, ha, hb, Nat.min_self], fun k hk => ?_⟩
  rw [hws, List.getElem?_zipWith, List.getElem?_eq_getElem (by omega), List.getElem?_eq_getElem (by omega)]
  simp [List.getD_eq_getElem?_getD, ha, hb, hk]

end

/-! ## The instructions -/

/-- What the statement says of one instruction: it runs, with words of its rule in each active lane. -/
def WritesByRule (s : State) (i : Instr) (u : Uses) (d : Reg) (P : Uses → Nat → List Word → Prop) : Prop :=
  ∃ (t : State) (ws : Nat → List Word), Runs i s t ∧ (∀ l ∈ s.lanes, P u l (ws l)) ∧
    WritesLanes s t i.words u 0 d (s.lanes.map fun l => (l, ws l))

theorem drawCount_zero (m : BitVec 24) : drawCount m 0 = 0 := ite_self 0

/-- An instruction of the vector form that draws nothing writes what its function gives. -/
theorem vectorForm_writes {s : State} {i : Instr} {u : Uses} {d : Reg} {P : Uses → Nat → List Word → Prop} {n : Nat}
    (hr : OperandsReady s u) (hb : s.bus = []) (hs : Stays s i.words)
    (f : Nat → List (List Word) → List Word → List Word → Option (List Word)) (ws : Nat → List Word)
    (he : exec i s = ran s (s.vecOp u d 0 n f i.words))
    (hf : ∀ l, f l (s.g.srcVals l [] u.srcs) (oldWords s d n l) (srgDraws (s.g.gen l) (drawCount s.mode 0)) = some (ws l))
    (hP : ∀ l ∈ s.lanes, P u l (ws l)) : WritesByRule s i u d P := by
  have hwrites := vecOp_writes s u d 0 n f i.words ws hf hr hb hs
  rw [drawCount_zero] at hwrites
  exact ⟨_, ws, he, hP, hwrites⟩

section
variable {s : State} {i : Instr} {d : Reg} {srcs : List Reg} {P : Uses → Nat → List Word → Prop} (hb : s.bus = []) (hs : Stays s i.words)
include hb hs

/-- An element-wise instruction writes the elements that its function gives. -/
theorem elementForm_writes {noq : Bool} (f : List (List Word) → List Word → Nat → Int) (he : exec i s = ran s (s.intOp d srcs noq f))
    (hw : i.words = 1) (hr : OperandsReady s (uses s d srcs noq (intType (mType s.mode))))
    (hP : ∀ l ∈ s.lanes, P (uses s d srcs noq (intType (mType s.mode))) l (buildElems (mType s.mode)
      (f (s.g.srcVals l [] (uses s d srcs noq (intType (mType s.mode))).srcs) (oldWords s d (typeWords (mType s.mode)) l)))) :
    WritesByRule s i (uses s d srcs noq (intType (mType s.mode))) d P :=
  vectorForm_writes hr hb hs (fun _ vs old _ => some (buildElems (mType s.mode) (f vs old))) _ (by rw [hw]; exact he) (fun _ => rfl) hP

/-- An instruction on whole words writes the words that its function gives. -/
theorem wordForm_writes (f : Nat → List (List Word) → List Word) (he : exec i s = ran s (s.wordOp d srcs f i.words))
    (hr : OperandsReady s (uses s d srcs false true))
    (hP : ∀ l ∈ s.lanes, P (uses s d srcs false true) l (f l (s.g.srcVals l [] (uses s d srcs false true).srcs))) :
    WritesByRule s i (uses s d srcs false true) d P :=
  vectorForm_writes hr hb hs (fun l vs _ _ => some (f l vs)) _ he (fun _ => rfl) hP

end

/-- The elements of two sources narrowed to half their width (R142). -/
def packedWords (s : State) (vs : List (List Word)) : List Word :=
  let t := mType s.mode
  let w := typeBits t / 2
  let narrowed (i : Nat) := (List.range (typeCount t)).map fun e => toBits w (satInt w (typeSigned t) (srcElem t i vs e))
  packElems w (typeWords t) (narrowed 0 ++ narrowed 1)

theorem packedWords_elems (s : State) (vs : List (List Word)) {e : Nat} (he : e < typeCount (mType s.mode)) :
    let t := mType s.mode
    let h := typeBits t / 2
    let clamp (x : Int) := max (minInt h (typeSigned t)) (min (maxInt h (typeSigned t)) x)
    elemNat h (packedWords s vs) e = toBits h (clamp (srcElem t 0 vs e)) ∧
      elemNat h (packedWords s vs) (typeCount t + e) = toBits h (clamp (srcElem t 1 vs e)) := by
  have heven : typeBits (mType s.mode) = 2 * (typeBits (mType s.mode) / 2) := by
    generalize mType s.mode = t
    unfold typeBits
    split <;> rfl
  have hhalf : 1 ≤ typeBits (mType s.mode) / 2 := by have := typeBits_pos (mType s.mode); omega
  have hpacked := packed_elems heven (fun e => satInt (typeBits (mType s.mode) / 2) (typeSigned (mType s.mode)) (srcElem (mType s.mode) 0 vs e))
    (fun e => satInt (typeBits (mType s.mode) / 2) (typeSigned (mType s.mode)) (srcElem (mType s.mode) 1 vs e)) he
  simp only [sat_eq _ hhalf] at hpacked
  simpa only [packedWords, sat_eq _ hhalf] using hpacked

theorem intRule_writes {s : State} {i : Instr} {u : Uses} {d : Reg} {P : Uses → Nat → List Word → Prop} (h : IntRule s i u d P)
    (hr : OperandsReady s u) (hb : s.bus = []) (hs : Stays s i.words) : WritesByRule s i u d P := by
  have hrange := fun i l e => elem_range (mType s.mode) (src s u i l) e
  cases h with
  | vadd | vsub | vmul | vmad | vabsd | vaddi => exact elementForm_writes hb hs _ rfl rfl hr fun _ _ => elems_fit s _
  | vmulh =>
    exact elementForm_writes hb hs _ rfl rfl hr fun l _ => elems_eq s _ fun e => highHalf_range _ (hrange 0 l e) (hrange 1 l e)
  | vmin =>
    refine elementForm_writes hb hs _ rfl rfl hr fun l _ => elems_eq s _ fun e => ?_
    exact ⟨le_min (hrange 0 l e).1 (hrange 1 l e).1, (min_le_left _ _).trans (hrange 0 l e).2⟩
  | vmax =>
    refine elementForm_writes hb hs _ rfl rfl hr fun l _ => elems_eq s _ fun e => ?_
    exact ⟨(hrange 0 l e).1.trans (le_max_left _ _), max_le (hrange 0 l e).2 (hrange 1 l e).2⟩
  | vshl | vshli =>
    refine elementForm_writes hb hs _ rfl rfl hr fun l _ => ?_
    simp only [shlElem_eq]
    exact elems_fit s _
  | vshr | vshri =>
    refine elementForm_writes hb hs _ rfl rfl hr fun l _ => ?_
    simp only [srcBits, shrElem_eq]
    exact elems_u s _
  | vsra | vsrai =>
    refine elementForm_writes hb hs _ rfl rfl hr fun l _ => ?_
    simp only [sraElem_eq]
    exact elems_toBits s _
  | vpopc =>
    refine elementForm_writes hb hs _ rfl rfl hr fun l _ => ?_
    simp only [popc_eq_countP]
    exact elems_u s _
  | vclz =>
    refine elementForm_writes hb hs _ rfl rfl hr fun l _ => ?_
    simp only [clz_eq]
    exact elems_u s _
  | vand | vor | vxor => exact wordForm_writes hb hs _ rfl hr fun _ _ => bitwise_words _ hr
  | vsel d k a b =>
    refine wordForm_writes hb hs _ rfl hr fun l _ => ?_
    split <;> rfl
  | vmovi => exact wordForm_writes hb hs _ rfl hr fun _ _ => splitWords_signExtend (by decide) _ (typeWords_cases _)
  | vmovx =>
    refine wordForm_writes hb hs _ rfl hr fun _ _ => (splitWords_signExtend (by decide) _ (typeWords_cases _)).trans ?_
    rw [BitVec.signExtend_eq]
  | vlane => exact wordForm_writes hb hs _ rfl hr fun _ hl => splitWords_lane (mem_lanes_lt hl) (typeWords_cases _)
  | vmov => exact wordForm_writes hb hs _ rfl hr fun _ _ => rfl
  | vpacks d a b =>
    exact vectorForm_writes hr hb hs (fun _ vs _ _ => some (packedWords s vs)) _ rfl (fun _ => rfl) fun l _ =>
      ⟨splitWords_length _ _, fun e he => packedWords_elems s _ he⟩
  | eflen d a =>
    refine vectorForm_writes hr hb hs
      (fun _ vs _ _ => some [((fld ((vs.getD 0 []).headD 0) 12 3 : BitVec 3).zeroExtend 32) + 1]) _ rfl (fun _ => rfl) fun l _ => ?_
    exact congrArg (· :: []) (headerLength_eq _)

/-- Settles O7: the element-wise and the word forms write what their functions give, and each function gives the elements of its
rule. -/
theorem integerResults : Obligations.IntegerResults := by
  unfold Obligations.IntegerResults
  intro s i u d P hrule hready hbus hstays
  exact intRule_writes hrule hready hbus hstays

end Sys2Proof.Proofs.IntegerElements
end

section
/-!
PROOFS. An EXIT that leaves only strands that have arrived at a REGANG and differ in PREC (R116, R121): they trap, and without a handler
their launch stops, so that its stack's dispatcher drops the launch's teams (R367).
-/
namespace Sys2Proof.Proofs.ExitAtRegang
open Sys2Proof Sys2Proof.Machine Sys2Proof.Safety

/-- A group of three strands without a handler: the first about to execute EXIT, the others waiting at a REGANG with different
PREC, while the dispatcher of stack 0 still holds a team of their launch. -/
def lastToExit : State :=
  (Tests.onGroup fun g => { g with strands := [{ pc := 0x10004 },
    { pc := 0x10008, jset := 9, arrived := true, wait := some .regang },
    { pc := 0x10008, jset := 10, arrived := true, wait := some .regang, prec := 8 }] }).onStack 0 fun k =>
      { k with offers := [{ launch := 1, team := 1 }] }

theorem lastToExit_ks : lastToExit.ks = [0] := by decide

theorem lastToExit_noTraveller : lastToExit.g.trav = none := rfl

theorem lastToExit_notArrived : (lastToExit.g.strand 0).arrived = false := rfl

/-- The stack dispatcher's teams after an instruction of a state. -/
def offersAfter (i : Instr) (s : State) : List Offer :=
  match exec i s with
  | .next t => (t.stack 0).offers
  | _ => []

theorem offersAfter_of_runs {i : Instr} {s t : State} (h : Runs i s t) : (t.stack 0).offers = offersAfter i s := by
  unfold offersAfter
  rw [show exec i s = .next t from h]

theorem lastToExit_offers : (lastToExit.stack 0).offers ≠ [] := by decide

theorem lastToExit_offersAfter : offersAfter .exit lastToExit = [] := by decide

/-- Refutes O16: with the EXIT of the last strand that has not arrived, the two at the REGANG take 0x08, which stops their launch, and
the team that the stack dispatcher held is dropped; the claim has the stacks left alone. -/
theorem not_exitEnds : ¬ Obligations.ExitEnds := by
  unfold Obligations.ExitEnds
  intro h
  obtain ⟨t, hrun, -, hframe, -⟩ := h lastToExit rfl
    (fun k hk => by
      rw [lastToExit_ks, List.mem_singleton] at hk
      rw [hk]
      exact lastToExit_notArrived)
    (fun tr htr => by
      rw [lastToExit_noTraveller] at htr
      cases htr)
  have hoffers : (t.stack 0).offers = (lastToExit.stack 0).offers := by
    have hstacks := congrArg (fun u : State => (u.stack 0).offers) hframe
    exact hstacks
  rw [offersAfter_of_runs hrun, lastToExit_offersAfter] at hoffers
  exact lastToExit_offers hoffers.symm

end Sys2Proof.Proofs.ExitAtRegang
end

section
/-!
PROOFS. The end of a group (R116, R182): what serving the units it frees, freeing its team's places and the check of a drain change.
-/
namespace Sys2Proof.Proofs.GroupEnds
open Sys2Proof Sys2Proof.Machine Sys2Proof.Safety

/-! ## Groups but for what a grant changes -/

/-- A group without what a granted claim or restore changes of it. -/
def bare (g : Group) : Group := { g with held := 0, restoring := false, strands := [] }

/-- The groups of a state, each bare, under their keys. -/
def bareGroups (s : State) : Table Group := s.groups.map fun e => (e.1, bare e.2)

/-- The same groups stand, alike but for what grants change, and no team or launch differs. -/
structure SameResidents (s t : State) : Prop where
  groups : bareGroups t = bareGroups s
  teams : t.teams = s.teams
  launches : t.launches = s.launches

theorem SameResidents.refl (s : State) : SameResidents s s := ⟨rfl, rfl, rfl⟩

theorem SameResidents.trans {s t u : State} (h : SameResidents s t) (h' : SameResidents t u) : SameResidents s u :=
  ⟨h'.groups.trans h.groups, h'.teams.trans h.teams, h'.launches.trans h.launches⟩

theorem SameResidents.of_eq {s t : State} (hg : t.groups = s.groups) (ht : t.teams = s.teams) (hl : t.launches = s.launches) :
    SameResidents s t := ⟨by rw [bareGroups, hg, ← bareGroups], ht, hl⟩

theorem bareGroups_keys (s : State) : (bareGroups s).map (·.1) = s.groups.map (·.1) := by
  rw [bareGroups, List.map_map]
  rfl

theorem SameResidents.sorted {s t : State} (h : SameResidents s t) (hs : Sorted s.groups) : Sorted t.groups := by
  rw [Sorted, ← bareGroups_keys, h.groups, bareGroups_keys]
  exact hs

theorem SameResidents.tfind_bare {s t : State} (h : SameResidents s t) (j : Nat) :
    (tfind t.groups j).map bare = (tfind s.groups j).map bare := by
  rw [← tfind_map, ← tfind_map]
  exact congrArg (tfind · j) h.groups

theorem SameResidents.tfind_none {s t : State} (h : SameResidents s t) {j : Nat} (hj : tfind s.groups j = none) :
    tfind t.groups j = none := by
  have hmap := h.tfind_bare j
  rw [hj, Option.map_none, Option.map_eq_none_iff] at hmap
  exact hmap

theorem SameResidents.tfind_some {s t : State} (h : SameResidents s t) {j : Nat} {x : Group} (hj : tfind s.groups j = some x) :
    ∃ y, tfind t.groups j = some y ∧ { y with held := x.held, restoring := x.restoring, strands := x.strands } = x := by
  have hmap := h.tfind_bare j
  rw [hj, Option.map_some, Option.map_eq_some_iff] at hmap
  obtain ⟨y, hy, hbare⟩ := hmap
  have hback := congrArg (fun g : Group => { g with held := x.held, restoring := x.restoring, strands := x.strands }) hbare
  exact ⟨y, hy, hback⟩

/-- Whether some group has a property that grants do not change. -/
theorem SameResidents.any {s t : State} (h : SameResidents s t) {p : Group → Bool} (hp : ∀ g, p (bare g) = p g) :
    (t.groups.any fun e => p e.2) = s.groups.any fun e => p e.2 := by
  have hany : ∀ u : State, (u.groups.any fun e => p e.2) = (bareGroups u).any fun e => p e.2 := fun u => by
    rw [bareGroups, List.any_map]
    simp only [Function.comp_def, hp]
  rw [hany, hany, h.groups]

/-- A group changed in nothing but what a grant changes. -/
theorem map_bare_tset {t : Table Group} (hs : Sorted t) {k : Nat} {g x : Group} (hg : tfind t k = some g) (hx : bare x = bare g) :
    (tset t k x).map (fun e => (e.1, bare e.2)) = t.map fun e => (e.1, bare e.2) := by
  induction t with
  | nil => cases hg
  | cons e t ih =>
    obtain ⟨n, w⟩ := e
    obtain ⟨habove, hs⟩ := List.pairwise_cons.1 hs
    rw [tfind_cons] at hg
    rw [tset]
    by_cases hn : n = k
    · subst hn
      rw [if_pos rfl] at hg
      cases hg
      rw [if_neg (lt_irrefl n), if_pos rfl, List.map_cons, List.map_cons, hx]
    · rw [if_neg hn] at hg
      have hlt : n < k := by
        by_contra hle
        have hno : tfind t k = none := tfind_above fun e he =>
          lt_trans (show k < n by omega) (habove e.1 (List.mem_map_of_mem he))
        rw [hno] at hg
        cases hg
      rw [if_neg (by omega), if_neg (Ne.symm hn), List.map_cons, List.map_cons, ih hs hg]

theorem sameResidents_setGrp {s : State} (hs : Sorted s.groups) {k : Nat} {g x : Group} (hg : tfind s.groups k = some g)
    (hx : bare x = bare g) : SameResidents s (s.setGrp k x) := ⟨map_bare_tset hs hg hx, rfl, rfl⟩

/-! ## Serving a partition (R198, R203) -/

theorem sameResidents_grant {s : State} (hs : Sorted s.groups) (c : Claim) : SameResidents s (s.grant c) := by
  unfold State.grant
  split
  · exact .refl s
  · next g hg => exact sameResidents_setGrp hs hg rfl

theorem sameResidents_grantRestore {s : State} (hs : Sorted s.groups) (core part : Nat) {k : Nat} (hk : tfind s.groups k ≠ none) :
    SameResidents s (s.grantRestore core part k) := by
  obtain ⟨g, hg⟩ := Option.ne_none_iff_exists'.1 hk
  have hgrp : s.grp k = g := by rw [State.grp, tget, hg]; rfl
  refine sameResidents_setGrp hs hg ?_
  rw [hgrp]
  rfl

theorem sameResidents_serveRestores (core part : Nat) (ks : List Nat) {s : State} (hs : Sorted s.groups)
    (hks : ∀ k ∈ ks, tfind s.groups k ≠ none) : SameResidents s (s.serveRestores core part ks).2 := by
  induction ks generalizing s with
  | nil => exact .refl s
  | cons k ks ih =>
    obtain ⟨hk, hks⟩ := List.forall_mem_cons.1 hks
    rw [State.serveRestores]
    split
    · have hgrant := sameResidents_grantRestore hs core part hk
      refine hgrant.trans (ih (hgrant.sorted hs) fun j hj hnone => hks j hj ?_)
      have hmap := hgrant.tfind_bare j
      rwa [hnone, Option.map_none, eq_comm, Option.map_eq_none_iff] at hmap
    · exact .refl s

theorem sameResidents_serveClaims (core part : Nat) (cs : List Claim) {s : State} (hs : Sorted s.groups) :
    SameResidents s (s.serveClaims core part cs) := by
  induction cs generalizing s with
  | nil => exact .refl s
  | cons c cs ih =>
    have hgone : SameResidents s (s.onCore core fun x => { x with claims := x.claims.erase c }) := .of_eq rfl rfl rfl
    have hsorted := hgone.sorted hs
    rw [State.serveClaims]
    split
    · exact hgone.trans (ih hsorted)
    · split
      · have hgrant := sameResidents_grant hsorted c
        exact (hgone.trans hgrant).trans (ih (hgrant.sorted hsorted))
      · exact .refl s

theorem tfind_ne_none_of_mem {t : Table Group} {e : Nat × Group} (he : e ∈ t) : tfind t e.1 ≠ none := by
  induction t with
  | nil => cases he
  | cons a t ih =>
    obtain ⟨n, w⟩ := a
    rw [tfind_cons]
    split
    · exact Option.some_ne_none _
    · next hn =>
      rcases List.mem_cons.1 he with rfl | he
      · exact absurd rfl hn
      · exact ih he

/-- Serving a partition's units changes no more of its groups than the units, the restores and the strands. -/
theorem sameResidents_serve {s : State} (hs : Sorted s.groups) (core part : Nat) : SameResidents s (s.serve core part) := by
  have hrestores := sameResidents_serveRestores core part
    ((s.groups.filter fun e => e.2.core == core && e.2.part == part && e.2.restoring).map (·.1)) hs (fun k hk => by
      obtain ⟨e, he, rfl⟩ := List.mem_map.1 hk
      exact tfind_ne_none_of_mem (List.mem_filter.1 he).1)
  unfold State.serve
  dsimp only
  split
  · exact hrestores.trans (sameResidents_serveClaims core part _ (hrestores.sorted hs))
  · exact hrestores

/-! ## Retirements that were due (R225, R464) -/

/-- No group, team or launch differs. -/
structure SameTables (s t : State) : Prop where
  groups : t.groups = s.groups
  teams : t.teams = s.teams
  launches : t.launches = s.launches

theorem SameTables.refl (s : State) : SameTables s s := ⟨rfl, rfl, rfl⟩

theorem SameTables.trans {s t u : State} (h : SameTables s t) (h' : SameTables t u) : SameTables s u :=
  ⟨h'.groups.trans h.groups, h'.teams.trans h.teams, h'.launches.trans h.launches⟩

theorem sameTables_foldl {α : Type} {f : State → α → State} (hf : ∀ s a, SameTables s (f s a)) (l : List α) (s : State) :
    SameTables s (l.foldl f s) := by
  induction l generalizing s with
  | nil => exact .refl s
  | cons a l ih => exact (hf s a).trans (ih _)

theorem sameTables_onCore (s : State) (core : Nat) (f : Core → Core) : SameTables s (s.onCore core f) := ⟨rfl, rfl, rfl⟩

theorem sameTables_onStack (s : State) (n : Nat) (f : Stack → Stack) : SameTables s (s.onStack n f) := ⟨rfl, rfl, rfl⟩

theorem sameTables_useKey (s : State) (line : Nat) (key : Option Nat) : SameTables s (s.useKey line key) := by
  unfold State.useKey
  split
  · exact .refl s
  · exact ⟨rfl, rfl, rfl⟩

theorem sameTables_touch (s : State) (slice : Option Nat) (line : Nat) (write : Bool) (key : Option Nat) :
    SameTables s (s.touch slice line write key) := by
  obtain ⟨⟨st, h⟩, -⟩ := touch_shape s slice line write key
  rw [h]
  exact ⟨rfl, rfl, rfl⟩

theorem sameTables_perform (s : State) (r : SliceReq) : SameTables s (s.perform r) := by
  have hpoked : SameTables s ((s.useKey r.line r.key).pokes (r.cells.filter fun c => c.1 / 128 == r.line)) :=
    (sameTables_useKey s r.line r.key).trans ⟨rfl, rfl, rfl⟩
  unfold State.perform
  refine .trans ?_ (sameTables_touch _ none r.line true r.key)
  split
  · exact hpoked.trans ⟨rfl, rfl, rfl⟩
  · split
    · exact hpoked.trans ⟨rfl, rfl, rfl⟩
    · exact hpoked

theorem sameTables_makeRoom (s : State) (n slice : Nat) : SameTables s (s.makeRoom n slice) := by
  unfold State.makeRoom
  split
  · exact .refl s
  · split
    · exact .refl s
    · exact (sameTables_onStack s n _).trans (sameTables_perform _ _)

theorem sameTables_drainLine (s : State) (core line : Nat) : SameTables s (s.drainLine core line) := by
  unfold State.drainLine
  dsimp only
  split
  · exact .refl s
  · split
    · exact (sameTables_onCore s core _).trans ((sameTables_makeRoom _ _ _).trans (sameTables_onStack _ _ _))
    · exact ⟨rfl, rfl, rfl⟩
    · exact ⟨rfl, rfl, rfl⟩

theorem sameTables_shrinkL1 (s : State) (core : Nat) : SameTables s (s.shrinkL1 core) := by
  unfold State.shrinkL1
  exact (sameTables_foldl (fun s l => sameTables_drainLine s core l) _ s).trans (sameTables_onCore _ core _)

theorem sameTables_retireDue (s : State) (core : Nat) : SameTables s (s.retireDue core) := by
  unfold State.retireDue
  dsimp only
  split
  · exact .refl s
  · exact (sameTables_onCore s core _).trans (sameTables_shrinkL1 _ core)

theorem sameTables_retireAll (s : State) : SameTables s s.retireAll := by
  unfold State.retireAll
  exact sameTables_foldl (f := fun s (c : Nat × Core) => s.retireDue c.1) (fun s c => sameTables_retireDue s c.1) _ s

/-! ## The check of a drain (R370, R424) -/

/-- The check of a drain changes the state of the launch's drain alone. -/
theorem drainCheck_keeps (s : State) (launch : Nat) : (s.drainCheck launch).groups = s.groups ∧ (s.drainCheck launch).teams = s.teams ∧
    { (s.drainCheck launch).launch launch with lst := (s.launch launch).lst } = s.launch launch := by
  have hlst : { (s.onLaunch launch fun l => { l with lst := 2 }).launch launch with lst := (s.launch launch).lst } = s.launch launch := by
    rw [State.launch_onLaunch_self]
  unfold State.drainCheck
  dsimp only
  split
  · split
    · exact ⟨rfl, rfl, hlst⟩
    · exact ⟨rfl, rfl, hlst⟩
  · exact ⟨rfl, rfl, rfl⟩

theorem drainCheck_groups (s : State) (launch : Nat) : (s.drainCheck launch).groups = s.groups := (drainCheck_keeps s launch).1

theorem drainCheck_teams (s : State) (launch : Nat) : (s.drainCheck launch).teams = s.teams := (drainCheck_keeps s launch).2.1

theorem drainCheck_alive (s : State) (launch : Nat) : ((s.drainCheck launch).launch launch).alive = (s.launch launch).alive := by
  have halive := congrArg Launch.alive (drainCheck_keeps s launch).2.2
  exact halive

theorem drainCheck_ended (s : State) (launch : Nat) : ((s.drainCheck launch).launch launch).ended = (s.launch launch).ended := by
  have hended := congrArg Launch.ended (drainCheck_keeps s launch).2.2
  exact hended

/-! ## The end of a team (R182) -/

/-- Whether a group of a team stands. -/
def teamStands (s : State) (launch team : Nat) : Bool :=
  s.groups.any fun e => e.2.launch == launch && e.2.team == team && e.2.trav.isNone

theorem endTeam_stands {s : State} {launch team : Nat} (h : teamStands s launch team = true) : s.endTeam launch team = s := if_pos h

/-- With its last group a team's places are free, and its launch has one team less to run. -/
theorem endTeam_last {s : State} {launch team : Nat} (h : teamStands s launch team = false) :
    (s.endTeam launch team).groups = s.groups ∧ (s.endTeam launch team).teams = tdel s.teams (teamKey launch team) ∧
    ((s.endTeam launch team).launch launch).ended = (s.launch launch).ended + 1 := by
  have hend : s.endTeam launch team = _ := if_neg (show ¬ teamStands s launch team = true by rw [h]; decide)
  obtain ⟨hgroups, hteams, hlaunches⟩ := sameTables_retireAll
    (({ s with teams := tdel s.teams (teamKey launch team) }).onLaunch launch fun l => { l with ended := l.ended + 1 })
  rw [hend]
  refine ⟨hgroups, hteams, ?_⟩
  rw [State.launch, hlaunches, ← State.launch, State.launch_onLaunch_self]
  rfl

theorem tdel_eq_filter {α : Type} (t : Table α) (k : Nat) : tdel t k = t.filter fun e => e.1 != k := by
  induction t with
  | nil => rfl
  | cons e t ih =>
    obtain ⟨n, w⟩ := e
    rw [tdel, List.filter_cons, ih]
    by_cases hn : n = k <;> simp [hn]

theorem sorted_tdel {α : Type} {t : Table α} (h : Sorted t) (k : Nat) : Sorted (tdel t k) := by
  rw [tdel_eq_filter]
  exact h.sublist (List.filter_sublist.map _)

/-- Without one group, a group of a team stands just where another one of it does. -/
theorem teamStands_dropGroup (s : State) (k launch team : Nat) :
    teamStands (s.dropGroup k) launch team = true ↔ ∃ e ∈ s.groups, e.1 ≠ k ∧ OfTeam e.2 launch team := by
  simp only [teamStands, State.dropGroup, tdel_eq_filter, List.any_eq_true, List.mem_filter, OfTeam, bne_iff_ne, Bool.and_eq_true,
    beq_iff_eq, Option.isNone_iff_eq_none, and_assoc]

/-! ## GROUP_END -/

section
variable {s : State} {k : Nat} {g : Group} (hg : tfind s.groups k = some g)
include hg

/-- A group that lives, or an access of which is to come, does not end yet. -/
theorem groupEnd_waits (hb : s.bus = []) (h : g.live = true ∨ ∃ r ∈ s.loads, r.group = k) : Runs (.groupEnd k) s s := by
  have hwait : (g.live || !s.enginesDone k || s.loads.any (·.group == k) || (s.launch g.launch).stop.isSome) = true := by
    rcases h with h | ⟨r, hr, hk⟩
    · simp [h]
    · have hany : s.loads.any (·.group == k) = true := List.any_eq_true.2 ⟨r, hr, by simpa using hk⟩
      simp [hany]
  show ran s (match tfind s.groups k with | none => s | some g => _) = _
  rw [hg]
  dsimp only
  rw [if_pos hwait, ran, commit_quiet s s hb rfl]

end

section
variable {s : State} {k : Nat} {g : Group} (hlive : g.live = false) (hdone : s.enginesDone k = true)
  (hloads : ∀ r ∈ s.loads, r.group ≠ k) (hstop : (s.launch g.launch).stop = none)
include hlive hdone hloads hstop

/-- Nothing keeps a group that has ended with all its work done. -/
theorem groupEnd_free : ¬ (g.live || !s.enginesDone k || s.loads.any (·.group == k) || (s.launch g.launch).stop.isSome) = true := by
  have hnone : s.loads.any (·.group == k) = false := List.any_eq_false.2 fun r hr => by simpa using hloads r hr
  simp [hlive, hdone, hnone, hstop]

variable (hg : tfind s.groups k = some g)
include hg

/-- A traveller's end frees its id. -/
theorem groupEnd_traveller {tr : Trav} (htrav : g.trav = some tr) : ∃ t, Runs (.groupEnd k) s t ∧ t.groups = tdel s.groups k ∧
    (t.launch g.launch).alive = (s.launch g.launch).alive.erase tr.id ∧ t.teams = s.teams := by
  have hexec : exec (.groupEnd k) s = ran s (((s.dropGroup k).onLaunch g.launch fun l =>
      { l with alive := l.alive.erase tr.id }).drainCheck g.launch) := by
    show ran s (match tfind s.groups k with | none => s | some g => _) = _
    rw [hg]
    dsimp only
    rw [if_neg (groupEnd_free hlive hdone hloads hstop), if_pos (by rw [htrav]; rfl), htrav]
    rfl
  refine ⟨_, hexec, ?_, ?_, ?_⟩
  · rw [commit_groups, drainCheck_groups]
    rfl
  · rw [commit_launch, drainCheck_alive, State.launch_onLaunch_self]
    rfl
  · rw [commit_teams, drainCheck_teams]
    rfl

/-- A group of a team goes, the units it frees are served, and its team ends with its last group. -/
theorem groupEnd_team (htrav : g.trav = none) (hjoined : g.glz.joined = false)
    (hread : s.allocRead (s.team g.launch g.team).core (s.team g.launch g.team).base (s.team g.launch g.team).size = false) :
    exec (.groupEnd k) s = ran s ((((s.dropGroup k).serve g.core g.part).endTeam g.launch g.team).drainCheck g.launch) := by
  show ran s (match tfind s.groups k with | none => s | some g => _) = _
  rw [hg]
  dsimp only
  rw [if_neg (groupEnd_free hlive hdone hloads hstop), if_neg (by rw [htrav]; decide), hjoined, if_neg (by simp),
    if_neg (by decide), if_neg (by rw [hread, Bool.and_false]; decide)]

end

/-- Serving the units that a group frees leaves its team standing just where another group of it does. -/
theorem teamStands_served {s : State} (hs : Sorted s.groups) (k core part launch team : Nat) :
    teamStands ((s.dropGroup k).serve core part) launch team = true ↔ ∃ e ∈ s.groups, e.1 ≠ k ∧ OfTeam e.2 launch team := by
  have hserve := sameResidents_serve (s := s.dropGroup k) (sorted_tdel hs k) core part
  rw [← teamStands_dropGroup, teamStands, hserve.any (p := fun g => g.launch == launch && g.team == team && g.trav.isNone) fun _ => rfl,
    ← teamStands]

theorem endTeam_groups (s : State) (launch team : Nat) : (s.endTeam launch team).groups = s.groups := by
  cases h : teamStands s launch team with
  | true => rw [endTeam_stands h]
  | false => exact (endTeam_last h).1

/-- Settles O49: the group alone leaves the table, serving the units it frees changes no more of the others than a grant does, and
its team ends just when no other group of it stands. -/
theorem groupsEnd : Obligations.GroupsEnd := by
  intro s k g hg hb hs
  refine ⟨fun h => groupEnd_waits hg hb (.inl h), fun h => groupEnd_waits hg hb (.inr h), fun hlive hdone hloads hstop =>
    ⟨fun tr htrav => groupEnd_traveller hlive hdone hloads hstop hg htrav, ?_⟩⟩
  intro htrav hjoined last x hread
  have hserve := sameResidents_serve (s := s.dropGroup k) (sorted_tdel hs k) g.core g.part
  have hstands := teamStands_served hs k g.core g.part g.launch g.team
  have hdropped : ∀ j, j ≠ k → tfind (s.dropGroup k).groups j = tfind s.groups j := fun j hj => by
    rw [State.dropGroup, tfind_tdel, if_neg (Ne.symm hj)]
  have hgroups : ((((s.dropGroup k).serve g.core g.part).endTeam g.launch g.team).drainCheck g.launch).groups =
      ((s.dropGroup k).serve g.core g.part).groups := by rw [drainCheck_groups, endTeam_groups]
  refine ⟨_, groupEnd_team hlive hdone hloads hstop hg htrav hjoined hread, ?_, fun j hj hnone => ?_, fun j h hj hh => ?_,
    fun hlast => ?_, fun hnot => ?_⟩
  · rw [commit_groups, hgroups]
    exact hserve.tfind_none (by rw [State.dropGroup, tfind_tdel, if_pos rfl])
  · rw [commit_groups, hgroups]
    exact hserve.tfind_none (by rw [hdropped j hj, hnone])
  · rw [commit_groups, hgroups]
    exact hserve.tfind_some (by rw [hdropped j hj, hh])
  · have hgone : teamStands ((s.dropGroup k).serve g.core g.part) g.launch g.team = false := by
      rw [Bool.eq_false_iff, ne_eq, hstands]
      rintro ⟨e, he, hek, hteam⟩
      exact hlast e he hek hteam
    obtain ⟨-, hteams, hended⟩ := endTeam_last hgone
    refine ⟨?_, ?_⟩
    · rw [commit_teams, drainCheck_teams, hteams, hserve.teams]
      rfl
    · rw [commit_launch, drainCheck_ended, hended, State.launch, hserve.launches]
      rfl
  · have hother : teamStands ((s.dropGroup k).serve g.core g.part) g.launch g.team = true := hstands.2 (by
      by_contra hno
      exact hnot fun e he hek hteam => hno ⟨e, he, hek, hteam⟩)
    refine ⟨?_, ?_⟩
    · rw [commit_teams, drainCheck_teams, endTeam_stands hother, hserve.teams]
      rfl
    · rw [commit_launch, drainCheck_ended, endTeam_stands hother, State.launch, hserve.launches]
      rfl

end Sys2Proof.Proofs.GroupEnds
end

section
/-!
PROOFS. REGANG (R120, R121): paths run, strands that wait for the others, and the gathering of a group that has arrived.
-/
namespace Sys2Proof.Proofs.Regangs
open Sys2Proof Sys2Proof.Machine Sys2Proof.Safety Sys2Proof.Proofs.Arrivals

/-! ## What arriving at an address leaves alone (R112) -/

/-- A strand with other marks of its set, its wait and its end. -/
def marked (x : Strand) (j : Nat) (w : Option Wait) (q : Nat) (arrived ended : Bool) : Strand :=
  { x with jset := j, wait := w, waitSeq := q, arrived := arrived, ended := ended }

theorem loopEnd_marked (x : Strand) (j : Nat) (w : Option Wait) (q : Nat) (arrived ended : Bool) (ls : List Nat) :
    (marked x j w q arrived ended).loopEnd ls = marked (x.loopEnd ls) j w q arrived ended := by
  induction ls generalizing x with
  | nil => rfl
  | cons k ls ih =>
    by_cases hend : EndsAt x k
    · have hend' : EndsAt (marked x j w q arrived ended) k := hend
      by_cases hone : (x.loop k).count = 1
      · rw [loopEnd_zero ls hend hone, loopEnd_zero ls hend' hone, ← ih]
        rfl
      · rw [loopEnd_round ls hend hone, loopEnd_round ls hend' hone]
        rfl
    · rw [loopEnd_skip ls hend, loopEnd_skip ls (show ¬ EndsAt (marked x j w q arrived ended) k from hend), ih]

theorem arrive_marked (x : Strand) (j : Nat) (w : Option Wait) (q : Nat) (arrived ended : Bool) (ls : List Nat) :
    (marked x j w q arrived ended).arrive ls = marked (x.arrive ls) j w q arrived ended := by
  have hrejoin : ∀ y : Strand, (marked y j w q arrived ended).rejoin = marked y.rejoin j w q arrived ended := fun _ => rfl
  rw [Strand.arrive, hrejoin, loopEnd_marked, hrejoin, ← Strand.arrive]

theorem landed_arrived (x : Strand) (t : DWord) : (landed x t).arrived = x.arrived := by
  have hmarked := congrArg Strand.arrived (arrive_marked { x with pc := t } x.jset x.wait x.waitSeq x.arrived x.ended [2, 1, 0])
  exact hmarked

theorem landed_jset (x : Strand) (t : DWord) : (landed x t).jset = x.jset := by
  have hmarked := congrArg Strand.jset (arrive_marked { x with pc := t } x.jset x.wait x.waitSeq x.arrived x.ended [2, 1, 0])
  exact hmarked

theorem landed_ended (x : Strand) (t : DWord) : (landed x t).ended = x.ended := by
  have hmarked := congrArg Strand.ended (arrive_marked { x with pc := t } x.jset x.wait x.waitSeq x.arrived x.ended [2, 1, 0])
  exact hmarked

theorem ready_ended (x : Strand) (j : Nat) (n : Nat × Nat) : (ready x j n).ended = x.ended := rfl

theorem ready_arrived (x : Strand) (j : Nat) (n : Nat × Nat) : (ready x j n).arrived = x.arrived := rfl

theorem ready_pc (x : Strand) (j : Nat) (n : Nat × Nat) : (ready x j n).pc = x.pc := rfl

/-! ## What the strands of a set do (R120) -/

/-- A strand that has not ended is one of its group's. -/
theorem strand_lt {g : Group} {k : Nat} (hlive : (g.strand k).ended = false) : k < g.strands.length := by
  by_contra hge
  rw [Group.strand_ge g (Nat.le_of_not_lt hge)] at hlive
  cases hlive

/-- Whether a strand of the issuing group waits at a REGANG other than the one at hand. -/
def elsewhere (s : State) : Bool := s.g.strands.any fun x => !x.ended && x.arrived && x.pc != s.pc

/-- Strands of a group set to what a function gives. -/
def setAll (ks : List Nat) (f : Nat → Strand) (g : Group) : Group := ks.foldl (fun g k => g.setStrand k (f k)) g

/-- The state with one more wait counted. -/
def counted (s : State) : State := s.onCtl fun c => { c with waitSeq := c.waitSeq + 1 }

/-- The state with one more wait counted, and the strands of the issuing set where a function puts them. -/
def regangSets (s : State) (f : Nat → Strand) : State := (counted s).onGrp s.gk (setAll s.ks f)

/-- The issuing group with other strands. -/
def withStrands (s : State) (X : List Strand) : Group := { s.g with strands := X }

theorem withStrands_of_eq {s : State} {g : Group} {Y : List Strand} (h : g = withStrands s Y) (X : List Strand) :
    { g with strands := X } = withStrands s X := by
  rw [h]
  rfl

theorem onGrp_id_onGrp (s : State) (k : Nat) (f : Group → Group) : (s.onGrp k fun g => g).onGrp k f = s.onGrp k f :=
  setGrp_onGrp s k s.nextKey (s.grp k) f

/-- The issuing set's strands stand where the function puts them, and the others as before. -/
theorem setAll_shape (s : State) (f : Nat → Strand) : setAll s.ks f s.g = withStrands s (setAll s.ks f s.g).strands ∧
    (setAll s.ks f s.g).strands.length = s.g.strands.length ∧
    ∀ k, (setAll s.ks f s.g).strand k = if k ∈ s.ks then f k else s.g.strand k := by
  obtain ⟨hshape, hlen, hstrand⟩ := foldl_setStrand (fun k _ => f k) s.ks (s.g.members_nodup _) s.g
  refine ⟨hshape, hlen, fun k => (hstrand k).trans ?_⟩
  by_cases hk : k ∈ s.ks
  · rw [if_pos ⟨hk, s.g.members_lt _ k hk⟩, if_pos hk]
  · rw [if_neg fun h => hk h.1, if_neg hk]

theorem regangSets_grp (s : State) (f : Nat → Strand) : (regangSets s f).grp s.gk = setAll s.ks f s.g := State.grp_onGrp_self _ _ _

/-- The state with one more wait counted, other strands in the issuing group, and another next key. -/
def moved (s : State) (X : List Strand) (n : Nat) : State :=
  { counted s with nextKey := n, groups := tset s.groups s.gk (withStrands s X) }

theorem moved_grp (s : State) (X : List Strand) (n : Nat) : (moved s X n).grp s.gk = withStrands s X :=
  tget_tset_self _ _ _ _

theorem moved_g (s : State) (X : List Strand) (n : Nat) : (moved s X n).g = withStrands s X := moved_grp s X n

theorem regangSets_moved (s : State) (f : Nat → Strand) :
    regangSets s f = moved s (setAll s.ks f s.g).strands s.nextKey := by
  rw [moved, ← (setAll_shape s f).1]
  rfl

/-- What moving the strands of the issuing group leaves as it was. -/
theorem moved_keeps (s : State) (X : List Strand) (n : Nat) :
    { moved s X n with groups := s.groups, nextKey := s.nextKey, ctl := s.ctl } = s ∧
    { (moved s X n).ctl with waitSeq := s.ctl.waitSeq } = s.ctl ∧
    (∀ k, k ≠ s.gk → tfind (moved s X n).groups k = tfind s.groups k) ∧ GroupIs s (moved s X n) id := by
  refine ⟨rfl, rfl, fun k hk => tfind_tset_ne _ _ hk.symm, ?_⟩
  rw [GroupIs, moved_g]
  rfl

theorem regang_runs {s t : State} (h : s.regang = t) (hb : t.bus = []) (hm : t.mem = s.mem) : Runs .regang s t := by
  show ran s s.regang = _
  rw [h, ran, commit_quiet s t hb hm]

theorem elsewhere_false {s : State} (h : ∀ k, k < s.g.strands.length → (s.g.strand k).ended = false → (s.g.strand k).arrived = true →
    (s.g.strand k).pc = s.pc) : elsewhere s = false := by
  refine List.any_eq_false.2 fun x hx => ?_
  obtain ⟨k, hk, rfl⟩ := List.mem_iff_getElem.1 hx
  have hstrand : s.g.strand k = s.g.strands[k] := by
    rw [Group.strand, List.getD_eq_getElem?_getD, List.getElem?_eq_getElem hk, Option.getD_some]
  rw [← hstrand, Bool.and_eq_true, Bool.and_eq_true, Bool.not_eq_true', bne_iff_ne]
  rintro ⟨⟨hlive, harrived⟩, hpc⟩
  exact hpc (h k hk hlive harrived)

section
variable {s : State} (hks : s.ks ≠ []) {f : Nat → Strand}
include hks

/-- A set of whose strands every one runs a path. -/
theorem regang_pops (h : ∀ k ∈ s.ks, (s.g.strand k).regang (elsewhere s) = .pop (f k)) :
    s.regang = (s.retire (regangSets s f)).gather s s.gk := by
  have hlen : ¬ ([] : List Nat).length = s.ks.length := fun hn => hks (List.length_eq_zero_iff.1 hn.symm)
  have hpops : (s.ks.map fun k => (k, f k)).isEmpty = false := by simpa using hks
  unfold State.regang
  dsimp only
  rw [List.filter_congr (q := fun _ => false) ?hbad, List.filterMap_congr (g := fun k => some (k, f k)) ?hpop,
    List.filterMap_eq_map', List.filterMap_congr (g := fun k => none) ?harr, List.filterMap_none, List.filter_false, if_neg hlen, hpops]
  case hbad | harr | hpop =>
    intro k hk
    have hk := h k hk
    rw [elsewhere] at hk
    rw [hk]
  simp only [List.foldl_map]
  exact congrArg (fun t : State => (s.retire t).gather s s.gk) (onGrp_id_onGrp (counted s) s.gk (setAll s.ks f))

/-- A set of whose strands every one arrives. -/
theorem regang_arrives (h : ∀ k ∈ s.ks, (s.g.strand k).regang (elsewhere s) = .arrive (f k)) :
    s.regang = (regangSets s fun k => { f k with wait := some .regang, waitSeq := s.ctl.waitSeq + 1 }).gather s s.gk := by
  have hlen : ¬ ([] : List Nat).length = s.ks.length := fun hn => hks (List.length_eq_zero_iff.1 hn.symm)
  unfold State.regang
  dsimp only
  rw [List.filter_congr (q := fun _ => false) ?hbad, List.filterMap_congr (g := fun k => none) ?hpop,
    List.filterMap_none, List.filterMap_congr (g := fun k => some (k, f k)) ?harr, List.filterMap_eq_map', List.filter_false, if_neg hlen]
  case hbad | harr | hpop =>
    intro k hk
    have hk := h k hk
    rw [elsewhere] at hk
    rw [hk]
  simp only [List.foldl_map]
  rfl

end

/-! ## Gathering a group (R121) -/

/-- The strands of a group that have not ended. -/
def liveOf (g : Group) : List Nat := (List.range g.strands.length).filter fun k => !(g.strand k).ended

theorem mem_liveOf {g : Group} {k : Nat} : k ∈ liveOf g ↔ (g.strand k).ended = false := by
  rw [liveOf, List.mem_filter, List.mem_range, Bool.not_eq_true', and_iff_right_iff_imp]
  exact strand_lt

theorem nodup_liveOf (g : Group) : (liveOf g).Nodup := List.nodup_range.filter _

/-- A group with the strands that have not ended in one joined set, no longer at a REGANG. -/
def joined (g : Group) (j : Nat) : Group :=
  (liveOf g).foldl (fun g k => g.onStrand k fun x => { x with jset := j, arrived := false, wait := none }) g

/-- While a strand has neither ended nor arrived, the group waits. -/
theorem gather_waits {s : State} (orig : State) {gk k : Nat} (hlive : ((s.grp gk).strand k).ended = false)
    (hwait : ((s.grp gk).strand k).arrived = false) : s.gather orig gk = s := by
  unfold State.gather
  dsimp only
  split
  · rfl
  · rw [if_neg]
    intro hall
    have harr := List.all_eq_true.1 hall k (mem_liveOf.2 hlive)
    rw [hwait] at harr
    cases harr

section
variable {s : State} {gk k0 : Nat} {ks : List Nat} (hl : liveOf (s.grp gk) = k0 :: ks)
  (harr : ∀ k, ((s.grp gk).strand k).ended = false → ((s.grp gk).strand k).arrived = true)
include hl harr

/-- Strands that have all arrived and agree pass as one set. -/
theorem gather_passes (orig : State) (hsame : ∀ k, ((s.grp gk).strand k).ended = false →
      ((s.grp gk).strand k).mode = ((s.grp gk).strand k0).mode ∧ ((s.grp gk).strand k).prec = ((s.grp gk).strand k0).prec) :
    s.gather orig gk = State.done { orig with cur := { group := gk, jset := ((s.grp gk).strand k0).jset } }
      { s.setGrp gk (joined (s.grp gk) ((s.grp gk).strand k0).jset) with
        cur := { group := gk, jset := ((s.grp gk).strand k0).jset } } 1 := by
  have hall : ((liveOf (s.grp gk)).all fun k => ((s.grp gk).strand k).arrived) = true :=
    List.all_eq_true.2 fun k hk => harr k (mem_liveOf.1 hk)
  have hagree : ((liveOf (s.grp gk)).all fun k => ((s.grp gk).strand k).mode == ((s.grp gk).strand k0).mode &&
      ((s.grp gk).strand k).prec == ((s.grp gk).strand k0).prec) = true := List.all_eq_true.2 fun k hk => by
    obtain ⟨hmode, hprec⟩ := hsame k (mem_liveOf.1 hk)
    rw [hmode, hprec, beq_self_eq_true, beq_self_eq_true, Bool.and_self]
  show (match liveOf (s.grp gk) with | [] => s | k0 :: ks => _) = _
  rw [hl]
  dsimp only
  rw [liveOf] at hall hagree
  rw [if_pos hall, if_pos hagree]
  rfl

/-- Where strands that have all arrived differ, each joined set takes the trap. -/
theorem gather_traps (orig : State) {a : Nat} (ha : ((s.grp gk).strand a).ended = false)
    (hdiffer : ((s.grp gk).strand a).mode ≠ ((s.grp gk).strand k0).mode ∨ ((s.grp gk).strand a).prec ≠ ((s.grp gk).strand k0).prec) :
    s.gather orig gk = (s.grp gk).sets.foldl (fun s j => s.takeTrap gk ((s.grp gk).members j) { cause := 0x08 } false) s := by
  have hall : ((liveOf (s.grp gk)).all fun k => ((s.grp gk).strand k).arrived) = true :=
    List.all_eq_true.2 fun k hk => harr k (mem_liveOf.1 hk)
  have hagree : ¬ ((liveOf (s.grp gk)).all fun k => ((s.grp gk).strand k).mode == ((s.grp gk).strand k0).mode &&
      ((s.grp gk).strand k).prec == ((s.grp gk).strand k0).prec) = true := fun hagree => by
    have hsame := List.all_eq_true.1 hagree a (mem_liveOf.2 ha)
    rw [Bool.and_eq_true, beq_iff_eq, beq_iff_eq] at hsame
    exact hdiffer.elim (· hsame.1) (· hsame.2)
  show (match liveOf (s.grp gk) with | [] => s | k0 :: ks => _) = _
  rw [hl]
  dsimp only
  rw [liveOf] at hall hagree
  rw [if_pos hall, if_neg hagree]

end

/-! ## The set that runs its paths, and the set that waits -/

/-- A strand that parks its running lanes at the REGANG and runs the path on top of its stack. -/
def pathRun (x : Strand) : Strand :=
  landed { x with parked := x.parked ||| x.amask, parkPc := x.pc, amask := (x.stack.headD {}).mask, stack := x.stack.tail }
    (x.stack.headD {}).pc

theorem pathRun_jset (x : Strand) : (pathRun x).jset = x.jset := landed_jset _ _

theorem pathRun_ended (x : Strand) : (pathRun x).ended = x.ended := landed_ended _ _

theorem pathRun_arrived (x : Strand) : (pathRun x).arrived = x.arrived := landed_arrived _ _

theorem regang_pop {x : Strand} (e : Bool) (hstack : x.stack ≠ []) (hpark : x.parked = 0 ∨ x.parkPc = x.pc) :
    x.regang e = .pop (pathRun x) := by
  have hhere : ¬ (x.parked ≠ 0 ∧ x.parkPc ≠ x.pc) := by tauto
  rw [Strand.regang, if_neg hhere]
  cases hs : x.stack with
  | nil => exact absurd hs hstack
  | cons top st =>
    rw [pathRun, hs]
    rfl

/-- A strand whose lanes have all come to the REGANG. -/
def reconverged (x : Strand) : Strand := { x with amask := x.amask ||| x.parked, parked := 0, arrived := true }

/-- Such a strand as it waits there. -/
def waiting (x : Strand) (seq : Nat) : Strand := { reconverged x with wait := some .regang, waitSeq := seq }

theorem regang_arrive {x : Strand} {pc : DWord} (hpc : x.pc = pc) (hstack : x.stack = []) (hpark : x.parked = 0 ∨ x.parkPc = pc) :
    x.regang false = .arrive (reconverged x) := by
  have hhere : ¬ (x.parked ≠ 0 ∧ x.parkPc ≠ x.pc) := by rw [hpc]; tauto
  rw [Strand.regang, if_neg hhere, hstack, reconverged, hstack]
  rfl

theorem mem_ks {s : State} {k : Nat} : k ∈ s.ks ↔ (s.g.strand k).jset = s.cur.jset ∧ (s.g.strand k).ended = false :=
  Group.mem_members _ _ _

/-- A set that retires where a function puts its strands, when the function keeps their set and their end. -/
theorem retire_moved {s : State} (htrav : s.g.trav = none) {f : Nat → Strand}
    (hf : ∀ k ∈ s.ks, (f k).jset = (s.g.strand k).jset ∧ (f k).ended = (s.g.strand k).ended) :
    ∃ X n, s.retire (regangSets s f) = moved s X n ∧ Went s.g (withStrands s X) s.ks fun k _ => f k := by
  obtain ⟨hshape, hlen, hstrand⟩ := setAll_shape s f
  have hmembers : (setAll s.ks f s.g).members s.cur.jset = s.ks := Group.members_congr _ _ _ hlen fun k => by
    rw [hstrand]
    by_cases hk : k ∈ s.ks
    · rw [if_pos hk]
      exact hf k hk
    · rw [if_neg hk]
      exact ⟨rfl, rfl⟩
  obtain ⟨X, n, hretire, hXlen, hwent⟩ := retire_shape s (regangSets s f) (s.g.strand 0)
    (fun tr ht => by rw [htrav] at ht; cases ht) (.inl (by rw [regangSets_grp, hshape]; exact htrav))
  rw [regangSets_grp] at hretire hXlen hwent
  rw [hmembers] at hwent
  have hgroup : ({ setAll s.ks f s.g with strands := X } : Group) = withStrands s X := withStrands_of_eq hshape X
  rw [hgroup] at hretire hXlen hwent
  refine ⟨X, n, hretire.trans ?_, hXlen.trans hlen, fun k => ?_⟩
  · rw [moved, show (regangSets s f).groups = tset s.groups s.gk (setAll s.ks f s.g) from rfl, tset_tset]
    rfl
  · have hk := hwent k
    rw [hstrand] at hk
    by_cases hmem : k ∈ s.ks
    · simpa only [if_pos hmem] using hk
    · simpa only [if_neg hmem] using hk

/-- A set with lanes on every strand's stack runs the paths on top. -/
theorem regang_runsPaths {s : State} (htrav : s.g.trav = none) (hks : s.ks ≠ [])
    (h : ∀ k ∈ s.ks, (s.g.strand k).arrived = false ∧ (s.g.strand k).stack ≠ [] ∧
      ((s.g.strand k).parked = 0 ∨ (s.g.strand k).parkPc = (s.g.strand k).pc)) :
    ∃ X n, s.regang = moved s X n ∧ Went s.g (withStrands s X) s.ks fun _ x => pathRun x := by
  obtain ⟨X, n, hretire, hlen, hwent⟩ := retire_moved htrav (f := fun k => pathRun (s.g.strand k))
    fun k _ => ⟨pathRun_jset _, pathRun_ended _⟩
  refine ⟨X, n, ?_, hlen, hwent⟩
  obtain ⟨k, hk⟩ := List.exists_mem_of_ne_nil _ hks
  have hgo := hwent k
  rw [if_pos hk] at hgo
  obtain ⟨j, m, hready⟩ := hgo
  have hpops : ∀ k ∈ s.ks, (s.g.strand k).regang (elsewhere s) = .pop (pathRun (s.g.strand k)) := fun k hk => by
    obtain ⟨-, hstack, hpark⟩ := h k hk
    exact regang_pop _ hstack hpark
  rw [regang_pops hks hpops, hretire]
  refine gather_waits s (k := k) ?_ ?_
  · rw [moved_grp, hready, ready_ended, pathRun_ended, (mem_ks.1 hk).2]
  · rw [moved_grp, hready, ready_arrived, pathRun_arrived, (h k hk).1]

/-! ## A set that reconverges -/

section
variable {s : State} (hks : s.ks ≠ [])
  (h : ∀ k ∈ s.ks, (s.g.strand k).pc = s.pc ∧ (s.g.strand k).stack = [] ∧
    ((s.g.strand k).parked = 0 ∨ (s.g.strand k).parkPc = s.pc))
  (hhere : ∀ k, k < s.g.strands.length → (s.g.strand k).ended = false → (s.g.strand k).arrived = true → (s.g.strand k).pc = s.pc)
include hks h hhere

/-- A set whose strands have reconverged waits with the group, or goes on with it. -/
theorem regang_gathers : s.regang = (regangSets s fun k => waiting (s.g.strand k) (s.ctl.waitSeq + 1)).gather s s.gk :=
  regang_arrives hks (f := fun k => reconverged (s.g.strand k)) fun k hk => by
    obtain ⟨hpc, hstack, hpark⟩ := h k hk
    rw [elsewhere_false hhere, regang_arrive hpc hstack hpark]

/-- It waits while a strand of the group has neither ended nor arrived. -/
theorem regang_waits (hwait : ∃ k, k < s.g.strands.length ∧ k ∉ s.ks ∧ (s.g.strand k).ended = false ∧ (s.g.strand k).arrived = false) :
    s.regang = regangSets s fun k => waiting (s.g.strand k) (s.ctl.waitSeq + 1) := by
  obtain ⟨k, -, hk, hlive, harr⟩ := hwait
  obtain ⟨-, -, hstrand⟩ := setAll_shape s fun k => waiting (s.g.strand k) (s.ctl.waitSeq + 1)
  rw [regang_gathers hks h hhere]
  refine gather_waits s (k := k) ?_ ?_
  · rw [regangSets_grp, hstrand, if_neg hk, hlive]
  · rw [regangSets_grp, hstrand, if_neg hk, harr]

end

/-! ## Parting by address (R112) -/

/-- Strands of one set that stand at one address stay in one set when it parts. -/
theorem part_jset {s : State} {gk j a b : Nat} (ha : a ∈ (s.grp gk).members j) (hb : b ∈ (s.grp gk).members j)
    (hpc : ((s.grp gk).strand a).pc = ((s.grp gk).strand b).pc) :
    (((s.part gk j).grp gk).strand a).jset = (((s.part gk j).grp gk).strand b).jset := by
  have hja := ((s.grp gk).mem_members j a).1 ha
  have hjb := ((s.grp gk).mem_members j b).1 hb
  unfold State.part
  dsimp only
  generalize List.foldl (fun (a : List DWord) k => _) [] ((s.grp gk).members j) = others
  split
  · rw [hja.1, hjb.1]
  · rw [State.grp_onGrp_self]
    obtain ⟨-, -, hstrand⟩ := foldl_onStrand (fun x => match others.idxOf? x.pc with
      | some i => { x with jset := s.nextKey + i }
      | none => x) ((s.grp gk).members j) ((s.grp gk).members_nodup j) (s.grp gk)
    have hpart := fun k (hk : k ∈ (s.grp gk).members j) => (hstrand k).trans (if_pos ⟨hk, (s.grp gk).members_lt j k hk⟩)
    refine (congrArg Strand.jset (hpart a ha)).trans (.trans ?_ (congrArg Strand.jset (hpart b hb)).symm)
    rw [hpc]
    split
    · rfl
    · rw [hja.1, hjb.1]

/-- Strands of a set that retires at one address are in one set. -/
theorem retire_jset {s0 s1 : State} (htrav : (s1.grp s0.gk).trav = none) {a b : Nat} (ha : a ∈ (s1.grp s0.gk).members s0.cur.jset)
    (hb : b ∈ (s1.grp s0.gk).members s0.cur.jset) (hpc : ((s1.grp s0.gk).strand a).pc = ((s1.grp s0.gk).strand b).pc) :
    (((s0.retire s1).grp s0.gk).strand a).jset = (((s0.retire s1).grp s0.gk).strand b).jset := by
  set step := s1.nowAt (s1.grp s0.gk).core (s1.grp s0.gk).part with hstep
  set g := (s1.grp s0.gk).onSet s0.cur.jset fun x => x.next step with hg
  have hstrand : ∀ k, (g.strand k).pc = ((s1.grp s0.gk).strand k).pc ∧ (g.strand k).jset = ((s1.grp s0.gk).strand k).jset ∧
      (g.strand k).ended = ((s1.grp s0.gk).strand k).ended := fun k => by
    rw [hg, Group.strand_onSet]
    split
    · exact ⟨rfl, rfl, rfl⟩
    · exact ⟨rfl, rfl, rfl⟩
  have hmembers : g.members s0.cur.jset = (s1.grp s0.gk).members s0.cur.jset :=
    Group.members_congr _ _ _ (Group.onSet_length _ _ _) fun k => (hstrand k).2
  have hretire : s0.retire s1 = (s1.setGrp s0.gk g).part s0.gk s0.cur.jset := by
    unfold State.retire
    dsimp only
    rw [htrav]
    rfl
  have hgrp : (s1.setGrp s0.gk g).grp s0.gk = g := State.grp_setGrp_self _ _ _
  rw [hretire]
  refine part_jset ?_ ?_ ?_
  · rwa [hgrp, hmembers]
  · rwa [hgrp, hmembers]
  · rw [hgrp, (hstrand a).1, (hstrand b).1, hpc]

/-! ## Strands that pass together (R121) -/

/-- A strand made one of a set that passes, no longer at a REGANG. -/
def together (x : Strand) (j : Nat) : Strand := { x with jset := j, arrived := false, wait := none }

theorem joined_shape (g : Group) (j : Nat) : joined g j = { g with strands := (joined g j).strands } ∧
    (joined g j).strands.length = g.strands.length ∧
    ∀ k, (joined g j).strand k = if (g.strand k).ended = false then together (g.strand k) j else g.strand k := by
  obtain ⟨hshape, hlen, hstrand⟩ := foldl_onStrand (fun x => together x j) (liveOf g) (nodup_liveOf g) g
  refine ⟨hshape, hlen, fun k => (hstrand k).trans ?_⟩
  by_cases hlive : (g.strand k).ended = false
  · rw [if_pos ⟨mem_liveOf.2 hlive, strand_lt hlive⟩, if_pos hlive]
  · rw [if_neg fun h => hlive (mem_liveOf.1 h.1), if_neg hlive]

/-- Passing in another set, after a wait, comes to the same but for the marks of both. -/
theorem ready_pass_marked (y : Strand) (j' q j : Nat) (n : Nat × Nat) :
    ready ((marked y j' none q y.arrived y.ended).pass 1) j n =
      { ready (landed y (seqNext y.pc 1)) j n with waitSeq := q } := by
  have hpass : (marked y j' none q y.arrived y.ended).pass 1 =
      marked (landed y (seqNext y.pc 1)) j' none q y.arrived y.ended :=
    arrive_marked { y with pc := seqNext y.pc 1 } j' none q y.arrived y.ended [2, 1, 0]
  rw [hpass, ← landed_arrived y (seqNext y.pc 1), ← landed_ended y (seqNext y.pc 1)]
  rfl

/-- A group whose strands that have not ended pass the REGANG in one set. -/
def passAll (g : Group) (j : Nat) : Group := (joined g j).onSet j fun x => x.pass 1

theorem passAll_shape (g : Group) (j : Nat) : passAll g j = { g with strands := (passAll g j).strands } ∧
    (passAll g j).strands.length = g.strands.length ∧
    ∀ k, (passAll g j).strand k = if (g.strand k).ended = false then (together (g.strand k) j).pass 1 else g.strand k := by
  obtain ⟨hshape, hlen, hstrand⟩ := joined_shape g j
  refine ⟨?_, (Group.onSet_length _ _ _).trans hlen, fun k => ?_⟩
  · rw [passAll, hshape]
    rfl
  · rw [passAll, Group.strand_onSet, hstrand]
    by_cases hlive : (g.strand k).ended = false
    · rw [if_pos hlive, if_pos ⟨rfl, hlive⟩, if_pos hlive]
    · rw [if_neg hlive, if_neg fun h => hlive h.2, if_neg hlive]

theorem mem_members_passAll {g : Group} {j k : Nat} (hlive : (g.strand k).ended = false) : k ∈ (passAll g j).members j := by
  obtain ⟨-, -, hstrand⟩ := passAll_shape g j
  rw [Group.mem_members, hstrand, if_pos hlive, (Strand.pass_kept _ 1).1, (Strand.pass_kept _ 1).2]
  exact ⟨rfl, hlive⟩

/-- The strands of a group made one set and passing, as they retire. -/
theorem done_joined {s : State} {G : Group} (hG : G = withStrands s G.strands) (n j : Nat) :
    State.done { s with cur := { group := s.gk, jset := j } }
      { (moved s G.strands n).setGrp s.gk (joined G j) with cur := { group := s.gk, jset := j } } 1 =
    State.retire { s with cur := { group := s.gk, jset := j } }
      { moved s (passAll G j).strands n with cur := { group := s.gk, jset := j } } := by
  have hset : ((moved s G.strands n).setGrp s.gk (joined G j)).onGrp s.gk (fun g => g.onSet j fun x => x.pass 1) =
      moved s (passAll G j).strands n := by
    refine (setGrp_onGrp (moved s G.strands n) s.gk n (joined G j) _).trans ?_
    rw [moved, moved]
    dsimp only
    rw [tset_tset, ← passAll, ← withStrands_of_eq hG, ← (passAll_shape G j).1]
  exact congrArg (fun t : State => State.retire { s with cur := { group := s.gk, jset := j } }
    { t with cur := { group := s.gk, jset := j } }) hset

/-- What retires is one set, which parts by address. -/
theorem retire_passAll {s : State} (htrav : s.g.trav = none) {G : Group} (hG : G = withStrands s G.strands) (n j : Nat) :
    ∃ X n', State.retire { s with cur := { group := s.gk, jset := j } }
        { moved s (passAll G j).strands n with cur := { group := s.gk, jset := j } } =
      { moved s X n' with cur := { group := s.gk, jset := j } } ∧
    (∀ k, (G.strand k).ended = false → ∃ i m, (withStrands s X).strand k = ready ((together (G.strand k) j).pass 1) i m) ∧
    ∀ a b, (G.strand a).ended = false → (G.strand b).ended = false →
      ((withStrands s X).strand a).pc = ((withStrands s X).strand b).pc →
      ((withStrands s X).strand a).jset = ((withStrands s X).strand b).jset := by
  obtain ⟨hpassed, -, hstrand⟩ := passAll_shape G j
  have hshape : passAll G j = withStrands s (passAll G j).strands := hpassed.trans (withStrands_of_eq hG _)
  set s0 : State := { s with cur := { group := s.gk, jset := j } }
  set s1 : State := { moved s (passAll G j).strands n with cur := { group := s.gk, jset := j } } with hs1
  have hgrp : s1.grp s0.gk = passAll G j := (moved_grp s _ n).trans hshape.symm
  have htrav1 : (s1.grp s0.gk).trav = none := by
    rw [hgrp, hshape]
    exact htrav
  obtain ⟨X, n', hretire, -, hwent⟩ := retire_shape s0 s1 (s.g.strand 0)
    (fun tr ht => by rw [show s0.g.trav = none from htrav] at ht; cases ht) (.inl htrav1)
  rw [show ({ s1.grp s0.gk with strands := X } : Group) = withStrands s X from withStrands_of_eq (hgrp.trans hshape) X]
    at hretire hwent
  rw [hgrp] at hwent
  have hgo : ∀ k, (G.strand k).ended = false → ∃ i m, (withStrands s X).strand k =
      ready ((together (G.strand k) j).pass 1) i m := fun k hlive => by
    have hk := hwent k
    rw [if_pos (mem_members_passAll hlive), hstrand, if_pos hlive] at hk
    exact hk
  have hmoved : s0.retire s1 = { moved s X n' with cur := { group := s.gk, jset := j } } := by
    rw [hretire, hs1, moved, moved, show s0.gk = s.gk from rfl]
    dsimp only
    rw [tset_tset]
  have hpc : ∀ k, (G.strand k).ended = false → ((s1.grp s0.gk).strand k).pc = ((withStrands s X).strand k).pc := fun k hlive => by
    obtain ⟨i, m, hready⟩ := hgo k hlive
    rw [hready, ready_pc, hgrp, hstrand, if_pos hlive]
  refine ⟨X, n', hmoved, hgo, fun a b ha hb hab => ?_⟩
  have hjset := retire_jset htrav1 (a := a) (b := b) (by rw [hgrp]; exact mem_members_passAll ha)
    (by rw [hgrp]; exact mem_members_passAll hb) (by rw [hpc a ha, hpc b hb, hab])
  rwa [show (s0.retire s1).grp s0.gk = withStrands s X by rw [hmoved]; exact tget_tset_self _ _ _ _] at hjset

/-- A strand of a group that has gathered, as it was before it came to wait. -/
def atRegang (s : State) (k : Nat) : Strand :=
  { s.g.strand k with amask := if k ∈ s.ks then (s.g.strand k).amask ||| (s.g.strand k).parked else (s.g.strand k).amask,
                      parked := if k ∈ s.ks then 0 else (s.g.strand k).parked, arrived := false }

/-- The issuing group with its set waiting at the REGANG. -/
def waitingGroup (s : State) : Group := setAll s.ks (fun k => waiting (s.g.strand k) (s.ctl.waitSeq + 1)) s.g

theorem waitingGroup_shape {s : State} : waitingGroup s = withStrands s (waitingGroup s).strands := (setAll_shape s _).1

theorem waitingGroup_strand (s : State) (k : Nat) :
    (waitingGroup s).strand k = if k ∈ s.ks then waiting (s.g.strand k) (s.ctl.waitSeq + 1) else s.g.strand k :=
  (setAll_shape s _).2.2 k

/-- Waiting changes neither what a strand is nor where it stands. -/
theorem waitingGroup_keeps (s : State) (k : Nat) : ((waitingGroup s).strand k).ended = (s.g.strand k).ended ∧
    ((waitingGroup s).strand k).mode = (s.g.strand k).mode ∧ ((waitingGroup s).strand k).prec = (s.g.strand k).prec ∧
    ((waitingGroup s).strand k).jset = (s.g.strand k).jset ∧ ((waitingGroup s).strand k).handler = (s.g.strand k).handler := by
  rw [waitingGroup_strand]
  split
  · exact ⟨rfl, rfl, rfl, rfl, rfl⟩
  · exact ⟨rfl, rfl, rfl, rfl, rfl⟩

theorem waitingGroup_length (s : State) : (waitingGroup s).strands.length = s.g.strands.length := (setAll_shape s _).2.1

/-- With every other strand at a REGANG, all that have not ended are. -/
theorem waitingGroup_arrived {s : State} (hall : ∀ k, (s.g.strand k).ended = false → k ∉ s.ks → (s.g.strand k).arrived = true ∧
    (s.g.strand k).pc = s.pc) (k : Nat) (hlive : ((waitingGroup s).strand k).ended = false) :
    ((waitingGroup s).strand k).arrived = true := by
  rw [(waitingGroup_keeps s k).1] at hlive
  rw [waitingGroup_strand]
  by_cases hk : k ∈ s.ks
  · rw [if_pos hk]
    rfl
  · rw [if_neg hk]
    exact (hall k hlive hk).1

theorem liveOf_waitingGroup {s : State} (hks : s.ks ≠ []) : ∃ k0 ks, liveOf (waitingGroup s) = k0 :: ks := by
  obtain ⟨k, hk⟩ := List.exists_mem_of_ne_nil _ hks
  have hmem : k ∈ liveOf (waitingGroup s) := by
    rw [mem_liveOf, (waitingGroup_keeps s k).1]
    exact (mem_ks.1 hk).2
  exact List.exists_cons_of_ne_nil (List.ne_nil_of_mem hmem)

theorem moved_waitingGroup (s : State) (n : Nat) : (moved s (waitingGroup s).strands n).grp s.gk = waitingGroup s := by
  rw [moved_grp, ← waitingGroup_shape]

theorem together_waiting (s : State) (k j : Nat) : together ((waitingGroup s).strand k) j =
    marked (atRegang s k) j none ((waitingGroup s).strand k).waitSeq (atRegang s k).arrived (atRegang s k).ended := by
  rw [waitingGroup_strand, atRegang]
  by_cases hk : k ∈ s.ks
  · simp only [if_pos hk]
    rfl
  · simp only [if_neg hk]
    rfl

section
variable {s : State} (hks : s.ks ≠ [])
  (h : ∀ k ∈ s.ks, (s.g.strand k).pc = s.pc ∧ (s.g.strand k).stack = [] ∧
    ((s.g.strand k).parked = 0 ∨ (s.g.strand k).parkPc = s.pc))
  (hall : ∀ k, (s.g.strand k).ended = false → k ∉ s.ks → (s.g.strand k).arrived = true ∧ (s.g.strand k).pc = s.pc)
include hks h hall

theorem regang_gathersAll : s.regang = (moved s (waitingGroup s).strands s.nextKey).gather s s.gk := by
  rw [waitingGroup, ← regangSets_moved]
  refine regang_gathers hks h fun k _ hlive _ => ?_
  by_cases hk : k ∈ s.ks
  · exact (h k hk).1
  · exact (hall k hlive hk).2

/-- When the last strand arrives and all agree, they pass in one set, which parts by address. -/
theorem regang_passes (htrav : s.g.trav = none) (hsame : ∀ k, (s.g.strand k).ended = false →
      (s.g.strand k).mode = s.mode ∧ (s.g.strand k).prec.toNat = s.prec) :
    ∃ X n j0, s.regang = { moved s X n with cur := { group := s.gk, jset := j0 } } ∧
      (∀ k, (s.g.strand k).ended = false → ∃ j m, (withStrands s X).strand k =
        ready ((together ((waitingGroup s).strand k) j0).pass 1) j m) ∧
      ∀ a b, (s.g.strand a).ended = false → (s.g.strand b).ended = false →
        ((withStrands s X).strand a).pc = ((withStrands s X).strand b).pc →
        ((withStrands s X).strand a).jset = ((withStrands s X).strand b).jset := by
  obtain ⟨k0, ks, hl⟩ := liveOf_waitingGroup hks
  have hgrp := moved_waitingGroup s s.nextKey
  have hagree : ∀ k, ((waitingGroup s).strand k).ended = false → ((waitingGroup s).strand k).mode = s.mode ∧
      ((waitingGroup s).strand k).prec.toNat = s.prec := fun k hlive => by
    obtain ⟨hended, hmode, hprec, -, -⟩ := waitingGroup_keeps s k
    rw [hmode, hprec]
    exact hsame k (hended.symm.trans hlive)
  have hlive0 : ((waitingGroup s).strand k0).ended = false := mem_liveOf.1 (hl ▸ List.mem_cons_self)
  set j0 := ((waitingGroup s).strand k0).jset with hj0
  have hpass := gather_passes (s := moved s (waitingGroup s).strands s.nextKey) (gk := s.gk) (by rw [hgrp]; exact hl)
    (by rw [hgrp]; exact waitingGroup_arrived hall) s fun k hlive => by
      rw [hgrp] at hlive ⊢
      obtain ⟨hmode, hprec⟩ := hagree k hlive
      obtain ⟨hmode0, hprec0⟩ := hagree k0 hlive0
      exact ⟨hmode.trans hmode0.symm, BitVec.eq_of_toNat_eq (hprec.trans hprec0.symm)⟩
  rw [← regang_gathersAll hks h hall, hgrp, ← hj0, done_joined waitingGroup_shape] at hpass
  obtain ⟨X, n, hretire, hgo, hjset⟩ := retire_passAll htrav waitingGroup_shape s.nextKey j0
  have hlive : ∀ k, (s.g.strand k).ended = false → ((waitingGroup s).strand k).ended = false := fun k hk =>
    (waitingGroup_keeps s k).1.trans hk
  exact ⟨X, n, j0, hpass.trans hretire, fun k hk => hgo k (hlive k hk), fun a b ha hb => hjset a b (hlive a ha) (hlive b hb)⟩

end

/-! ## The joined sets of a group that differs -/

/-- Joined sets with that of one more strand, where it has not ended and its set is not among them. -/
def addSet (g : Group) (a : List Nat) (k : Nat) : List Nat :=
  if (g.strand k).ended || a.contains (g.strand k).jset then a else a ++ [(g.strand k).jset]

theorem nodup_addSet {g : Group} {a : List Nat} (ha : a.Nodup) (k : Nat) : (addSet g a k).Nodup := by
  rw [addSet]
  split
  · exact ha
  · next hnew =>
    refine List.nodup_append.2 ⟨ha, List.nodup_singleton _, fun x hx y hy hxy => hnew ?_⟩
    rw [List.mem_singleton.1 hy] at hxy
    rw [← hxy, List.contains_iff_mem.2 hx, Bool.or_true]

theorem mem_addSet_of_mem {g : Group} {a : List Nat} {j : Nat} (hj : j ∈ a) (k : Nat) : j ∈ addSet g a k := by
  rw [addSet]
  split
  · exact hj
  · exact List.mem_append_left _ hj

theorem jset_mem_addSet {g : Group} (a : List Nat) {k : Nat} (hlive : (g.strand k).ended = false) : (g.strand k).jset ∈ addSet g a k := by
  rw [addSet]
  split
  · next hold => simpa [hlive] using hold
  · exact List.mem_append_right _ (List.mem_singleton_self _)

theorem nodup_foldl_addSet (g : Group) (ks : List Nat) {a : List Nat} (ha : a.Nodup) : (ks.foldl (addSet g) a).Nodup := by
  induction ks generalizing a with
  | nil => exact ha
  | cons k ks ih => exact ih (nodup_addSet ha k)

theorem mem_foldl_addSet {g : Group} (ks : List Nat) {a : List Nat} {j : Nat} (hj : j ∈ a) : j ∈ ks.foldl (addSet g) a := by
  induction ks generalizing a with
  | nil => exact hj
  | cons k ks ih => exact ih (mem_addSet_of_mem hj k)

theorem jset_mem_foldl_addSet {g : Group} {ks : List Nat} (a : List Nat) {k : Nat} (hk : k ∈ ks) (hlive : (g.strand k).ended = false) :
    (g.strand k).jset ∈ ks.foldl (addSet g) a := by
  induction ks generalizing a with
  | nil => cases hk
  | cons k' ks ih =>
    rcases List.mem_cons.1 hk with rfl | hk
    · exact mem_foldl_addSet ks (jset_mem_addSet a hlive)
    · exact ih _ hk

theorem nodup_sets (g : Group) : g.sets.Nodup := nodup_foldl_addSet g _ List.nodup_nil

theorem jset_mem_sets {g : Group} {k : Nat} (hlive : (g.strand k).ended = false) : (g.strand k).jset ∈ g.sets :=
  jset_mem_foldl_addSet [] (List.mem_range.2 (strand_lt hlive)) hlive

/-! ## Where MODE or PREC differ, every strand traps (R121) -/

theorem entered_jset {x y : Strand} {tr : Trap} {handler : DWord} (h : Entered x y tr handler) : y.jset = x.jset := by
  obtain ⟨-, -, -, -, -, -, -, -, -, -, -, -, -, hjset, -, -⟩ := h
  exact hjset

/-- Of some strands of the issuing group, those in a list of joined sets have entered the handler, and no other differs. -/
def Trapped (s : State) (js : List Nat) (X Y : List Strand) : Prop :=
  Y.length = X.length ∧ ∀ k, let x := (withStrands s X).strand k
    (x.ended = false ∧ x.jset ∈ js → Entered x ((withStrands s Y).strand k) { cause := 0x08 } s.lau.lrec.handler) ∧
    (¬ (x.ended = false ∧ x.jset ∈ js) → (withStrands s Y).strand k = x)

theorem Trapped.cons {s : State} {j : Nat} {js : List Nat} {X Y Z : List Strand} (hj : j ∉ js) (h : Trapped s [j] X Y)
    (h' : Trapped s js Y Z) : Trapped s (j :: js) X Z := by
  obtain ⟨hlen, hfirst⟩ := h
  obtain ⟨hlen', hrest⟩ := h'
  refine ⟨hlen'.trans hlen, fun k => ?_⟩
  obtain ⟨hin, hout⟩ := hfirst k
  obtain ⟨hin', hout'⟩ := hrest k
  dsimp only at hin hout hin' hout' ⊢
  by_cases hset : ((withStrands s X).strand k).ended = false ∧ ((withStrands s X).strand k).jset ∈ [j]
  · have hentered := hin hset
    have hjset := List.mem_singleton.1 hset.2
    have hkeep := hout' fun h => hj (by rw [← hjset, ← entered_jset hentered]; exact h.2)
    rw [hkeep]
    exact ⟨fun _ => hentered, fun hno => absurd ⟨hset.1, by rw [hjset]; exact List.mem_cons_self⟩ hno⟩
  · have hkeep := hout hset
    rw [hkeep] at hin' hout'
    have hcons : ((withStrands s X).strand k).ended = false ∧ ((withStrands s X).strand k).jset ∈ j :: js ↔
        ((withStrands s X).strand k).ended = false ∧ ((withStrands s X).strand k).jset ∈ js := by
      rw [List.mem_singleton] at hset
      rw [List.mem_cons]
      tauto
    rw [hcons]
    exact ⟨hin', hout'⟩

/-- No strand of some joined sets is in handler mode. -/
def OutOfHandler (g : Group) (js : List Nat) : Prop :=
  ∀ k, (g.strand k).ended = false → (g.strand k).jset ∈ js → (g.strand k).handler = false

section
variable {s : State} (hhandler : s.lau.lrec.handler ≠ 0) (n : Nat)
include hhandler

/-- A joined set outside handler mode enters the handler, and nothing else happens. -/
theorem takeTrap_moved {X : List Strand} {j : Nat} (hout : OutOfHandler (withStrands s X) [j]) :
    ∃ Y, (moved s X n).takeTrap s.gk ((withStrands s X).members j) { cause := 0x08 } false = moved s Y n ∧ Trapped s [j] X Y := by
  set g := withStrands s X with hg
  have hgo : ¬ (s.lau.lrec.handler = 0 ∨ (g.members j).any (fun k => (g.strand k).handler) = true ∨ (0x08 : Byte) = 0x15 ∨
      (0x08 : Byte) = 0x3F) := by
    rintro (h | h | h | h)
    · exact hhandler h
    · obtain ⟨k, hk, hin⟩ := List.any_eq_true.1 h
      obtain ⟨hjset, hended⟩ := (g.mem_members j k).1 hk
      rw [hout k hended (List.mem_singleton.2 hjset)] at hin
      cases hin
    · exact absurd h (by decide)
    · exact absurd h (by decide)
  obtain ⟨hshape, hlen, hstrand⟩ := foldl_onStrand (fun x => x.enter { cause := 0x08 } s.lau.lrec.handler
    ((moved s X n).nowAt g.core g.part)) (g.members j) (g.members_nodup j) g
  refine ⟨_, ?_, hlen, fun k => ?_⟩
  · unfold State.takeTrap State.takeTraps
    rw [moved_grp, ← hg]
    refine (if_neg hgo).trans ((setGrp_onGrp (counted s) s.gk n g _).trans ?_)
    exact congrArg (fun h : Group => ({ counted s with nextKey := n, groups := tset s.groups s.gk h } : State)) hshape
  · have hmem : k ∈ g.members j ↔ (g.strand k).ended = false ∧ (g.strand k).jset ∈ [j] := by
      rw [Group.mem_members, List.mem_singleton, and_comm]
    have hk := hstrand k
    refine ⟨fun hin => ?_, fun hno => ?_⟩
    · rw [if_pos ⟨hmem.2 hin, g.members_lt j k (hmem.2 hin)⟩] at hk
      exact hk ▸ ⟨rfl, rfl, rfl, rfl, rfl, rfl, rfl, rfl, rfl, rfl, rfl, rfl, rfl, rfl, rfl, rfl⟩
    · rw [if_neg fun h => hno (hmem.1 h.1)] at hk
      exact hk

/-- Joined sets that take the trap in turn: each strand of them enters the handler once. -/
theorem foldl_takeTrap_moved {js : List Nat} (hjs : js.Nodup) {X : List Strand} (hout : OutOfHandler (withStrands s X) js) :
    ∃ Y, js.foldl (fun u j => u.takeTrap s.gk ((u.grp s.gk).members j) { cause := 0x08 } false) (moved s X n) = moved s Y n ∧
      Trapped s js X Y := by
  induction js generalizing X with
  | nil => exact ⟨X, rfl, rfl, fun k => ⟨fun h => absurd h.2 List.not_mem_nil, fun _ => rfl⟩⟩
  | cons j js ih =>
    obtain ⟨hj, hjs⟩ := List.nodup_cons.1 hjs
    obtain ⟨Y, htrap, hfirst⟩ := takeTrap_moved hhandler n (X := X) (j := j) fun k hlive hk =>
      hout k hlive (by rw [List.mem_singleton.1 hk]; exact List.mem_cons_self)
    have houtY : OutOfHandler (withStrands s Y) js := fun k hlive hk => by
      obtain ⟨hin, hkeep⟩ := hfirst.2 k
      by_cases hset : ((withStrands s X).strand k).ended = false ∧ ((withStrands s X).strand k).jset ∈ [j]
      · rw [entered_jset (hin hset), List.mem_singleton.1 hset.2] at hk
        exact absurd hk hj
      · rw [hkeep hset] at hlive hk ⊢
        exact hout k hlive (List.mem_cons_of_mem j hk)
    obtain ⟨Z, hrest, hset⟩ := ih hjs houtY
    refine ⟨Z, ?_, hfirst.cons hj hset⟩
    rw [List.foldl_cons, moved_grp, htrap, hrest]

end

section
variable {s : State} (hks : s.ks ≠ [])
  (h : ∀ k ∈ s.ks, (s.g.strand k).pc = s.pc ∧ (s.g.strand k).stack = [] ∧
    ((s.g.strand k).parked = 0 ∨ (s.g.strand k).parkPc = s.pc))
  (hall : ∀ k, (s.g.strand k).ended = false → k ∉ s.ks → (s.g.strand k).arrived = true ∧ (s.g.strand k).pc = s.pc)
include hks h hall

/-- When the last strand arrives and two differ, every joined set enters the handler. -/
theorem regang_traps (hhandler : s.lau.lrec.handler ≠ 0) (hout : ∀ k, (s.g.strand k).ended = false → (s.g.strand k).handler = false)
    {a b : Nat} (ha : (s.g.strand a).ended = false) (hb : (s.g.strand b).ended = false)
    (hdiffer : (s.g.strand a).mode ≠ (s.g.strand b).mode ∨ (s.g.strand a).prec ≠ (s.g.strand b).prec) :
    ∃ Y, s.regang = moved s Y s.nextKey ∧ Trapped s (waitingGroup s).sets (waitingGroup s).strands Y := by
  obtain ⟨k0, ks, hl⟩ := liveOf_waitingGroup hks
  have hgrp := moved_waitingGroup s s.nextKey
  have hone : ∃ c, (s.g.strand c).ended = false ∧
      ((s.g.strand c).mode ≠ (s.g.strand k0).mode ∨ (s.g.strand c).prec ≠ (s.g.strand k0).prec) := by
    by_contra hno
    push Not at hno
    obtain ⟨hmodea, hpreca⟩ := hno a ha
    obtain ⟨hmodeb, hprecb⟩ := hno b hb
    exact hdiffer.elim (· (hmodea.trans hmodeb.symm)) (· (hpreca.trans hprecb.symm))
  obtain ⟨c, hc, hcdiffer⟩ := hone
  obtain ⟨hcended, hcmode, hcprec, -, -⟩ := waitingGroup_keeps s c
  obtain ⟨-, hmode0, hprec0, -, -⟩ := waitingGroup_keeps s k0
  have htraps := gather_traps (s := moved s (waitingGroup s).strands s.nextKey) (gk := s.gk) (by rw [hgrp]; exact hl)
    (by rw [hgrp]; exact waitingGroup_arrived hall) s (a := c) (by rw [hgrp, hcended, hc])
    (by rw [hgrp, hcmode, hcprec, hmode0, hprec0]; exact hcdiffer)
  rw [← regang_gathersAll hks h hall, hgrp] at htraps
  obtain ⟨Y, hfold, htrapped⟩ := foldl_takeTrap_moved hhandler s.nextKey (nodup_sets (waitingGroup s)) (X := (waitingGroup s).strands)
    fun k hlive _ => by
      rw [← waitingGroup_shape] at hlive ⊢
      obtain ⟨hended, -, -, -, hhand⟩ := waitingGroup_keeps s k
      exact hhand.trans (hout k (hended.symm.trans hlive))
  exact ⟨Y, htraps.trans hfold, htrapped⟩

end

theorem entered_atRegang {s : State} {k : Nat} {y : Strand} {tr : Trap} {handler : DWord}
    (h : Entered ((waitingGroup s).strand k) y tr handler) : Entered (atRegang s k) y tr handler := by
  rw [waitingGroup_strand] at h
  rw [atRegang]
  by_cases hk : k ∈ s.ks
  · simp only [if_pos hk] at h ⊢
    exact h
  · simp only [if_neg hk] at h ⊢
    exact h

/-- With every joined set in the handler, a strand has entered it unless it had ended. -/
theorem trapped_waiting {s : State} {Y : List Strand} (h : Trapped s (waitingGroup s).sets (waitingGroup s).strands Y) (k : Nat) :
    ((s.g.strand k).ended = false → Entered (atRegang s k) ((withStrands s Y).strand k) { cause := 0x08 } s.lau.lrec.handler) ∧
    (¬ (s.g.strand k).ended = false → (withStrands s Y).strand k = s.g.strand k) := by
  obtain ⟨hin, hout⟩ := h.2 k
  rw [← waitingGroup_shape] at hin hout
  obtain ⟨hended, -, -, -, -⟩ := waitingGroup_keeps s k
  refine ⟨fun hlive => ?_, fun hno => ?_⟩
  · have hlive' := hended.trans hlive
    exact entered_atRegang (hin ⟨hlive', jset_mem_sets hlive'⟩)
  · have hk : k ∉ s.ks := fun hk => hno (mem_ks.1 hk).2
    refine (hout fun hlive => hno (hended.symm.trans hlive.1)).trans ?_
    rw [waitingGroup_strand, if_neg hk]

/-! ## The four outcomes -/

/-- Settles O17: a set with stacks retires where its paths go, and is not gathered; one that has reconverged waits, and the last to
arrive passes with all the others as one set, which parts by address, or every joined set takes the trap in turn. -/
theorem reganging : Obligations.Reganging := by
  refine ⟨?_, ?_, ?_, ?_⟩
  · intro s hb htrav hks h
    obtain ⟨X, n, hmoved, hwent⟩ := regang_runsPaths htrav hks h
    obtain ⟨hframe, hctl, hothers, hgroup⟩ := moved_keeps s X n
    refine ⟨moved s X n, regang_runs hmoved hb rfl, hframe, hctl, hothers, hgroup, ?_⟩
    rw [moved_g]
    exact hwent
  · intro s hb hks h hhere hwait
    have hmoved := (regang_waits hks h hhere hwait).trans (regangSets_moved s _)
    obtain ⟨-, hctl, hothers, hgroup⟩ := moved_keeps s (waitingGroup s).strands s.nextKey
    refine ⟨moved s (waitingGroup s).strands s.nextKey, regang_runs hmoved hb rfl, rfl, hctl, hothers, hgroup, ?_, ?_⟩
    · rw [moved_g]
      exact waitingGroup_length s
    · rw [moved_g, ← waitingGroup_shape]
      exact waitingGroup_strand s
  · intro s hb htrav hks h hall hsame
    have hother : ∀ k, (s.g.strand k).ended = false → k ∉ s.ks → (s.g.strand k).arrived = true ∧ (s.g.strand k).pc = s.pc :=
      fun k hlive => hall k (strand_lt hlive) hlive
    obtain ⟨X, n, j0, hmoved, hgo, hjset⟩ := regang_passes hks h hother htrav fun k hlive => hsame k (strand_lt hlive) hlive
    obtain ⟨hframe, hctl, hothers, hgroup⟩ := moved_keeps s X n
    have hg : ({ moved s X n with cur := { group := s.gk, jset := j0 } } : State).g = withStrands s X := moved_grp s X n
    refine ⟨{ moved s X n with cur := { group := s.gk, jset := j0 } }, regang_runs hmoved hb rfl, rfl, hctl, hothers, ?_,
      fun k _ hlive => ?_, fun a b _ _ ha hb' hpc => ?_⟩
    · rw [GroupIs, hg]
      rfl
    · obtain ⟨j, m, hready⟩ := hgo k hlive
      rw [together_waiting, ready_pass_marked] at hready
      have hpc : (atRegang s k).pc = s.pc := by
        by_cases hk : k ∈ s.ks
        · exact (h k hk).1
        · exact (hother k hlive hk).2
      rw [hpc] at hready
      rw [hg]
      exact ⟨j, m, _, hready⟩
    · rw [hg] at hpc ⊢
      exact hjset a b ha hb' hpc
  · intro s hb hks hhandler h hall hdiffer
    have hother : ∀ k, (s.g.strand k).ended = false → k ∉ s.ks → (s.g.strand k).arrived = true ∧ (s.g.strand k).pc = s.pc :=
      fun k hlive => (hall k (strand_lt hlive) hlive).2
    obtain ⟨a, b, -, -, ha, hb', hdiffer⟩ := hdiffer
    obtain ⟨Y, hmoved, htrapped⟩ := regang_traps hks h hother hhandler
      (fun k hlive => (hall k (strand_lt hlive) hlive).1) ha hb' hdiffer
    obtain ⟨-, hctl, hothers, hgroup⟩ := moved_keeps s Y s.nextKey
    refine ⟨moved s Y s.nextKey, regang_runs hmoved hb rfl, rfl, hctl, hothers, hgroup, ?_, fun k => ?_⟩
    · rw [moved_g]
      exact htrapped.1.trans (waitingGroup_length s)
    · obtain ⟨hentered, hkept⟩ := trapped_waiting htrapped k
      rw [moved_g]
      split
      · next hlive => exact hentered hlive.2
      · next hended => exact hkept fun hlive => hended ⟨strand_lt hlive, hlive⟩

end Sys2Proof.Proofs.Regangs
end
